-- ==== Sys2Proof/Word.lean ====
section
/-! DEFINITION. The machine's word types. -/

namespace Sys2Proof

/-- A 64-bit register, the width of every general, pointer and page register. -/
abbrev Word := BitVec 64

/-- One byte of any memory of the module. -/
abbrev Byte := BitVec 8

/-- A parcel of program memory (R41). -/
abbrev Parcel := BitVec 14

/-- A parcel address: the width of PC, EPC and the loop address registers (R39, R41). -/
abbrev PAddr := BitVec 16

end Sys2Proof
end

