-- ==== Sys2Proof/Syntax.lean ====
section
/-! DEFINITION. The commands of the module: one constructor per row of spec/opcode_table.json, in the table's order but
for IDLE, which stands with the other system instructions. The table gives no operand bits, so the operands are the ones the
row's rule names. In core instructions `c` is the core or steward that issues it (a core ID of R4, or 0x3F0 + die for a
steward, R75) and the other fields are the raw fields of the instruction word. In register accesses `q` is the requester as R23 numbers it. -/

namespace Sys2Proof

/-- Fields of a vector instruction word below the opcode (R105). -/
structure VFields where
  ty : BitVec 3
  pred : BitVec 4
  z : BitVec 1
  vd : BitVec 5
  va : BitVec 5
  vb : BitVec 5
  aux : BitVec 8
  deriving DecidableEq, Repr

/-- Fields of a system instruction word below the opcode (R51). -/
structure SysF where
  a : BitVec 4
  b : BitVec 4
  c : BitVec 4
  imm : BitVec 19
  deriving DecidableEq, Repr

/-- Fields of TLD and TST below the sub-opcode (R149). -/
structure TileF where
  src : BitVec 1
  idx : BitVec 4
  geo : BitVec 2
  tfmt : BitVec 4
  mfmt : BitVec 5
  tr : BitVec 1
  rm : BitVec 2
  ns : BitVec 1
  csel : BitVec 2
  a : BitVec 4
  b : BitVec 4
  c : BitVec 4
  e : BitVec 4
  ext : BitVec 1
  sstride : BitVec 12
  low : BitVec 23
  deriving DecidableEq, Repr

/-- Fields of TMUL (R150). -/
structure TmulF where
  acc : BitVec 4
  ta : BitVec 3
  tb : BitVec 3
  shape : BitVec 2
  fa : BitVec 4
  fb : BitVec 4
  zero : BitVec 1
  ksel : BitVec 1
  low : BitVec 52
  deriving DecidableEq, Repr

/-- Fields of TSAVE and TRESTORE (R151). -/
structure SaveF where
  amask : BitVec 16
  tmask : BitVec 8
  prog : BitVec 1
  a : BitVec 4
  low : BitVec 45
  deriving DecidableEq, Repr

/-- Fields of MATX below the opcode (R167). -/
structure MatxF where
  shape : BitVec 2
  fa : BitVec 4
  fb : BitVec 4
  fc : BitVec 4
  order : BitVec 2
  acc : BitVec 1
  ta : BitVec 1
  tb : BitVec 1
  epi : BitVec 1
  mda : BitVec 4
  mdb : BitVec 4
  mdc : BitVec 4
  episel : BitVec 4
  m : BitVec 14
  n : BitVec 14
  k : BitVec 14
  deriving DecidableEq, Repr

/-- An access to a register: one in flight, by its number, or one made at once by requester `q` (R23) of `size` bytes at
`mpa` with value `v`. `test` and `dead` are what the environment answers if the access causes an MR: the REASON of a self-test
that fails or 0, and a bit for each stack that fails training. -/
structure RegAcc where
  id : Option Nat
  q : Nat
  mpa : Nat
  size : Nat
  v : Word
  test : Nat
  dead : Nat
  deriving DecidableEq, Repr

/-- The commands. -/
inductive Instr where
  | registerWrite (write : Bool) (a : RegAcc)
  | registerReadClear (a : RegAcc)
  | lock (a : RegAcc)
  | freeze (a : RegAcc)
  | irqTest (a : RegAcc)
  | cfgEpochWrite (a : RegAcc)
  | perfClear (a : RegAcc)
  | perfSnap (a : RegAcc)
  | perfCounterWrap (die page k : Nat)
  | digestGo (a : RegAcc)
  | digestWalkDone (die : Nat)
  | keeperDigestReport
  | keeperCfgEpochWrite (a : RegAcc)
  | configStale (d : Nat)
  | keeperResetNotice
  | placeEntWrite (a : RegAcc)
  | corePmDataWrite (a : RegAcc)
  | corePmDataRead (a : RegAcc)
  | coreRunStart (a : RegAcc)
  | coreRunStop (a : RegAcc)
  | coreStop (c : Nat)
  | ill (c : Nat) (_d _s : BitVec 4)
  | nop (c : Nat) (_d _s : BitVec 4)
  | mov (c : Nat) (d r : BitVec 4)
  | add (c : Nat) (d r : BitVec 4)
  | sub (c : Nat) (d r : BitVec 4)
  | and (c : Nat) (d r : BitVec 4)
  | or (c : Nat) (d r : BitVec 4)
  | xor (c : Nat) (d r : BitVec 4)
  | shl (c : Nat) (d r : BitVec 4)
  | shr (c : Nat) (d r : BitVec 4)
  | sar (c : Nat) (d r : BitVec 4)
  | ror (c : Nat) (d r : BitVec 4)
  | slt (c : Nat) (d r : BitVec 4)
  | sltu (c : Nat) (d r : BitVec 4)
  | seq (c : Nat) (d r : BitVec 4)
  | not (c : Nat) (d r : BitVec 4)
  | neg (c : Nat) (d r : BitVec 4)
  | min (c : Nat) (d r : BitVec 4)
  | max (c : Nat) (d r : BitVec 4)
  | clz (c : Nat) (d r : BitVec 4)
  | popc (c : Nat) (d r : BitVec 4)
  | sxb (c : Nat) (d r : BitVec 4)
  | sxh (c : Nat) (d r : BitVec 4)
  | sxw (c : Nat) (d r : BitVec 4)
  | mul (c : Nat) (d r : BitVec 4)
  | mulu (c : Nat) (d r : BitVec 4)
  | mulh (c : Nat) (d r : BitVec 4)
  | mac (c : Nat) (d r : BitVec 4)
  | div (c : Nat) (d r : BitVec 4)
  | divu (c : Nat) (d r : BitVec 4)
  | muldivResult (c : Nat)
  | mfpl (c : Nat) (d _s : BitVec 4)
  | mfph (c : Nat) (d _s : BitVec 4)
  | mtpl (c : Nat) (_d r : BitVec 4)
  | mtph (c : Nat) (_d r : BitVec 4)
  | ld (c : Nat) (sz : BitVec 2) (d r : BitVec 4)
  | ldu (c : Nat) (sz : BitVec 2) (d r : BitVec 4)
  | st (c : Nat) (sz : BitVec 2) (d r : BitVec 4)
  | jr (c : Nat) (d r : BitVec 4)
  | mtp (c : Nat) (d r : BitVec 4)
  | mfp (c : Nat) (d r : BitVec 4)
  | addi (c : Nat) (d a : BitVec 4) (imm : BitVec 12)
  | andi (c : Nat) (d a : BitVec 4) (imm : BitVec 12)
  | ori (c : Nat) (d a : BitVec 4) (imm : BitVec 12)
  | xori (c : Nat) (d a : BitVec 4) (imm : BitVec 12)
  | shli (c : Nat) (d a : BitVec 4) (imm : BitVec 12)
  | shri (c : Nat) (d a : BitVec 4) (imm : BitVec 12)
  | sari (c : Nat) (d a : BitVec 4) (imm : BitVec 12)
  | slti (c : Nat) (d a : BitVec 4) (imm : BitVec 12)
  | movi (c : Nat) (d : BitVec 4) (imm : BitVec 16)
  | movk (c : Nat) (d : BitVec 4) (imm : BitVec 16)
  | alu3 (c : Nat) (d a b : BitVec 4) (fn : BitVec 8)
  | ldFormM (c : Nat) (d a : BitVec 4) (sz : BitVec 3) (off : BitVec 9)
  | ldU (c : Nat) (d a : BitVec 4) (sz : BitVec 3) (off : BitVec 9)
  | stFormM (c : Nat) (d a : BitVec 4) (sz : BitVec 3) (off : BitVec 9)
  | ldp (c : Nat) (d : BitVec 4) (post : Bool) (n sz : BitVec 3) (u : Bool) (off : BitVec 8)
  | stp (c : Nat) (d : BitVec 4) (post : Bool) (n sz : BitVec 3) (u : Bool) (off : BitVec 8)
  | loadDataReturn (c id : Nat)
  | writeAcknowledge (c id : Nat)
  | beq (c : Nat) (a b : BitVec 4) (off : BitVec 12)
  | bne (c : Nat) (a b : BitVec 4) (off : BitVec 12)
  | blt (c : Nat) (a b : BitVec 4) (off : BitVec 12)
  | bge (c : Nat) (a b : BitVec 4) (off : BitVec 12)
  | bltu (c : Nat) (a b : BitVec 4) (off : BitVec 12)
  | bgeu (c : Nat) (a b : BitVec 4) (off : BitVec 12)
  | bz (c : Nat) (a : BitVec 4) (off : BitVec 16)
  | bnz (c : Nat) (a : BitVec 4) (off : BitVec 16)
  | j (c : Nat) (l : BitVec 4) (target : BitVec 16)
  | loop (c : Nat) (n zero : BitVec 2) (a : BitVec 4) (fin : BitVec 12)
  | loopi (c : Nat) (n : BitVec 2) (count : BitVec 8) (fin : BitVec 10)
  | mfs (c : Nat) (f : SysF)
  | mts (c : Nat) (f : SysF)
  | mtsCs (c : Nat) (f : SysF)
  | csWriteCommit (c : Nat)
  | mtsPmseg (c : Nat) (f : SysF)
  | pmld (c : Nat) (f : SysF)
  | idle (c : Nat) (f : SysF)
  | noticeRead (c : Nat) (f : SysF)
  | faultEntry (c : Nat) (fetch : Option (Nat × Nat))
  | interruptEntry (c : Nat)
  | reportEntry (c : Nat)
  | eret (c : Nat) (f : SysF)
  | syscall (c : Nat) (f : SysF)
  | gret (c : Nat) (f : SysF)
  | vld (c : Nat) (f : VFields)
  | vst (c : Nat) (f : VFields)
  | vlds (c : Nat) (f : VFields)
  | vsts (c : Nat) (f : VFields)
  | vgath (c : Nat) (f : VFields)
  | vscat (c : Nat) (f : VFields)
  | vadd (c : Nat) (f : VFields)
  | vsub (c : Nat) (f : VFields)
  | vmul (c : Nat) (f : VFields)
  | vfma (c : Nat) (f : VFields)
  | vmin (c : Nat) (f : VFields)
  | vmax (c : Nat) (f : VFields)
  | vabs (c : Nat) (f : VFields)
  | vneg (c : Nat) (f : VFields)
  | vand (c : Nat) (f : VFields)
  | vor (c : Nat) (f : VFields)
  | vxor (c : Nat) (f : VFields)
  | vshl (c : Nat) (f : VFields)
  | vshr (c : Nat) (f : VFields)
  | vsar (c : Nat) (f : VFields)
  | vcvt (c : Nat) (f : VFields)
  | vsplat (c : Nat) (f : VFields)
  | vcmp (c : Nat) (f : VFields)
  | qop (c : Nat) (f : VFields)
  | mtq (c : Nat) (f : VFields)
  | mfq (c : Nat) (f : VFields)
  | vsel (c : Nat) (f : VFields)
  | vsf (c : Nat) (f : VFields)
  | vred (c : Nat) (f : VFields)
  | vperm (c : Nat) (f : VFields)
  | vrot (c : Nat) (f : VFields)
  | vins (c : Nat) (f : VFields)
  | vext (c : Nat) (f : VFields)
  | vtrd (c : Nat) (f : VFields)
  | vtwr (c : Nat) (f : VFields)
  | vard (c : Nat) (f : VFields)
  | vawr (c : Nat) (f : VFields)
  | tld (c : Nat) (f : TileF) (n : Nat)
  | tst (c : Nat) (f : TileF)
  | tmul (c : Nat) (f : TmulF)
  | tmulComplete (c : Nat)
  | tsave (c : Nat) (f : SaveF)
  | trestore (c : Nat) (f : SaveF)
  | matx (c : Nat) (f : MatxF)
  | matxWalkBegin (c : Nat)
  | matxStep (c : Nat)
  | matxWriteout (c : Nat)
  | matxCompletion (c : Nat)
  | tyield (c : Nat) (f : SysF)
  | tyieldR (c : Nat) (f : SysF)
  | wcbWriteout (c line : Nat)
  | cribFill (c line : Nat)
  | translationWalk (c : Nat)
  | walkComplete (c : Nat)
  | tlbinv (c : Nat) (f : SysF)
  | rangeEntryRelease (c idx : Nat)
  | fence (c : Nat) (f : SysF)
  | fenceRel (c : Nat) (scope : BitVec 2)
  | fenceAcq (c : Nat) (scope : BitVec 2)
  | loftWindowAccess (id : Nat)
  | sig (c : Nat) (f : SysF)
  | counterIncrement (idx : Nat)
  | wait (c : Nat) (f : SysF)
  | waitComplete (c : Nat)
  | sheafInc (a : RegAcc)
  | stookArrive (c : Nat) (f : SysF)
  | stookArrival (idx : Nat)
  | stookWaitg (c : Nat) (f : SysF)
  | stookWaitgComplete (c : Nat)
  | stookMaskWrite (a : RegAcc)
  | stallDetected (die g : Nat)
  | watchCapture (a : RegAcc)
  | send (c : Nat) (f : SysF)
  | trysend (c : Nat) (f : SysF)
  | chuteRequest (c ch : Nat)
  | chuteResponse (c : Nat)
  | sendRetry (c : Nat)
  | reservationTimeout (c ch : Nat)
  | recv (c : Nat) (f : SysF)
  | recvTry (c : Nat) (f : SysF)
  | recvFree (c : Nat) (f : SysF)
  | chuteEnable (a : RegAcc)
  | wgoStart (c : Nat) (f : SysF)
  | wgoStop (c : Nat) (f : SysF)
  | wainGo (a : RegAcc)
  | wainStop (a : RegAcc)
  | wainFetch (w : Nat)
  | wainMove (w : Nat)
  | wainLoop (w : Nat)
  | wainWaitCounter (w : Nat)
  | wainWaitCadence (w : Nat)
  | wainWaitComplete (w : Nat)
  | wainSignalCounter (w : Nat)
  | wainSignalMessage (w : Nat)
  | wainSignalRetry (w : Nat)
  | wainPlane (w : Nat)
  | wainEnd (w : Nat)
  | wainWriteAck (w id : Nat)
  | furrowEnter (a : RegAcc)
  | furrowArmedEntry (c : Nat)
  | furrowEntryComplete (c : Nat)
  | ruleDispatch (c : Nat)
  | firingOutput (c r : Nat)
  | tokenArrival (c idx : Nat)
  | injectorTake (c k : Nat)
  | ejectorWrite (c k : Nat)
  | furrowDrain (a : RegAcc)
  | furrowDrained (c : Nat)
  | furrowExit (a : RegAcc)
  | checkFrame (die page k frames seq reply crc : Nat)
  | replay (die page k : Nat)
  | checkTimeout (die page : Nat)
  | training (l : Nat) (rxLow rxHigh : List Nat)
  | trainAckTimeout (die page : Nat)
  | downRetry (die page : Nat)
  | beaconSend (die page : Nat)
  | beaconReceive (die page : Nat)
  | beaconLost (die page : Nat)
  | resetNotice (die page : Nat)
  | dielinkRetrain (a : RegAcc)
  | lpEnter (a : RegAcc)
  | lpExit (wake : Option (Nat × Nat)) (a : RegAcc)
  | barnRead (id : Nat)
  | barnWrite (id : Nat)
  | accumulatingWriteFast (id : Nat)
  | accumulatingWriteExact (id : Nat)
  | patrolRead (k l : Nat)
  | accEnable (a : RegAcc)
  | accDisable (a : RegAcc)
  | finalise (a : RegAcc)
  | finaliseComplete (die n : Nat)
  | zero (a : RegAcc)
  | zeroComplete (die n : Nat)
  | granaryCtrlWrite (a : RegAcc)
  | ppsEdge (el : Nat)
  | ppsLost
  | secApply (a : RegAcc)
  | load (a : RegAcc)
  | cadTimeLowRead (a : RegAcc)
  | frameCfgWrite (a : RegAcc)
  | frameInEdge (el : Nat)
  | freeRunEdge
  | frameLost
  | holdoverEdge
  | lineBoundary
  | tickWord (die : Nat) (good : Bool)
  | intakeReadResponse (idx : Nat)
  | intakePeriodSample (die : Nat)
  | slotEnable (a : RegAcc)
  | hostMemoryWrite (bar off len data : Nat) (ep : Bool) (hdr test dead : Nat)
  | hostMemoryRead (bar off len tag : Nat)
  | hostWindowAccess (id : Nat)
  | hostCompletion (id status data : Nat)
  | completionTimeout (id : Nat)
  | msixSend (a : RegAcc)
  | msixUnmask (v : Nat)
  | bar2AperWrite (a : RegAcc)
  | barResize (n : Nat)
  | ringEnable (a : RegAcc)
  | intakeNop (r : Nat)
  | intakeRun (r : Nat)
  | intakeFence (r : Nat)
  | intakeSignal (r : Nat)
  | taskCompletion (idx : Nat)
  | completionEntry (r : Nat)
  | perstN (test dead : Nat)
  | hotReset (test dead : Nat)
  | flr (test dead : Nat)
  | d3hotEntry
  | d0Return
  | doeDiscovery (index : Nat)
  | getVersion (doe : Bool)
  | getCapabilities (doe : Bool)
  | negotiateAlgorithms (doe : Bool)
  | getDigests (doe : Bool)
  | getCertificate (doe : Bool) (slot : Nat)
  | spdmChallenge (doe : Bool)
  | getMeasurements (doe : Bool) (index : Nat)
  | keyExchange (doe : Bool)
  | mctpControl (cmd arg : Nat)
  | pldmRequest (sensor : Nat)
  | cr (a : RegAcc)
  | pr (a : RegAcc)
  | dr (a : RegAcc)
  | po (test dead : Nat)
  | sweepDone (what n : Nat)
  | pmapWrite (a : RegAcc)
  | parkRequest (a : RegAcc)
  | parkEnter (c : Nat)
  | parkClear (a : RegAcc)
  | dozeRequest (a : RegAcc)
  | dozeEnter (die : Nat)
  | dozeClear (a : RegAcc)
  | retire (a : RegAcc)
  | unretire (a : RegAcc)
  | idleWake (c : Nat)
  | wdkick (c : Nat) (f : SysF)
  | coreWatchdogExpiry (c : Nat)
  | stewardWatchdogKick (a : RegAcc)
  | stewardWatchdogExpiry (die test dead : Nat)
  | status (a : RegAcc)
  | selfTest (a : RegAcc)
  | challenge (a : RegAcc)
  | random (a : RegAcc)
  | enrolCo (a : RegAcc)
  | enrolUser (a : RegAcc)
  | enrolCert (a : RegAcc)
  | update (a : RegAcc)
  | updateDone
  | lifecycle (a : RegAcc)
  | debugUnlock (a : RegAcc)
  | zeroise (a : RegAcc)
  | recoveryGo (a : RegAcc)
  | jtagExtest
  | vinUndervoltage (vin : Nat)
  | vinOvervoltage (vin : Nat)
  | pwrEnAssert
  | pwrEnDeassert
  | pwrOpWrite (a : RegAcc)
  | opChangeDone (die half : Nat)
  | droopDetect (die half : Nat)
  | droopStep (die half : Nat) (up : Bool)
  | pwrGrant (a : RegAcc)
  | powerReport (die avg steps : Nat)
  | powerWindow (die mean : Nat)
  | budgetLost (die : Nat)
  | overBudget (mean : Nat)
  | thermalThrottleStep (die half : Nat) (temps : List Nat)
  | thermalTrip (src : Nat)
  | recvComplete (c : Nat)
  | hostLinkTraining (rate width : Nat)
  | hostLinkDown
  | configurationRequest (tag dw : Nat) (write : Bool) (v : BitVec 32)
  | unsupportedRequest (tag hdr : Nat)
  | unexpectedCompletion (ecrc : Bool) (hdr : Nat)
  | malformedTlp (kind hdr : Nat)
  | receiverError (kind : Nat)
  | perstNDeassert
  | vinWarn (vin : Nat)
  | thermAlert (die n t : Nat)
  | doubledRefresh (k temp : Nat)
  | ecsRead (k count : Nat)
  | stewardReload (d : Nat)
  | extestRelease (test dead : Nat)
  | authorisedDebug (op c x : Nat) (v : Word)
  | ringRewrite (a : RegAcc)
  deriving DecidableEq, Repr

end Sys2Proof
end

