-- ==== Sys2Proof/Decode.lean ====
section
/-! DEFINITION. The encodings of a core's instructions in its program memory (R46 to R52, R105, R106, R149 to R151, R167), and the command that
a word spells by the bits of spec/opcode_table.json. The table gives its rows no bits: the module is commanded by register accesses,
instructions, messages and events, not by words of one encoding. -/

namespace Sys2Proof

/-- Bits [lo+n-1:lo] of a word. -/
def wordBits (w lo n : Nat) : BitVec n := BitVec.ofNat n (w / 2 ^ lo)

/-- One-parcel instructions (R48): opcode [13:8], d [7:4], s [3:0]. -/
def decodeOne (c w : Nat) : Option Instr :=
  let d := wordBits w 4 4
  let r := wordBits w 0 4
  match w / 256 % 64 with
  | 0x00 => some (.ill c d r) | 0x01 => some (.nop c d r) | 0x02 => some (.mov c d r) | 0x03 => some (.add c d r)
  | 0x04 => some (.sub c d r) | 0x05 => some (.and c d r) | 0x06 => some (.or c d r) | 0x07 => some (.xor c d r)
  | 0x08 => some (.shl c d r) | 0x09 => some (.shr c d r) | 0x0A => some (.sar c d r) | 0x0B => some (.ror c d r)
  | 0x0C => some (.slt c d r) | 0x0D => some (.sltu c d r) | 0x0E => some (.seq c d r) | 0x0F => some (.not c d r)
  | 0x10 => some (.neg c d r) | 0x11 => some (.min c d r) | 0x12 => some (.max c d r) | 0x13 => some (.clz c d r)
  | 0x14 => some (.popc c d r) | 0x15 => some (.sxb c d r) | 0x16 => some (.sxh c d r) | 0x17 => some (.sxw c d r)
  | 0x18 => some (.mul c d r) | 0x19 => some (.mulu c d r) | 0x1A => some (.mulh c d r) | 0x1B => some (.mac c d r)
  | 0x1C => some (.div c d r) | 0x1D => some (.divu c d r) | 0x1E => some (.mfpl c d r) | 0x1F => some (.mfph c d r)
  | 0x20 => some (.mtpl c d r) | 0x21 => some (.mtph c d r)
  | 0x22 => some (.ld c 0 d r) | 0x23 => some (.ld c 1 d r) | 0x24 => some (.ld c 2 d r) | 0x25 => some (.ld c 3 d r)
  | 0x26 => some (.ldu c 0 d r) | 0x27 => some (.ldu c 1 d r) | 0x28 => some (.ldu c 2 d r)
  | 0x29 => some (.st c 0 d r) | 0x2A => some (.st c 1 d r) | 0x2B => some (.st c 2 d r) | 0x2C => some (.st c 3 d r)
  | 0x2D => some (.jr c d r) | 0x2E => some (.mtp c d r) | 0x2F => some (.mfp c d r)
  | _ => none

/-- Two-parcel instructions (R49, R50): opcode [24:20] and the forms of R49. -/
def decodeTwo (c w : Nat) : Option Instr :=
  let d := wordBits w 16 4
  let a := wordBits w 12 4
  let i12 := wordBits w 0 12
  let i16 := wordBits w 0 16
  let sz := wordBits w 9 3
  let n := wordBits w 12 3
  let post := w / 2 ^ 15 % 2 == 1
  let u := w / 2 ^ 8 % 2 == 1
  match w / 2 ^ 20 % 32 with
  | 0x00 => some (.addi c d a i12) | 0x01 => some (.andi c d a i12) | 0x02 => some (.ori c d a i12) | 0x03 => some (.xori c d a i12)
  | 0x04 => some (.shli c d a i12) | 0x05 => some (.shri c d a i12) | 0x06 => some (.sari c d a i12) | 0x07 => some (.slti c d a i12)
  | 0x08 => some (.movi c d i16) | 0x09 => some (.movk c d i16) | 0x0A => some (.alu3 c d a (wordBits w 8 4) (wordBits w 0 8))
  | 0x0B => some (.ldFormM c d a sz (wordBits w 0 9)) | 0x0C => some (.ldU c d a sz (wordBits w 0 9))
  | 0x0D => some (.stFormM c d a sz (wordBits w 0 9))
  | 0x0E => some (.ldp c d post n sz u (wordBits w 0 8)) | 0x0F => some (.stp c d post n sz u (wordBits w 0 8))
  | 0x10 => some (.beq c d a i12) | 0x11 => some (.bne c d a i12) | 0x12 => some (.blt c d a i12) | 0x13 => some (.bge c d a i12)
  | 0x14 => some (.bltu c d a i12) | 0x15 => some (.bgeu c d a i12) | 0x16 => some (.bz c d i16) | 0x17 => some (.bnz c d i16)
  | 0x18 => some (.j c d i16)
  | 0x19 => some (.loop c (wordBits w 18 2) (wordBits w 16 2) a i12)
  | 0x1A => some (.loopi c (wordBits w 18 2) (wordBits w 10 8) (wordBits w 0 10))
  | _ => none

/-- System instructions (R51, R52): opcode [36:31]; the forms of STOOK, RECV and TYIELD by their immediates (R186, R241, R260). -/
def decodeSystem (c w : Nat) : Option Instr :=
  let f : SysF := { a := wordBits w 27 4, b := wordBits w 23 4, c := wordBits w 19 4, imm := wordBits w 0 19 }
  match w / 2 ^ 31 % 64 with
  | 0x00 => some (.mfs c f) | 0x01 => some (.mts c f) | 0x02 => some (.syscall c f) | 0x03 => some (.gret c f) | 0x04 => some (.eret c f)
  | 0x05 => some (.fence c f) | 0x06 => some (.wait c f) | 0x07 => some (.sig c f)
  | 0x08 => some (if w / 2 ^ 18 % 2 = 0 then .stookArrive c f else .stookWaitg c f)
  | 0x09 => some (.send c f) | 0x0A => some (.trysend c f)
  | 0x0B => some (match w / 2 ^ 17 % 4 with | 1 => .recvTry c f | 2 => .recvFree c f | _ => .recv c f)
  | 0x0C => some (if w % 2 = 0 then .tyield c f else .tyieldR c f)
  | 0x0D => some (.pmld c f) | 0x0E => some (.idle c f)
  | _ => none

/-- The fields of a vector instruction word (R105). -/
def vFieldsOf (w : Nat) : VFields :=
  { ty := wordBits w 28 3, pred := wordBits w 24 4, z := wordBits w 23 1, vd := wordBits w 18 5, va := wordBits w 13 5, vb := wordBits w 8 5
    aux := wordBits w 0 8 }

/-- Vector instructions (R105, R106): opcode [36:31]. -/
def decodeVector (c w : Nat) : Option Instr :=
  let f := vFieldsOf w
  match w / 2 ^ 31 % 64 with
  | 0x00 => some (.vld c f) | 0x01 => some (.vst c f) | 0x02 => some (.vlds c f) | 0x03 => some (.vsts c f)
  | 0x04 => some (.vgath c f) | 0x05 => some (.vscat c f) | 0x08 => some (.vadd c f) | 0x09 => some (.vsub c f)
  | 0x0A => some (.vmul c f) | 0x0B => some (.vfma c f) | 0x0C => some (.vmin c f) | 0x0D => some (.vmax c f)
  | 0x0E => some (.vabs c f) | 0x0F => some (.vneg c f) | 0x10 => some (.vand c f) | 0x11 => some (.vor c f)
  | 0x12 => some (.vxor c f) | 0x13 => some (.vshl c f) | 0x14 => some (.vshr c f) | 0x15 => some (.vsar c f)
  | 0x16 => some (.vcvt c f) | 0x17 => some (.vsplat c f) | 0x18 => some (.vcmp c f) | 0x19 => some (.qop c f)
  | 0x1A => some (.mtq c f) | 0x1B => some (.mfq c f) | 0x1C => some (.vsel c f) | 0x20 => some (.vsf c f)
  | 0x24 => some (.vred c f) | 0x28 => some (.vperm c f) | 0x29 => some (.vrot c f) | 0x2A => some (.vins c f)
  | 0x2B => some (.vext c f) | 0x30 => some (.vtrd c f) | 0x31 => some (.vtwr c f) | 0x32 => some (.vard c f)
  | 0x33 => some (.vawr c f)
  | _ => none

/-- The fields of TLD and TST (R149). -/
def tileFOf (w : Nat) : TileF :=
  { src := wordBits w 73 1, idx := wordBits w 69 4, geo := wordBits w 67 2, tfmt := wordBits w 63 4, mfmt := wordBits w 58 5, tr := wordBits w 57 1
    rm := wordBits w 55 2, ns := wordBits w 54 1, csel := wordBits w 52 2, a := wordBits w 48 4, b := wordBits w 44 4, c := wordBits w 40 4
    e := wordBits w 36 4, ext := wordBits w 35 1, sstride := wordBits w 23 12, low := wordBits w 0 23 }

/-- The fields of TMUL (R150). -/
def tmulFOf (w : Nat) : TmulF :=
  { acc := wordBits w 70 4, ta := wordBits w 67 3, tb := wordBits w 64 3, shape := wordBits w 62 2, fa := wordBits w 58 4, fb := wordBits w 54 4
    zero := wordBits w 53 1, ksel := wordBits w 52 1, low := wordBits w 0 52 }

/-- The fields of TSAVE and TRESTORE (R151). -/
def saveFOf (w : Nat) : SaveF :=
  { amask := wordBits w 58 16, tmask := wordBits w 50 8, prog := wordBits w 49 1, a := wordBits w 45 4, low := wordBits w 0 45 }

/-- The fields of MATX (R167). -/
def matxFOf (w : Nat) : MatxF :=
  { shape := wordBits w 76 2, fa := wordBits w 72 4, fb := wordBits w 68 4, fc := wordBits w 64 4, order := wordBits w 62 2, acc := wordBits w 61 1
    ta := wordBits w 60 1, tb := wordBits w 59 1, epi := wordBits w 58 1, mda := wordBits w 54 4, mdb := wordBits w 50 4, mdc := wordBits w 46 4
    episel := wordBits w 42 4, m := wordBits w 28 14, n := wordBits w 14 14, k := wordBits w 0 14 }

/-- Tile and matrix instructions (R51): bit 78 tells MATX from the tile group, whose sub-opcode is [77:74]. How many rows a TLD moves at once
is no field of the instruction: it is 0 here. -/
def decodeSix (c w : Nat) : Option Instr :=
  if w / 2 ^ 78 % 2 = 1 then some (.matx c (matxFOf w))
  else match w / 2 ^ 74 % 16 with
    | 0 => some (.tld c (tileFOf w) 0) | 1 => some (.tst c (tileFOf w)) | 2 => some (.tmul c (tmulFOf w))
    | 3 => some (.tsave c (saveFOf w)) | 4 => some (.trestore c (saveFOf w))
    | _ => none

/-- The word of `n` parcels, the first most significant (R46). -/
def parcelWord (p : Nat → Nat) (n : Nat) : Nat := (List.range n).foldl (fun v i => v * 2 ^ 14 + p i % 2 ^ 14) 0

/-- Parcels of an instruction, by its first parcel (R46). -/
def parcelsOf (x : Nat) : Nat :=
  match x / 2048 % 8 with
  | 6 => 2
  | 7 => (match x / 512 % 4 with | 0 => 3 | 1 => 6 | 2 => 3 | _ => 1)
  | _ => 1

/-- The instruction of core `c` that the parcels `p 0`, `p 1`, … begin with; none for an encoding that no chapter assigns (R46, R47). -/
def decodeCore (c : Nat) (p : Nat → Nat) : Option Instr :=
  match p 0 / 2048 % 8 with
  | 6 => decodeTwo c (parcelWord p 2)
  | 7 =>
    (match p 0 / 512 % 4 with
      | 0 => decodeVector c (parcelWord p 3)
      | 1 => decodeSix c (parcelWord p 6)
      | 2 => decodeSystem c (parcelWord p 3)
      | _ => none)
  | _ => decodeOne c (parcelWord p 1)

/-- No row of the table has bits, so no word spells a command. -/
def decodeTableWord (_nbits _w : Nat) : Option Instr := none

end Sys2Proof
end

