-- ==== Sys2Proof/Machine/SMap.lean ====
section
/-! DEFINITION. Sparse data in one canonical form: a list of key and value pairs, keys strictly rising, no entry
equal to what an unlisted key reads as. Register files, register pages and memories are all held this way. -/

namespace Sys2Proof.Machine

/-- A sparse map from Nat keys; an unlisted key reads as a default the operations are given. -/
abbrev SMap (α : Type) := List (Nat × α)

/-- The value at a key; `d` where the key is not listed. -/
def SMap.get {α : Type} (d : α) : SMap α → Nat → α
  | [], _ => d
  | (k, v) :: t, a => if k = a then v else SMap.get d t a

/-- Insert an entry before the first greater key. -/
def SMap.insert {α : Type} (a : Nat) (v : α) : SMap α → SMap α
  | [] => [(a, v)]
  | (k, w) :: t => if a < k then (a, v) :: (k, w) :: t else (k, w) :: SMap.insert a v t

/-- Write a key, keeping the canonical form: writing `d` removes the entry. -/
def SMap.put {α : Type} [DecidableEq α] (d : α) (m : SMap α) (a : Nat) (v : α) : SMap α :=
  let r := m.filter (fun e => !(e.1 == a))
  if v = d then r else SMap.insert a v r

/-- Remove every entry whose key lies in `lo` to `hi - 1`, so that each reads as its default again. -/
def SMap.dropRange {α : Type} (m : SMap α) (lo hi : Nat) : SMap α :=
  m.filter (fun e => !(decide (lo ≤ e.1) && decide (e.1 < hi)))

/-- Every key of the list lies above `b`, and they rise strictly. -/
def SMap.rising {α : Type} : Option Nat → SMap α → Bool
  | _, [] => true
  | b, (k, _) :: t => (match b with | none => true | some x => decide (x < k)) && SMap.rising (some k) t

/-- The canonical form. -/
def SMap.wf {α : Type} [DecidableEq α] (d : α) (m : SMap α) : Bool :=
  SMap.rising none m && m.all (fun e => !decide (e.2 = d))

/-- Little-endian bytes from address `a`, as one number. -/
def rdBytes (m : SMap Byte) (a : Nat) : Nat → Nat
  | 0 => 0
  | n + 1 => (SMap.get 0 m a).toNat + 256 * rdBytes m (a + 1) n

/-- Write the low `n` bytes of `v` little-endian from address `a`. -/
def wrBytes (m : SMap Byte) (a : Nat) : Nat → Nat → SMap Byte
  | 0, _ => m
  | n + 1, v => wrBytes (SMap.put 0 m a (BitVec.ofNat 8 v)) (a + 1) n (v / 256)

/-- Write a list of bytes from address `a`. -/
def wrList (m : SMap Byte) (a : Nat) : List Byte → SMap Byte
  | [] => m
  | b :: t => wrList (SMap.put 0 m a b) (a + 1) t

/-- Write those bytes whose enable is set. -/
def wrMasked (m : SMap Byte) (a : Nat) : List Bool → Nat → SMap Byte
  | [], _ => m
  | e :: t, v => wrMasked (if e then SMap.put 0 m a (BitVec.ofNat 8 v) else m) (a + 1) t (v / 256)

/-- Bits `lo` to `lo + w - 1` of a number. -/
def bits (v lo w : Nat) : Nat := v / 2 ^ lo % 2 ^ w

/-- `v` with bits `lo` to `lo + w - 1` replaced by the low bits of `x`. -/
def setBits (v lo w x : Nat) : Nat := v - bits v lo w * 2 ^ lo + x % 2 ^ w * 2 ^ lo

/-- Two's complement value of the low `w` bits. -/
def sext (w v : Nat) : Int :=
  let x := v % 2 ^ w
  if w ≠ 0 ∧ 2 ^ (w - 1) ≤ x then (x : Int) - (2 ^ w : Nat) else x

/-- Two's complement encoding in `w` bits. -/
def ofInt (w : Nat) (i : Int) : Nat := (i % ((2 ^ w : Nat) : Int)).toNat

/-- The position of the highest set bit plus one; 0 for 0. -/
def bitLen (v : Nat) : Nat := if v = 0 then 0 else Nat.log2 v + 1

/-- The smallest m with v ≤ 2 ^ m. -/
def ceilLog2 (v : Nat) : Nat := bitLen (v - 1)

/-- Reverse the low `k` bits. -/
def revBits : Nat → Nat → Nat
  | 0, _ => 0
  | k + 1, x => x % 2 * 2 ^ k + revBits k (x / 2)

/-- Number of set bits among the low `n`. -/
def popc : Nat → Nat → Nat
  | 0, _ => 0
  | n + 1, x => x % 2 + popc n (x / 2)

/-- A Bool as a bit. -/
def b2n (b : Bool) : Nat := if b then 1 else 0

end Sys2Proof.Machine
end

