-- ==== Sys2Proof/Machine/Formats.lean ====
section
/-! DEFINITION. Number formats and rounding (R121 to R130, R133): exact values as dyadic numbers, decoding, the three
rounding modes, conversions, and the F32 operations rounded once to nearest even. -/

namespace Sys2Proof.Machine

/-- A decoded value: NaN, an infinity, or (-1)^neg * m * 2^e exactly. -/
inductive FV where
  | nan
  | inf (neg : Bool)
  | num (neg : Bool) (m : Nat) (e : Int)
  deriving DecidableEq, Repr

/-- Which encodings of the top exponent are not finite (R121). -/
inductive Special where
  | ieee | e4m3 | none
  deriving DecidableEq, Repr

/-- A floating-point layout (R121). -/
structure Fmt where
  eb : Nat
  mb : Nat
  bias : Nat
  sp : Special
  deriving DecidableEq, Repr

def fp32 : Fmt := { eb := 8, mb := 23, bias := 127, sp := .ieee }
def bf16 : Fmt := { eb := 8, mb := 7, bias := 127, sp := .ieee }
def fp16 : Fmt := { eb := 5, mb := 10, bias := 15, sp := .ieee }
def e4m3 : Fmt := { eb := 4, mb := 3, bias := 7, sp := .e4m3 }
def e5m2 : Fmt := { eb := 5, mb := 2, bias := 15, sp := .ieee }
def e2m3 : Fmt := { eb := 2, mb := 3, bias := 1, sp := .none }
def e3m2 : Fmt := { eb := 3, mb := 2, bias := 3, sp := .none }
def e2m1 : Fmt := { eb := 2, mb := 1, bias := 1, sp := .none }

/-- Width in bits. -/
def Fmt.width (f : Fmt) : Nat := 1 + f.eb + f.mb

/-- The largest finite magnitude's code. -/
def Fmt.maxCode (f : Fmt) : Nat :=
  match f.sp with
  | .ieee => (2 ^ f.eb - 1) * 2 ^ f.mb - 1
  | .e4m3 => 2 ^ (f.eb + f.mb) - 2
  | .none => 2 ^ (f.eb + f.mb) - 1

/-- Canonical NaN (R125); a format without NaN has none and uses 0. -/
def Fmt.nan (f : Fmt) : Nat :=
  match f.sp with
  | .ieee => (2 ^ f.eb - 1) * 2 ^ f.mb + 2 ^ (f.mb - 1)
  | .e4m3 => 2 ^ (f.eb + f.mb) - 1
  | .none => 0

/-- Decode of R121. -/
def Fmt.decode (f : Fmt) (v : Nat) : FV :=
  let s := bits v (f.eb + f.mb) 1 == 1
  let e := bits v f.mb f.eb
  let m := bits v 0 f.mb
  if f.sp = .ieee ∧ e = 2 ^ f.eb - 1 then (if m = 0 then .inf s else .nan)
  else if f.sp = .e4m3 ∧ e = 2 ^ f.eb - 1 ∧ m = 2 ^ f.mb - 1 then .nan
  else if e = 0 then .num s m (1 - (f.bias : Int) - f.mb)
  else .num s (2 ^ f.mb + m) ((e : Int) - f.bias - f.mb)

/-- Rounding modes (R127); stochastic carries its draw. -/
inductive Rnd where
  | rne | rtz
  | sto (r : Nat)
  deriving DecidableEq, Repr

/-- m * 2^e rounded to a multiple of 2^q, in units of 2^q (R127, R133). -/
def roundUnits (mode : Rnd) (m : Nat) (e q : Int) : Nat :=
  if q ≤ e then m * 2 ^ (e - q).toNat
  else
    let d := (q - e).toNat
    let n := m / 2 ^ d
    let rem := m % 2 ^ d
    match mode with
    | .rne => if 2 * rem > 2 ^ d ∨ (2 * rem = 2 ^ d ∧ n % 2 = 1) then n + 1 else n
    | .rtz => n
    | .sto r => if rem ≠ 0 ∧ 2 ^ 32 ≤ rem * 2 ^ 32 / 2 ^ d + r then n + 1 else n

/-- floor(log2) of a nonzero m * 2^e. -/
def ilog2 (m : Nat) (e : Int) : Int := (bitLen m : Int) - 1 + e

/-- The magnitude code of m * 2^e rounded to a layout, which may exceed its largest finite code. -/
def Fmt.magCode (f : Fmt) (mode : Rnd) (m : Nat) (e : Int) : Nat :=
  if m = 0 then 0
  else
    let qmin : Int := 1 - (f.bias : Int) - f.mb
    let q := max (ilog2 m e - f.mb) qmin
    let n := roundUnits mode m e q
    n + (q - qmin).toNat * 2 ^ f.mb

/-- What an overflow and an infinity become (R128): `sat` saturates them to the largest finite magnitude. -/
def Fmt.encode (f : Fmt) (mode : Rnd) (sat : Bool) (v : FV) : Nat :=
  let sgn := fun (s : Bool) => b2n s * 2 ^ (f.eb + f.mb)
  let infCode := fun (s : Bool) =>
    if sat then sgn s + f.maxCode
    else match f.sp with
      | .ieee => sgn s + (2 ^ f.eb - 1) * 2 ^ f.mb
      | .e4m3 => f.nan
      | .none => sgn s + f.maxCode
  match v with
  | .nan => f.nan
  | .inf s => infCode s
  | .num s m e =>
    let big := decide (f.maxCode < f.magCode .rtz m e) || (decide (f.magCode .rtz m e = f.maxCode) &&
      (match f.decode f.maxCode with | .num _ m2 e2 => (if e ≤ e2 then decide (m2 * 2 ^ (e2 - e).toNat < m) else decide (m2 < m * 2 ^ (e - e2).toNat)) | _ => false))
    let mode' := match mode with | .sto r => if big then Rnd.rne else .sto r | x => x
    let c := f.magCode mode' m e
    if f.maxCode < c then (if mode' = .rtz then sgn s + f.maxCode else infCode s) else sgn s + c

/-- Round once to FP32 with RNE. -/
def toF32 (v : FV) : Nat := fp32.encode .rne false v
def ofF32 (v : Nat) : FV := fp32.decode v

/-! ### Exact operations -/

/-- A signed dyadic: mantissa and exponent. -/
def sgnInt (s : Bool) (m : Nat) : Int := if s then -(m : Int) else m

/-- Exact sum; an exact zero is +0 unless both operands are -0 (R126, R138). -/
def FV.add (a b : FV) : FV :=
  match a, b with
  | .nan, _ => .nan
  | _, .nan => .nan
  | .inf s, .inf t => if s = t then .inf s else .nan
  | .inf s, _ => .inf s
  | _, .inf t => .inf t
  | .num s m e, .num t n g =>
    let q := min e g
    let x := sgnInt s m * 2 ^ (e - q).toNat + sgnInt t n * 2 ^ (g - q).toNat
    if x = 0 then .num (s && t && (m == 0) && (n == 0)) 0 q else .num (decide (x < 0)) x.natAbs q

def FV.neg (a : FV) : FV :=
  match a with
  | .nan => .nan
  | .inf s => .inf (!s)
  | .num s m e => .num (!s) m e

def FV.abs (a : FV) : FV :=
  match a with
  | .nan => .nan
  | .inf _ => .inf false
  | .num _ m e => .num false m e

/-- Exact product. -/
def FV.mul (a b : FV) : FV :=
  match a, b with
  | .nan, _ => .nan
  | _, .nan => .nan
  | .inf s, .inf t => .inf (s != t)
  | .inf s, .num t n _ => if n = 0 then .nan else .inf (s != t)
  | .num s m _, .inf t => if m = 0 then .nan else .inf (s != t)
  | .num s m e, .num t n g => .num (s != t) (m * n) (e + g)

/-- Multiply by a power of two. -/
def FV.scale (a : FV) (k : Int) : FV :=
  match a with
  | .num s m e => .num s m (e + k)
  | x => x

/-- a < b on numbers and infinities, signed zeros equal; false when either is NaN. -/
def FV.lt (a b : FV) : Bool :=
  match a, b with
  | .nan, _ => false
  | _, .nan => false
  | .inf s, .inf t => s && !t
  | .inf s, _ => s
  | _, .inf t => !t
  | .num s m e, .num t n g =>
    let q := min e g
    decide (sgnInt s m * 2 ^ (e - q).toNat < sgnInt t n * 2 ^ (g - q).toNat)

def FV.isNan (a : FV) : Bool := decide (a = .nan)
def FV.isNeg (a : FV) : Bool := match a with | .nan => false | .inf s => s | .num s _ _ => s
def FV.eq (a b : FV) : Bool := !a.isNan && !b.isNan && !a.lt b && !b.lt a

/-- Minimum and maximum of R107: NaN when either operand is; -0 is below +0. -/
def FV.min (a b : FV) : FV :=
  if a.isNan || b.isNan then .nan else if a.lt b || (a.eq b && a.isNeg) then a else b
def FV.max (a b : FV) : FV :=
  if a.isNan || b.isNan then .nan else if a.lt b || (a.eq b && a.isNeg) then b else a

/-- F32 operations, each rounded once to nearest even (R107, R118). -/
def fadd (a b : Nat) : Nat := toF32 ((ofF32 a).add (ofF32 b))
def fsub (a b : Nat) : Nat := toF32 ((ofF32 a).add (ofF32 b).neg)
def fmul (a b : Nat) : Nat := toF32 ((ofF32 a).mul (ofF32 b))
def ffma (a b c : Nat) : Nat := toF32 (((ofF32 a).mul (ofF32 b)).add (ofF32 c))
def fmin (a b : Nat) : Nat := toF32 ((ofF32 a).min (ofF32 b))
def fmax (a b : Nat) : Nat := toF32 ((ofF32 a).max (ofF32 b))

/-! ### Integers -/

/-- An integer as a value. -/
def ofIntFV (i : Int) : FV := .num (decide (i < 0)) i.natAbs 0

/-- Round to an integer in a mode and saturate to lo..hi; NaN gives 0 (R129). -/
def toIntSat (mode : Rnd) (lo hi : Int) (v : FV) : Int :=
  match v with
  | .nan => 0
  | .inf s => if s then lo else hi
  | .num s m e => let i := sgnInt s (roundUnits mode m e 0); if i < lo then lo else if hi < i then hi else i

/-! ### Format codes (R124) -/

/-- Element width in bits, by code. -/
def codeBits (code : Nat) : Nat :=
  match code with
  | 0 => 32 | 1 => 16 | 2 => 16 | 3 => 8 | 4 => 8 | 5 => 8 | 6 => 8 | 7 => 6 | 8 => 6 | 9 => 4 | 10 => 8 | 11 => 8 | 12 => 8
  | 13 => 4 | 14 => 32 | _ => 0

/-- An MX format: its blocks carry a scale. -/
def codeMx (code : Nat) : Bool := decide (5 ≤ code) && decide (code ≤ 10)

/-- The layout of a floating-point code, or of an MX element. -/
def codeFmt (code : Nat) : Option Fmt :=
  match code with
  | 0 => some fp32 | 1 => some bf16 | 2 => some fp16 | 3 => some e4m3 | 4 => some e5m2 | 5 => some e4m3 | 6 => some e5m2
  | 7 => some e2m3 | 8 => some e3m2 | 9 => some e2m1 | _ => none

/-- The exact value of an element without its scale (R121, R122). -/
def elemVal (code v : Nat) : FV :=
  match codeFmt code with
  | some f => f.decode v
  | none =>
    match code with
    | 10 => (ofIntFV (sext 8 v)).scale (-6)
    | 11 => ofIntFV (sext 8 v)
    | 12 => ofIntFV ((v % 256 : Nat) : Int)
    | 13 => ofIntFV (sext 4 v)
    | 14 => ofIntFV (sext 32 v)
    | _ => .nan

/-- Apply an E8M0 scale code (R123). -/
def mxScale (x : Nat) (v : FV) : FV := if x = 255 then .nan else v.scale ((x : Int) - 127)

/-- Conversion to a non-MX code (R127 to R129); `ns` selects non-saturating E4M3. -/
def convTo (code : Nat) (mode : Rnd) (ns : Bool) (v : FV) : Nat :=
  match codeFmt code with
  | some f => f.encode mode (code == 3 && !ns) v
  | none =>
    match code with
    | 11 => ofInt 8 (toIntSat mode (-128) 127 v)
    | 12 => ofInt 8 (toIntSat mode 0 255 v)
    | 13 => ofInt 4 (toIntSat mode (-8) 7 v)
    | 14 => ofInt 32 (toIntSat mode (-2147483648) 2147483647 v)
    | _ => 0

/-- emax of an MX element (R119). -/
def mxEmax (code : Nat) : Int := match code with | 5 => 8 | 6 => 15 | 7 => 2 | 8 => 4 | 9 => 2 | _ => 0

/-- The scale exponent of a block from its values (R119): none when it holds a NaN or an infinity. -/
def mxExp (code : Nat) (vs : List FV) : Option Int :=
  vs.foldl (fun o v => match o, v with
    | some x, .num _ m e => if m = 0 then some x else some (max x (max (-127) (min 127 (ilog2 m e - mxEmax code))))
    | _, _ => none) (some (-127))

/-- One MX element at a scale exponent, saturated symmetrically (R119, R122). -/
def mxElem (code : Nat) (mode : Rnd) (x : Int) (v : FV) : Nat :=
  let y := v.scale (-x)
  match codeFmt code with
  | some f => f.encode mode true y
  | none => ofInt 8 (toIntSat mode (-127) 127 (y.scale 6))

end Sys2Proof.Machine
end

