-- ==== Sys2Proof/Machine/RegTable.lean ====
section
/-! DEFINITION. The register pages as data: page layout (R17, R18, R25), access codes and classes (R19, R20),
and one field row per field of the register tables of the spec's chapters. -/

namespace Sys2Proof.Machine

/-- Block type codes of R25. -/
inductive Block where
  | core | thresh | wain | ringstop | dielink | cad | steward | sheaf | stook | watch | pwr
  | therm | sweep | digest | furrow | memctl | granary | hostport | keeper | place | chute | perf
  deriving DecidableEq, Repr

/-- PAGE_ID.TYPE (R25). -/
def Block.code : Block → Nat
  | .core => 0x1 | .thresh => 0x2 | .wain => 0x3 | .ringstop => 0x4 | .dielink => 0x5 | .cad => 0x6
  | .steward => 0x7 | .sheaf => 0x8 | .stook => 0x9 | .watch => 0xA | .pwr => 0xB | .therm => 0xC
  | .sweep => 0xD | .digest => 0xE | .furrow => 0xF | .memctl => 0x10 | .granary => 0x11
  | .hostport => 0x12 | .keeper => 0x13 | .place => 0x14 | .chute => 0x15 | .perf => 0x16

/-- Access codes of the register tables: `w1z` is a W1S bit that starts an operation and reads zero. -/
inductive Acc where
  | rw | ro | wo | w1c | w1s | w1z | rc | rwl
  deriving DecidableEq, Repr

/-- Field classes: configuration, status, volatile. -/
inductive Cls where
  | c | s | v
  deriving DecidableEq, Repr

/-- Reset kinds in widening order (R21); `own` is the owning reset of the page. -/
inductive RKind where
  | own | cr | pr | dr | mr | po
  deriving DecidableEq, Repr

/-- How a written value outside a field's range is stored, as the field's row says. -/
inductive Norm where
  | any
  | range (lo hi els : Nat)      -- outside lo..hi stores els
  | clamp (lo hi : Nat)          -- outside stores the nearer limit
  | signed9                      -- nine bits, signed -126..127; outside stores 0
  deriving DecidableEq, Repr

/-- One row of a register table: `count` copies of the field, `stride` bytes apart, from page offset `off`. -/
structure Fld where
  off : Nat
  lo : Nat
  width : Nat
  acc : Acc
  cls : Cls
  rst : Nat := 0
  kind : RKind := .own
  stride : Nat := 8
  count : Nat := 1
  norm : Norm := .any
  deriving DecidableEq, Repr

/-- The header of every page (R19); PAGE_ID, PAGE_CAP, the derived bits of PAGE_STAT and CFG_SUM are composed on a read. -/
def headerFields : List Fld :=
  [ { off := 0x010, lo := 0, width := 1, acc := .rwl, cls := .c, rst := 1 },
    { off := 0x010, lo := 1, width := 1, acc := .rw, cls := .v },
    { off := 0x010, lo := 2, width := 1, acc := .w1s, cls := .s },
    { off := 0x018, lo := 5, width := 1, acc := .ro, cls := .s },
    { off := 0x018, lo := 8, width := 8, acc := .ro, cls := .s },
    { off := 0x020, lo := 0, width := 64, acc := .w1c, cls := .v },
    { off := 0x028, lo := 0, width := 64, acc := .rw, cls := .c },
    { off := 0x030, lo := 0, width := 64, acc := .wo, cls := .v },
    { off := 0x038, lo := 0, width := 4, acc := .w1c, cls := .v },
    { off := 0x038, lo := 8, width := 56, acc := .w1c, cls := .v },
    { off := 0x040, lo := 0, width := 64, acc := .ro, cls := .s },
    { off := 0x048, lo := 0, width := 44, acc := .ro, cls := .s },
    { off := 0x058, lo := 0, width := 32, acc := .rw, cls := .s } ]

/-- CORE page (R42, R210, R427). -/
def coreFields : List Fld :=
  [ { off := 0x100, lo := 16, width := 16, acc := .rw, cls := .c },
    { off := 0x100, lo := 0, width := 1, acc := .rw, cls := .v },
    { off := 0x108, lo := 16, width := 16, acc := .ro, cls := .s },
    { off := 0x108, lo := 0, width := 3, acc := .ro, cls := .s },
    { off := 0x110, lo := 16, width := 16, acc := .w1s, cls := .c },
    { off := 0x110, lo := 0, width := 16, acc := .rw, cls := .c },
    { off := 0x118, lo := 0, width := 16, acc := .rw, cls := .v },
    { off := 0x120, lo := 0, width := 56, acc := .wo, cls := .v },
    { off := 0x140, lo := 0, width := 64, acc := .ro, cls := .v, count := 6 },
    { off := 0x170, lo := 0, width := 48, acc := .ro, cls := .v },
    { off := 0x180, lo := 0, width := 2, acc := .rw, cls := .c },
    { off := 0x180, lo := 8, width := 6, acc := .rw, cls := .c, rst := 27, norm := .range 10 36 27 },
    { off := 0x180, lo := 16, width := 1, acc := .ro, cls := .s } ]

/-- THRESH page (R117, R153, R169, R187, R190). -/
def threshFields : List Fld :=
  [ { off := 0x100, lo := 8, width := 5, acc := .ro, cls := .s },
    { off := 0x100, lo := 0, width := 5, acc := .ro, cls := .s },
    { off := 0x140, lo := 0, width := 64, acc := .ro, cls := .v, count := 4 },
    { off := 0x180, lo := 0, width := 64, acc := .rw, cls := .v, stride := 0x20, count := 4 },
    { off := 0x188, lo := 50, width := 14, acc := .rw, cls := .v, stride := 0x20, count := 4 },
    { off := 0x188, lo := 0, width := 28, acc := .rw, cls := .v, stride := 0x20, count := 4 },
    { off := 0x190, lo := 0, width := 64, acc := .rw, cls := .v, stride := 0x20, count := 4 },
    { off := 0x198, lo := 0, width := 64, acc := .rw, cls := .v, stride := 0x20, count := 4 },
    { off := 0x200, lo := 2, width := 20, acc := .rw, cls := .v, stride := 0x20, count := 16 },
    { off := 0x208, lo := 32, width := 2, acc := .rw, cls := .v, stride := 0x20, count := 16, norm := .range 0 1 0 },
    { off := 0x208, lo := 2, width := 20, acc := .rw, cls := .v, stride := 0x20, count := 16 },
    { off := 0x210, lo := 32, width := 22, acc := .rw, cls := .v, stride := 0x20, count := 16 },
    { off := 0x210, lo := 0, width := 22, acc := .rw, cls := .v, stride := 0x20, count := 16 },
    { off := 0x218, lo := 8, width := 14, acc := .rw, cls := .v, stride := 0x20, count := 16 },
    { off := 0x400, lo := 0, width := 3, acc := .rw, cls := .c, stride := 0x20, count := 16 },
    { off := 0x400, lo := 4, width := 3, acc := .rw, cls := .c, stride := 0x20, count := 16, norm := .range 0 5 0 },
    { off := 0x400, lo := 8, width := 2, acc := .rw, cls := .c, stride := 0x20, count := 16 },
    { off := 0x408, lo := 0, width := 32, acc := .rw, cls := .c, stride := 0x20, count := 16 },
    { off := 0x408, lo := 34, width := 20, acc := .rw, cls := .c, stride := 0x20, count := 16 },
    { off := 0x410, lo := 2, width := 20, acc := .rw, cls := .c, stride := 0x20, count := 16 },
    { off := 0x418, lo := 0, width := 64, acc := .rw, cls := .c, stride := 0x20, count := 16 },
    { off := 0x600, lo := 0, width := 32, acc := .rw, cls := .c, rst := 0x3F800000, stride := 0x10, count := 4 },
    { off := 0x600, lo := 32, width := 32, acc := .rw, cls := .c, stride := 0x10, count := 4 },
    { off := 0x608, lo := 8, width := 1, acc := .rw, cls := .c, stride := 0x10, count := 4 },
    { off := 0x608, lo := 0, width := 5, acc := .rw, cls := .c, rst := 16, stride := 0x10, count := 4, norm := .range 1 16 16 } ]

/-- WAIN page (R286). -/
def wainFields : List Fld :=
  [ { off := 0x100, lo := 0, width := 2, acc := .w1z, cls := .v },
    { off := 0x108, lo := 0, width := 45, acc := .rw, cls := .v },
    { off := 0x110, lo := 8, width := 2, acc := .ro, cls := .s },
    { off := 0x110, lo := 5, width := 1, acc := .ro, cls := .s },
    { off := 0x110, lo := 4, width := 1, acc := .ro, cls := .s, rst := 1 },
    { off := 0x110, lo := 3, width := 1, acc := .ro, cls := .s, rst := 1 },
    { off := 0x110, lo := 0, width := 3, acc := .ro, cls := .s },
    { off := 0x118, lo := 0, width := 45, acc := .ro, cls := .s },
    { off := 0x120, lo := 0, width := 32, acc := .ro, cls := .s, count := 3 },
    { off := 0x140, lo := 0, width := 64, acc := .ro, cls := .v, count := 3 } ]

/-- FURROW page (R315). -/
def furrowFields : List Fld :=
  [ { off := 0x100, lo := 3, width := 2, acc := .w1z, cls := .v },
    { off := 0x100, lo := 1, width := 2, acc := .rw, cls := .v },
    { off := 0x100, lo := 0, width := 1, acc := .w1z, cls := .v },
    { off := 0x108, lo := 0, width := 2, acc := .ro, cls := .s },
    { off := 0x108, lo := 2, width := 1, acc := .ro, cls := .s, rst := 1 },
    { off := 0x108, lo := 3, width := 3, acc := .ro, cls := .s },
    { off := 0x110, lo := 8, width := 14, acc := .rw, cls := .v },
    { off := 0x118, lo := 0, width := 32, acc := .rw, cls := .v },
    { off := 0x120, lo := 0, width := 64, acc := .rw, cls := .v },
    { off := 0x128, lo := 0, width := 64, acc := .ro, cls := .v },
    { off := 0x130, lo := 0, width := 64, acc := .ro, cls := .v },
    { off := 0x200, lo := 24, width := 5, acc := .rw, cls := .c, rst := 1, count := 16, norm := .range 1 31 1 },
    { off := 0x200, lo := 8, width := 14, acc := .rw, cls := .c, count := 16 },
    { off := 0x200, lo := 0, width := 3, acc := .rw, cls := .c, count := 16 },
    { off := 0x2A0, lo := 24, width := 5, acc := .rw, cls := .c, rst := 1, count := 4, norm := .range 1 31 1 },
    { off := 0x2A0, lo := 8, width := 14, acc := .rw, cls := .c, count := 4 },
    { off := 0x2A0, lo := 0, width := 3, acc := .rw, cls := .c, count := 4 },
    { off := 0x300, lo := 24, width := 5, acc := .rw, cls := .c, rst := 1, stride := 0x20, count := 4, norm := .range 1 31 1 },
    { off := 0x300, lo := 8, width := 14, acc := .rw, cls := .c, stride := 0x20, count := 4 },
    { off := 0x300, lo := 0, width := 8, acc := .rw, cls := .c, stride := 0x20, count := 4 },
    { off := 0x308, lo := 0, width := 64, acc := .rw, cls := .c, stride := 0x20, count := 4 },
    { off := 0x310, lo := 0, width := 16, acc := .rw, cls := .c, stride := 0x20, count := 4 },
    { off := 0x380, lo := 32, width := 5, acc := .rw, cls := .c, stride := 0x20, count := 4 },
    { off := 0x380, lo := 24, width := 5, acc := .rw, cls := .c, rst := 1, stride := 0x20, count := 4, norm := .range 1 31 1 },
    { off := 0x380, lo := 8, width := 14, acc := .rw, cls := .c, stride := 0x20, count := 4 },
    { off := 0x380, lo := 3, width := 5, acc := .rw, cls := .c, stride := 0x20, count := 4 },
    { off := 0x380, lo := 0, width := 2, acc := .rw, cls := .c, stride := 0x20, count := 4 },
    { off := 0x388, lo := 0, width := 64, acc := .rw, cls := .c, stride := 0x20, count := 4 },
    { off := 0x400, lo := 0, width := 64, acc := .ro, cls := .v, count := 4 },
    { off := 0x420, lo := 0, width := 16, acc := .ro, cls := .v, count := 4 },
    { off := 0x440, lo := 0, width := 64, acc := .ro, cls := .v, count := 4 },
    { off := 0x500, lo := 0, width := 64, acc := .ro, cls := .v, count := 16 },
    { off := 0x580, lo := 0, width := 64, acc := .ro, cls := .v, count := 24 },
    { off := 0x640, lo := 0, width := 9, acc := .ro, cls := .v, count := 24 } ]

/-- CHUTE page (R263). -/
def chuteFields : List Fld :=
  [ { off := 0x100, lo := 24, width := 14, acc := .rw, cls := .c, stride := 0x20, count := 8 },
    { off := 0x100, lo := 8, width := 5, acc := .rw, cls := .c, rst := 4, stride := 0x20, count := 8, norm := .range 4 16 4 },
    { off := 0x100, lo := 0, width := 8, acc := .rw, cls := .c, stride := 0x20, count := 8 },
    { off := 0x108, lo := 0, width := 32, acc := .ro, cls := .v, stride := 0x20, count := 8 },
    { off := 0x110, lo := 0, width := 32, acc := .ro, cls := .v, stride := 0x20, count := 8 },
    { off := 0x118, lo := 0, width := 32, acc := .ro, cls := .v, stride := 0x20, count := 8 },
    { off := 0x200, lo := 0, width := 64, acc := .ro, cls := .v, count := 3 } ]

/-- SHEAF page of a core (R236). -/
def sheafCoreFields : List Fld :=
  [ { off := 0x100, lo := 0, width := 42, acc := .wo, cls := .v },
    { off := 0x200, lo := 0, width := 64, acc := .ro, cls := .v, count := 32 } ]

/-- Die SHEAF page `p` of 0-2 (R236): SHEAF_DOWN only in the last of the three. -/
def sheafDieFields (p : Nat) : List Fld :=
  [ { off := 0x100, lo := 0, width := 42, acc := .wo, cls := .v },
    { off := 0x200, lo := 0, width := 64, acc := .ro, cls := .v, count := if p = 2 then 128 else 448 } ] ++
  (if p = 2 then [ { off := 0x600, lo := 0, width := 64, acc := .rw, cls := .c, count := 64 } ] else [])

/-- SHEAF page of a Barn (R236); the counters of the other Barn read zero. -/
def sheafBarnFields : List Fld :=
  [ { off := 0x100, lo := 0, width := 42, acc := .wo, cls := .v },
    { off := 0x200, lo := 0, width := 64, acc := .ro, cls := .v, count := 128 },
    { off := 0x600, lo := 0, width := 64, acc := .rw, cls := .c, rst := 0xFFFFFFFFFFFFFFFF, count := 16 } ]

/-- PERF page (R27). -/
def perfFields : List Fld :=
  [ { off := 0x100, lo := 0, width := 1, acc := .rw, cls := .v },
    { off := 0x100, lo := 1, width := 2, acc := .w1z, cls := .v },
    { off := 0x140, lo := 12, width := 4, acc := .rw, cls := .v, count := 8 },
    { off := 0x140, lo := 0, width := 10, acc := .rw, cls := .v, count := 8 },
    { off := 0x180, lo := 0, width := 48, acc := .rw, cls := .v, count := 8 },
    { off := 0x1C0, lo := 0, width := 48, acc := .ro, cls := .v, count := 8 } ]

/-- RINGSTOP page (R331). -/
def ringstopFields : List Fld :=
  [ { off := 0x100, lo := 0, width := 17, acc := .rw, cls := .c },
    { off := 0x140, lo := 0, width := 64, acc := .ro, cls := .v, count := 9 },
    { off := 0x188, lo := 0, width := 16, acc := .rc, cls := .v },
    { off := 0x190, lo := 0, width := 32, acc := .ro, cls := .v } ]

/-- DIELINK page with `n` bundles (R348). -/
def dielinkFields (n : Nat) : List Fld :=
  [ { off := 0x100, lo := 16, width := 12, acc := .rw, cls := .c, rst := 2 ^ n - 1 },
    { off := 0x100, lo := 1, width := 1, acc := .rw, cls := .v },
    { off := 0x100, lo := 0, width := 1, acc := .w1z, cls := .v },
    { off := 0x108, lo := 48, width := 4, acc := .ro, cls := .s },
    { off := 0x108, lo := 32, width := 12, acc := .ro, cls := .s },
    { off := 0x108, lo := 16, width := 12, acc := .ro, cls := .s },
    { off := 0x108, lo := 0, width := 12, acc := .ro, cls := .s },
    { off := 0x110, lo := 16, width := 16, acc := .ro, cls := .s },
    { off := 0x140, lo := 0, width := 64, acc := .ro, cls := .v, count := 5 },
    { off := 0x200, lo := 0, width := 64, acc := .ro, cls := .s, count := n } ]

/-- CAD page; `bw` adds the registers marked BW (R377, R378, R385). Values kept in the always-on island are composed. -/
def cadFields (bw : Bool) : List Fld :=
  [ { off := 0x140, lo := 0, width := 64, acc := .rw, cls := .c },
    { off := 0x148, lo := 0, width := 64, acc := .ro, cls := .s },
    { off := 0x150, lo := 0, width := 13, acc := .ro, cls := .s },
    { off := 0x150, lo := 32, width := 3, acc := .ro, cls := .s, rst := 4 },
    { off := 0x168, lo := 0, width := 10, acc := .rw, cls := .c, rst := 10, norm := .clamp 0 1000 },
    { off := 0x198, lo := 0, width := 64, acc := .ro, cls := .v, count := 2 },
    { off := 0x400, lo := 0, width := 64, acc := .ro, cls := .v, stride := 0x20, count := 16 },
    { off := 0x408, lo := 0, width := 64, acc := .ro, cls := .v, stride := 0x20, count := 16 },
    { off := 0x410, lo := 0, width := 50, acc := .ro, cls := .v, stride := 0x20, count := 16 },
    { off := 0x418, lo := 0, width := 64, acc := .ro, cls := .v, stride := 0x20, count := 16 },
    { off := 0x600, lo := 0, width := 64, acc := .ro, cls := .v, count := 64 },
    { off := 0x800, lo := 48, width := 16, acc := .rw, cls := .c, stride := 0x20, count := 64 },
    { off := 0x800, lo := 32, width := 13, acc := .rw, cls := .c, stride := 0x20, count := 64 },
    { off := 0x800, lo := 16, width := 13, acc := .rw, cls := .c, stride := 0x20, count := 64 },
    { off := 0x800, lo := 0, width := 16, acc := .rw, cls := .c, rst := 1, stride := 0x20, count := 64 },
    { off := 0x808, lo := 0, width := 64, acc := .rw, cls := .c, stride := 0x20, count := 64 },
    { off := 0x810, lo := 0, width := 64, acc := .rw, cls := .c, stride := 0x20, count := 64 },
    { off := 0x818, lo := 0, width := 64, acc := .rw, cls := .c, stride := 0x20, count := 64 } ] ++
  (if bw then
    [ { off := 0x108, lo := 0, width := 64, acc := .rw, cls := .v, kind := .mr },
      { off := 0x110, lo := 16, width := 16, acc := .rw, cls := .c, rst := 1000, kind := .mr },
      { off := 0x110, lo := 12, width := 4, acc := .rw, cls := .c, rst := 4, kind := .mr },
      { off := 0x110, lo := 8, width := 4, acc := .rw, cls := .c, rst := 1, kind := .mr },
      { off := 0x110, lo := 1, width := 2, acc := .w1z, cls := .v, kind := .mr },
      { off := 0x110, lo := 0, width := 1, acc := .rw, cls := .c, kind := .mr },
      { off := 0x118, lo := 0, width := 40, acc := .rw, cls := .c, rst := 0x2AF31DC461, kind := .mr },
      { off := 0x138, lo := 16, width := 14, acc := .rw, cls := .c, rst := 1125, kind := .mr, norm := .range 1 8192 1125 },
      { off := 0x138, lo := 8, width := 4, acc := .rw, cls := .c, rst := 1, kind := .mr, norm := .range 0 11 1 },
      { off := 0x138, lo := 0, width := 1, acc := .rw, cls := .c, kind := .mr },
      { off := 0x170, lo := 16, width := 1, acc := .rw, cls := .c, rst := 1, kind := .mr },
      { off := 0x170, lo := 0, width := 13, acc := .rw, cls := .c, rst := 1, kind := .mr, norm := .range 1 8191 1 } ]
   else [])

/-- STEWARD page: the steward chutes of R75 on every die, and R426 on a compute die. -/
def stewardFields (compute : Bool) : List Fld :=
  [ { off := 0x600, lo := 24, width := 14, acc := .rw, cls := .c, stride := 0x20, count := 8 },
    { off := 0x600, lo := 8, width := 5, acc := .rw, cls := .c, rst := 4, stride := 0x20, count := 8, norm := .range 4 16 4 },
    { off := 0x600, lo := 0, width := 8, acc := .rw, cls := .c, stride := 0x20, count := 8 },
    { off := 0x608, lo := 0, width := 32, acc := .ro, cls := .v, stride := 0x20, count := 8 },
    { off := 0x610, lo := 0, width := 32, acc := .ro, cls := .v, stride := 0x20, count := 8 },
    { off := 0x618, lo := 0, width := 32, acc := .ro, cls := .v, stride := 0x20, count := 8 } ] ++
  (if compute then
    [ { off := 0x100, lo := 0, width := 8, acc := .rw, cls := .v },
      { off := 0x100, lo := 8, width := 1, acc := .w1z, cls := .v },
      { off := 0x100, lo := 16, width := 4, acc := .rw, cls := .v },
      { off := 0x100, lo := 20, width := 1, acc := .w1z, cls := .v },
      { off := 0x108, lo := 0, width := 17, acc := .ro, cls := .s },
      { off := 0x110, lo := 0, width := 1, acc := .rw, cls := .v },
      { off := 0x110, lo := 1, width := 1, acc := .ro, cls := .s },
      { off := 0x200, lo := 0, width := 48, acc := .rw, cls := .c, count := 12 },
      { off := 0x300, lo := 0, width := 64, acc := .rw, cls := .c, kind := .mr, count := 4 },
      { off := 0x320, lo := 0, width := 64, acc := .rw, cls := .v, count := 4 },
      { off := 0x340, lo := 0, width := 64, acc := .ro, cls := .s, count := 4 },
      { off := 0x360, lo := 0, width := 64, acc := .w1c, cls := .v, count := 4 },
      { off := 0x380, lo := 0, width := 64, acc := .w1c, cls := .v, count := 4 } ]
   else [])

/-- STOOK page (R244): a compute die, a Barn, and BW's own registers. -/
def stookFields (compute bw : Bool) : List Fld :=
  if compute then
    [ { off := 0x100, lo := 0, width := 64, acc := .rw, cls := .c, count := 32 },
      { off := 0x200, lo := 0, width := 64, acc := .rw, cls := .c, count := 16 },
      { off := 0x280, lo := 0, width := 32, acc := .rw, cls := .c },
      { off := 0x288, lo := 0, width := 12, acc := .ro, cls := .s } ]
  else
    [ { off := 0x100, lo := 0, width := 4, acc := .rw, cls := .c } ] ++
    (if bw then
      [ { off := 0x108, lo := 0, width := 6, acc := .rw, cls := .c, count := 4 },
        { off := 0x128, lo := 0, width := 4, acc := .ro, cls := .s } ] else [])

/-- WATCH page (R247, R248, R249). -/
def watchFields (compute bw : Bool) : List Fld :=
  [ { off := 0x100, lo := 0, width := 16, acc := .rw, cls := .c, rst := 0xFFFF },
    { off := 0x100, lo := 32, width := 6, acc := .rw, cls := .c, rst := 20, norm := .range 10 40 20 },
    { off := 0x100, lo := 63, width := 1, acc := .w1z, cls := .v },
    { off := 0x108, lo := 0, width := 16, acc := .w1c, cls := .v },
    { off := 0x108, lo := 16, width := 16, acc := .ro, cls := .s },
    { off := 0x118, lo := 0, width := 64, acc := .ro, cls := .s } ] ++
  (if compute then
    [ { off := 0x200, lo := 0, width := 48, acc := .rw, cls := .c, count := 12 },
      { off := 0x400, lo := 32, width := 16, acc := .ro, cls := .s, stride := 16, count := 144 },
      { off := 0x400, lo := 60, width := 4, acc := .ro, cls := .s, stride := 16, count := 144 },
      { off := 0x400, lo := 0, width := 32, acc := .ro, cls := .s, stride := 16, count := 144 },
      { off := 0x408, lo := 0, width := 64, acc := .ro, cls := .s, stride := 16, count := 144 } ] else []) ++
  (if bw then [ { off := 0x200, lo := 0, width := 64, acc := .rw, cls := .c, count := 16 } ] else [])

/-- PWR page (R469). -/
def pwrFields (compute bw : Bool) : List Fld :=
  [ { off := 0x110, lo := 0, width := 32, acc := .ro, cls := .s },
    { off := 0x118, lo := 0, width := 16, acc := .rw, cls := .c, rst := 250 },
    { off := 0x120, lo := 0, width := 16, acc := .ro, cls := .s },
    { off := 0x120, lo := 16, width := 16, acc := .rc, cls := .s },
    { off := 0x128, lo := 0, width := 11, acc := .ro, cls := .s },
    { off := 0x128, lo := 12, width := 3, acc := .ro, cls := .s },
    { off := 0x140, lo := 0, width := 64, acc := .ro, cls := .v, count := 3 } ] ++
  (if compute then
    [ { off := 0x100, lo := 0, width := 3, acc := .rw, cls := .c, norm := .range 0 4 0 },
      { off := 0x100, lo := 4, width := 3, acc := .rw, cls := .c, norm := .range 0 4 0 },
      { off := 0x108, lo := 0, width := 3, acc := .ro, cls := .s },
      { off := 0x108, lo := 4, width := 3, acc := .ro, cls := .s },
      { off := 0x108, lo := 8, width := 2, acc := .ro, cls := .s },
      { off := 0x108, lo := 12, width := 2, acc := .ro, cls := .s } ] else []) ++
  (if bw then
    [ { off := 0x200, lo := 0, width := 12, acc := .rw, cls := .c, rst := 2400, norm := .clamp 1200 2400 },
      { off := 0x208, lo := 0, width := 12, acc := .rw, cls := .c, rst := 640 },
      { off := 0x210, lo := 0, width := 48, acc := .ro, cls := .s },
      { off := 0x218, lo := 0, width := 2, acc := .ro, cls := .s },
      { off := 0x220, lo := 0, width := 16, acc := .wo, cls := .v, count := 4 },
      { off := 0x260, lo := 0, width := 48, acc := .ro, cls := .s, count := 6 } ] else [])

/-- THERM page (R470); the latched trip of BW is kept in the always-on island and composed. -/
def thermFields (compute : Bool) : List Fld :=
  [ { off := 0x100, lo := 0, width := 12, acc := .ro, cls := .s },
    { off := 0x108, lo := 0, width := 8, acc := .rw, cls := .c, rst := 100, norm := .clamp 70 100 },
    { off := 0x108, lo := 8, width := 8, acc := .rw, cls := .c, rst := 95, norm := .clamp 60 110 },
    { off := 0x110, lo := 0, width := 2, acc := .ro, cls := .s },
    { off := 0x140, lo := 0, width := 64, acc := .ro, cls := .v },
    { off := 0x200, lo := 0, width := 8, acc := .ro, cls := .s, count := if compute then 16 else 4 } ]

/-- SWEEP page (R428); SWEEP_CAUSE is kept in the always-on island and composed. -/
def sweepFields (bw : Bool) : List Fld :=
  [ { off := 0x100, lo := 0, width := 10, acc := .ro, cls := .s },
    { off := 0x100, lo := 16, width := 7, acc := .ro, cls := .s },
    { off := 0x110, lo := 0, width := 1, acc := .rw, cls := .c },
    { off := 0x110, lo := 8, width := 6, acc := .rw, cls := .c, rst := 27, norm := .range 10 36 27 },
    { off := 0x110, lo := 16, width := 1, acc := .w1z, cls := .v },
    { off := 0x110, lo := 17, width := 1, acc := .ro, cls := .s },
    { off := 0x120, lo := 0, width := 9, acc := .ro, cls := .s },
    { off := 0x120, lo := 16, width := 17, acc := .ro, cls := .s } ] ++
  (if bw then
    [ { off := 0x118, lo := 0, width := 2, acc := .rw, cls := .v, kind := .mr },
      { off := 0x118, lo := 8, width := 1, acc := .w1z, cls := .v, kind := .mr } ] else [])

/-- DIGEST page (R32). -/
def digestFields : List Fld :=
  [ { off := 0x100, lo := 0, width := 32, acc := .rw, cls := .v },
    { off := 0x100, lo := 32, width := 1, acc := .w1z, cls := .v },
    { off := 0x108, lo := 0, width := 1, acc := .ro, cls := .s },
    { off := 0x108, lo := 1, width := 1, acc := .rc, cls := .s },
    { off := 0x108, lo := 2, width := 3, acc := .ro, cls := .s },
    { off := 0x108, lo := 16, width := 14, acc := .ro, cls := .s },
    { off := 0x110, lo := 0, width := 64, acc := .ro, cls := .s, count := 8 } ]

/-- MEMCTL page (R363). -/
def memctlFields : List Fld :=
  [ { off := 0x100, lo := 0, width := 2, acc := .ro, cls := .s },
    { off := 0x100, lo := 8, width := 8, acc := .ro, cls := .s },
    { off := 0x108, lo := 0, width := 16, acc := .rw, cls := .c, rst := 24 },
    { off := 0x140, lo := 0, width := 64, acc := .ro, cls := .v, count := 2 },
    { off := 0x150, lo := 0, width := 32, acc := .ro, cls := .v },
    { off := 0x158, lo := 0, width := 16, acc := .ro, cls := .s } ]

/-- GRANARY page (R362). -/
def granaryFields : List Fld :=
  [ { off := 0x100, lo := 0, width := 4, acc := .rw, cls := .c, norm := .clamp 0 8 },
    { off := 0x140, lo := 0, width := 64, acc := .ro, cls := .v, count := 5 },
    { off := 0x168, lo := 0, width := 32, acc := .ro, cls := .v },
    { off := 0x400, lo := 6, width := 38, acc := .rw, cls := .v, stride := 0x40, count := 16 },
    { off := 0x400, lo := 0, width := 1, acc := .rw, cls := .v, stride := 0x40, count := 16 },
    { off := 0x408, lo := 0, width := 24, acc := .rw, cls := .v, stride := 0x40, count := 16, norm := .range 0 8388608 0 },
    { off := 0x408, lo := 24, width := 25, acc := .rw, cls := .v, stride := 0x40, count := 16 },
    { off := 0x410, lo := 0, width := 9, acc := .rw, cls := .v, stride := 0x40, count := 16, norm := .signed9 },
    { off := 0x418, lo := 0, width := 3, acc := .wo, cls := .v, stride := 0x40, count := 16 },
    { off := 0x420, lo := 0, width := 34, acc := .rw, cls := .v, stride := 0x40, count := 16 },
    { off := 0x428, lo := 0, width := 4, acc := .ro, cls := .s, stride := 0x40, count := 16 },
    { off := 0x428, lo := 32, width := 32, acc := .ro, cls := .s, stride := 0x40, count := 16 } ]

/-- The PLACE_ENT_k registers: SPREAD_m at bit 8m and NOALLOC_m at bit 8m + 1 (R353). -/
def placeFields : List Fld :=
  [ { off := 0x200, lo := 0, width := 2, acc := .rw, cls := .c, count := 64 },
    { off := 0x200, lo := 8, width := 2, acc := .rw, cls := .c, count := 64 },
    { off := 0x200, lo := 16, width := 2, acc := .rw, cls := .c, count := 64 },
    { off := 0x200, lo := 24, width := 2, acc := .rw, cls := .c, count := 64 },
    { off := 0x200, lo := 32, width := 2, acc := .rw, cls := .c, count := 64 },
    { off := 0x200, lo := 40, width := 2, acc := .rw, cls := .c, count := 64 },
    { off := 0x200, lo := 48, width := 2, acc := .rw, cls := .c, count := 64 },
    { off := 0x200, lo := 56, width := 2, acc := .rw, cls := .c, count := 64 } ]

/-- HOSTPORT page (R402). -/
def hostportFields : List Fld :=
  [ { off := 0x100, lo := 16, width := 4, acc := .ro, cls := .s },
    { off := 0x100, lo := 8, width := 5, acc := .ro, cls := .s },
    { off := 0x100, lo := 0, width := 2, acc := .ro, cls := .s },
    { off := 0x108, lo := 28, width := 11, acc := .rw, cls := .c },
    { off := 0x110, lo := 0, width := 8, acc := .wo, cls := .v },
    { off := 0x140, lo := 0, width := 64, acc := .ro, cls := .v, count := 2 },
    { off := 0x200, lo := 63, width := 1, acc := .rw, cls := .c, stride := 0x20, count := 16 },
    { off := 0x200, lo := 56, width := 5, acc := .rw, cls := .c, rst := 4, stride := 0x20, count := 16, norm := .range 4 16 4 },
    { off := 0x200, lo := 8, width := 36, acc := .rw, cls := .c, stride := 0x20, count := 16 },
    { off := 0x208, lo := 56, width := 5, acc := .rw, cls := .c, rst := 4, stride := 0x20, count := 16 },
    { off := 0x208, lo := 5, width := 39, acc := .rw, cls := .c, stride := 0x20, count := 16 },
    { off := 0x210, lo := 0, width := 8, acc := .rw, cls := .c, stride := 0x20, count := 16 },
    { off := 0x800, lo := 62, width := 2, acc := .rw, cls := .c, count := 256 },
    { off := 0x800, lo := 0, width := 52, acc := .rw, cls := .c, count := 256 } ]

/-- KEEPER page (R35, R453); LC, ROLLBACK and SERIAL come from OTP and are composed. -/
def keeperFields : List Fld :=
  [ { off := 0x100, lo := 0, width := 4, acc := .ro, cls := .s },
    { off := 0x100, lo := 8, width := 8, acc := .ro, cls := .s },
    { off := 0x100, lo := 23, width := 7, acc := .ro, cls := .s },
    { off := 0x108, lo := 0, width := 2, acc := .w1z, cls := .v },
    { off := 0x110, lo := 1, width := 1, acc := .ro, cls := .s },
    { off := 0x110, lo := 0, width := 1, acc := .w1z, cls := .v },
    { off := 0x120, lo := 63, width := 1, acc := .w1z, cls := .v },
    { off := 0x120, lo := 0, width := 23, acc := .rw, cls := .v },
    { off := 0x140, lo := 0, width := 64, acc := .ro, cls := .v, count := 4 },
    { off := 0x400, lo := 0, width := 32, acc := .rw, cls := .s },
    { off := 0x408, lo := 0, width := 32, acc := .rw, cls := .c, rst := 10000 },
    { off := 0x410, lo := 0, width := 24, acc := .ro, cls := .s },
    { off := 0x440, lo := 0, width := 64, acc := .rw, cls := .s, count := 48 },
    { off := 0x800, lo := 0, width := 64, acc := .rw, cls := .v, count := 256 } ]

end Sys2Proof.Machine
end

