-- ==== Sys2Proof/Config.lean ====
section
/-! DEFINITION. What the spec leaves open, as constants with no body: each stands for a value that the hardware
supplies and the spec does not state. A proof can use no value of them. -/

namespace Sys2Proof

/-- A fresh open value for each use: the uses are numbered by the state's counter of open values. Log entry 3. -/
opaque Config.freeNat : Nat → Nat

/-- SHA-512 digest of the Keeper's boot ROM, as a number of 64 bytes, least significant first (R447). Log entry 16. -/
opaque Config.bootRomDigest : Nat

end Sys2Proof
end

