-- ==== Sys2Proof/Machine/State.lean ====
section
/-! DEFINITION. The state of the module: every register, memory, queue and mode the spec gives it, as plain data, with
the queue of waiting commands; the reasons a step can stop; and the state after reset. -/

namespace Sys2Proof.Machine

/-- Reasons a command stops. -/
inductive Fault where
  /-- Raised by every command that names a core, steward, Wain, die, page or other unit that R5, R7, R17, R228 or
  R265 does not place in the module. Safe: the module has no such agent, so no such command can occur. -/
  | noSuchAgent (n : Nat)
  deriving DecidableEq, Repr

/-- Reasons a command has no meaning. -/
inductive Refusal where
  /-- Raised by an arm of `exec` whose command has no meaning yet. Safe: it stops. -/
  | notModelled (mnemonic : String)
  deriving DecidableEq, Repr

/-! ### The scalar processor -/

/-- The stored fields of CS in one bank (R40); MBUSY and BANK are composed on a read. -/
structure Cs where
  le : Bool
  level : Bool
  exl : Bool
  ie : Bool
  deriving DecidableEq, Repr

/-- One shadow bank (R39, R84). -/
structure Bank where
  cs : Cs
  epc : PAddr := 0
  ecs : Word := 0
  deriving DecidableEq, Repr

/-- A load whose write of its destination register is pending (R58, R59). -/
structure Load where
  id : Nat
  dest : Nat
  size : Nat
  sx : Bool
  /-- Instructions retired since the load was presented, the load itself included. -/
  age : Nat
  ea : Nat
  /-- The extended value, once its data has returned. -/
  val : Option Word
  /-- Its write of the register stands; a cancelled write leaves the access under way, with its report (R59, R63). -/
  live : Bool := true
  /-- An uncorrectable own-Loft word was read: nothing is written and LOFT_ECC is reported (R63). -/
  bad : Bool := false
  /-- The Crib line whose fill the load waits for, the byte offset in it, and the store bytes that precede the load. -/
  line : Option Nat := none
  off : Nat := 0
  patchMask : Nat := 0
  patch : Nat := 0
  deriving DecidableEq, Repr

/-- A multiply-divide result in flight (R60): PL and PH as one number. -/
structure MulDiv where
  val : Nat
  div : Bool
  deriving DecidableEq, Repr

/-- The branch whose delay slot issues next, with what undoing it needs (R64, R98). -/
structure Branch where
  pc : PAddr
  target : Option PAddr
  linkReg : Option Nat
  oldVal : Word
  /-- Numbers of the loads whose write the link register's write cancelled. -/
  cancelled : List Nat
  deriving DecidableEq, Repr

/-- A precise fault raised and not yet entered (R85, R88). -/
structure Trap where
  cause : Nat
  sub : Nat
  addr : Nat
  epc : PAddr
  bd : Bool
  rs : Bool
  deriving DecidableEq, Repr

/-- A report that has arrived (R87); `deferred` when an entry set CS.EXL while it waited. -/
structure Report where
  cause : Nat
  sub : Nat
  addr : Nat
  deferred : Bool := false
  deriving DecidableEq, Repr

/-- What an instruction held at issue waits for. -/
inductive HoldKind where
  | fence | sig | wait | waitg | arrive | send | trysend | recv | tld | tyield
  deriving DecidableEq, Repr

/-- An instruction held at issue: R218, R233, R234, R241, R258, R259, R260. -/
structure Hold where
  kind : HoldKind
  /-- The request, increment or arrival has been sent. -/
  sent : Bool
  /-- Counter reference (R230), stook line (bit 3 set for a module line), or destination of a message. -/
  obj : Nat
  /-- WAIT: target. WAITG: generation. SIG: amount. -/
  target : Nat
  scope : Nat
  /-- Destination register, where the instruction has one. -/
  dest : Option Nat
  /-- SEND, TRYSEND: the copy of the words. -/
  words : List Nat
  /-- Address of the register a report names. -/
  mpa : Nat
  deriving DecidableEq, Repr

/-! ### Translation, Crib, write-combining buffer, range tracker (R196 to R208) -/

/-- A TLB entry (R202); the list of entries runs from most to least recently used. -/
structure TlbEntry where
  asid : Nat
  big : Bool
  vpage : Nat
  ppage : Nat
  w : Bool
  t : Bool
  nc : Bool
  deriving DecidableEq, Repr

/-- A walk requested from the die walker (R203): the level whose entry is being read, and the entry's MPA. -/
structure Walk where
  asid : Nat
  va : Nat
  cbase : Nat
  sub : Nat
  store : Bool
  task : Bool
  running : Bool
  level : Nat := 0
  addr : Nat := 0
  /-- Set once the four levels have been read: the entry, or the failing level and reason (R201). -/
  result : Option (TlbEntry ⊕ (Nat × Nat))
  /-- A TLBINV issued meanwhile covers the entry: it completes and does not fill (R204). -/
  noFill : Bool
  deriving DecidableEq, Repr

/-- A Crib line: MPA / 128 and its 128 bytes (R205); `bad` marks one that holds an uncorrectable error (R209). -/
structure CribLine where
  line : Nat
  data : Nat
  bad : Bool := false
  deriving DecidableEq, Repr

/-- A Crib fill in flight (R206): the two granules as they return, and the store bytes that take precedence (R207). -/
structure CribFill where
  line : Nat
  alloc : Bool
  mask : Nat
  bytes : Nat
  deriving DecidableEq, Repr

/-- What a store's report would name (R85, R115): its SUB and core address; for a lane of a vector store the store's number and the
lane. -/
structure StoreMark where
  sub : Nat
  ea : Nat
  vec : Option Nat := none
  lane : Nat := 0
  deriving DecidableEq, Repr

/-- The first failure so far of a vector or tile store whose writes are still out: its number, where in its order the failure comes,
and the report (R115, R157). -/
structure StoreFail where
  id : Nat
  order : Nat
  rep : Report
  deriving DecidableEq, Repr

/-- A line of the write-combining buffer (R207), oldest first in its list: byte mask, bytes, and for each half the marks of the stores
that it holds. -/
structure WcbLine where
  line : Nat
  mask : Nat
  data : Nat
  marks0 : List StoreMark
  marks1 : List StoreMark
  deriving DecidableEq, Repr

/-- Owner of a range tracker entry (R196). -/
inductive RtOwner where
  | matx (n : Nat)
  | tst (n : Nat)
  /-- Move number `n` of Wain `w`. -/
  | wain (w n : Nat)
  deriving DecidableEq, Repr

/-- A range tracker entry in 64-byte granules; own Loft as offsets, anything else as MPAs (R196). -/
structure RtEntry where
  owner : RtOwner
  far : Bool
  lo : Nat
  hi : Nat
  write : Bool
  /-- An entry whose range holds no byte: it takes its place and overlaps nothing (R174). -/
  empty : Bool := false
  deriving DecidableEq, Repr

/-! ### Vector, tile and Thresher state of a core -/

/-- What a granule's read answers to one that waits for it: data, performed, poisoned, access error (R212). -/
inductive Resp where
  | data (v : Nat)
  | ok
  | poison
  | err
  deriving DecidableEq, Repr

/-- A far read of `len` bytes within one granule, which an instruction needs (R112, R155): its number, or 0 for the instruction at
issue; whether it goes through the Crib; whether it has begun; its answer. -/
structure Piece where
  own : Nat
  mpa : Nat
  len : Nat
  crib : Bool
  /-- The lane it serves alone, for an access to register space; the core address it reads, for the instruction at issue. -/
  lane : Nat := 64
  ea : Nat := 0
  begun : Bool := false
  /-- Number of the request that it has made. -/
  req : Nat := 0
  ans : Option Resp := none
  /-- The store bytes that precede it and that the Crib line's fill does not bring (R207). -/
  patchMask : Nat := 0
  patch : Nat := 0
  deriving DecidableEq, Repr

/-- A vector load whose write is pending (R111, R115): the lanes it writes and the values of those that need no far read; with
`rep` the report of the lowest lane that has failed so far, and its lane. `far` lists the lanes whose far reads are to be taken
from the pieces with its number: lane, core address, MPA. -/
structure VLoad where
  id : Nat := 0
  dest : Nat
  /-- As for a scalar load. -/
  age : Nat
  live : Bool := true
  mask : BitVec 64
  data : BitVec 2048
  rep : Option Report
  repLane : Nat := 64
  /-- A lane met poison or an uncorrectable error: no lane is written. -/
  hurt : Bool := false
  far : List (Nat × Nat × Nat) := []
  deriving DecidableEq, Repr

/-- A TMUL in the array (R150, R159). -/
structure Tmul where
  acc : Nat
  ta : Nat
  tb : Nat
  shape : Nat
  fa : Nat
  fb : Nat
  zero : Bool
  ksel : Bool
  deriving DecidableEq, Repr

/-- A MATX in the Thresher queue (R167 to R189): its word, what it captured at issue (the three descriptors as four
registers each, the epilogue descriptor, MXDONE, the level), and its walk: slots, block, slot map, phase of order 3, tiles
written and steps done. `s` is 0 until the walk has begun; `walk` tells that it has begun since the last issue. -/
structure Matx where
  id : Nat
  word : Nat
  desc : List Nat
  epi : List Nat
  done : Nat
  level : Bool
  walk : Bool := false
  dropped : Bool := false
  s : Nat := 0
  br : Nat := 0
  bc : Nat := 0
  accmap : Nat := 0
  phase : Nat := 0
  wtile : Nat := 0
  step : Nat := 0
  /-- Accumulator rows done of the write-out, partial load or partial store in progress (R120, R186). -/
  row : Nat := 0
  deriving DecidableEq, Repr

/-- A write to register space that waits for the one before it (R226): the number of its tile store, or none for a vector store;
its address, bytes, and what its report names. -/
structure RegStore where
  tst : Option Nat
  mpa : Nat
  len : Nat
  data : Nat
  mark : StoreMark
  deriving DecidableEq, Repr

/-- A furrow routine in execution (R299): its body, the instructions executed, and what its end restores: the PC and level
at its dispatch, and reports that had arrived by then. -/
structure Routine where
  rule : Nat
  entry : Nat
  rlen : Nat
  count : Nat
  pc : PAddr
  level : Bool
  reports : List Report
  deriving DecidableEq, Repr

/-- One core or steward: the scalar processor's state (R39, R72, R80, R199), its vector and tile registers (R102,
R145 to R148), and what it has in flight. Register files are sparse maps in which an unlisted register is zero. -/
structure Core where
  running : Bool := false
  halted : Bool := false
  idle : Bool := false
  /-- CORE_RUN 1 to 0 asked for a stop (R71); and a start was asked for while the stop was pending. -/
  stopReq : Bool := false
  restart : Bool := false
  pc : PAddr := 0
  g : SMap Word := []
  p : SMap Word := []
  st : SMap Word := []
  w : SMap Word := []
  lps : SMap PAddr := []
  lpe : SMap PAddr := []
  lpc : SMap Word := []
  pl : Word := 0
  ph : Word := 0
  /-- Multiply-divide results not yet written, oldest first. -/
  md : List MulDiv := []
  cyc : Word := 0
  bank : Nat := 0
  bank0 : Bank := { cs := { le := true, level := true, exl := false, ie := false } }
  bank1 : Bank := { cs := { le := false, level := true, exl := false, ie := false } }
  bank2 : Bank := { cs := { le := false, level := true, exl := false, ie := false } }
  /-- Pending CS writes, each with the instructions still to follow it (R65). -/
  csq : List (Cs × Nat) := []
  vec : PAddr := 0
  esp : Word := 0
  gateBase : Nat := 0
  rgnBase : Nat := 0
  rgnLimit : Nat := 0
  kloft : Nat := 0x400000
  /-- PMSEG of a steward, XP in [15:0] and WL in [31:16] (R72); a core's is its CORE_PM_SEG register. -/
  seg : Nat := 0
  /-- The notice queue of a steward (R76), oldest first, and whether notices were dropped. -/
  notices : List Word := []
  noticeLost : Bool := false
  branch : Option Branch := none
  trap : Option Trap := none
  reports : List Report := []
  loads : List Load := []
  hold : Option Hold := none
  tctx : Nat := 0
  tfinfo : Nat := 0
  tlb : List TlbEntry := []
  walk : Option Walk := none
  crib : List CribLine := []
  fills : List CribFill := []
  wcb : List WcbLine := []
  rt : List RtEntry := []
  v : SMap (BitVec 2048) := []
  q : SMap (BitVec 64) := []
  vloads : List VLoad := []
  /-- Far reads of vector loads and of the instruction at issue. -/
  pieces : List Piece := []
  /-- Translations that the TST at issue has completed (R156): address of the piece, MPA, NC. -/
  xlat : List (Nat × Nat × Bool) := []
  /-- Writes to register space of vector and tile stores that are still to be issued, oldest first (R226). -/
  regQ : List RegStore := []
  /-- Failures of vector and tile stores that are still to be reported. -/
  fails : List StoreFail := []
  /-- Tile storage rows at key 64 t + row, side stores at 512 t + byte, tags, accumulator elements at 4096 k + e. -/
  tiles : SMap (BitVec 1024) := []
  side : SMap Byte := []
  tag : SMap Byte := []
  acc : SMap (BitVec 32) := []
  tldpos : Nat := 0
  accpin : Nat := 0
  tmuls : List Tmul := []
  /-- The Thresher queue, oldest first. -/
  mxq : List Matx := []
  /-- What a TYIELD.R that is held has still to put into the queue: TPROG index, and the MATX with the descriptors it captured (R188). -/
  resumes : List (Nat × Matx) := []
  srng : BitVec 32 := 1
  mxdone : Nat := 0
  routine : Option Routine := none
  /-- WWIN_BASE_0, WWIN_LIMIT_0, WWIN_BASE_1, WWIN_LIMIT_1 (R268). -/
  wwin0Base : Nat := 0
  wwin0Limit : Nat := 0
  wwin1Base : Nat := 0
  wwin1Limit : Nat := 0
  deriving DecidableEq, Repr

/-- A core after CR. -/
def Core.reset : Core := {}

/-! ### Traffic in flight -/

/-- What a far request is for, and so who takes its response. -/
inductive Use where
  /-- A scalar load of a core or steward (R58). -/
  | load (c id : Nat)
  /-- A far read of a vector load or a tile load: piece of `own` (R112, R155), `lane` as in `Piece`. -/
  | piece (c own lane : Nat)
  /-- Half `half` of a Crib line fill (R206). -/
  | fill (c line half : Nat)
  /-- A far store of a core or steward, with the marks of the stores that it merges (R85, R207). -/
  | store (c : Nat) (marks : List StoreMark)
  /-- A write of a TST (R157), with the number of its range tracker entry. -/
  | tst (c n ea : Nat)
  /-- A write of Wain `w`, with its instruction's offset in the program (R283, R286) and the number of its MOVE. -/
  | wain (w off : Nat) (n : Nat := 0)
  /-- A far read that a command of an agent waits for: a core's TLD, TST or vector load by its core ID, a translation walk by
  0x30000 + core, Wain `w` by 0x10000 + w, an INTAKE slot by 0x20000 + 64 die + slot. -/
  | fetch (key : Nat)
  /-- A granule of host access `n` (R213, R391). -/
  | host (n : Nat)
  /-- A request that left an agent before its reset: it completes at its destination and its response is discarded (R411). -/
  | gone (c : Nat) (write : Bool)
  deriving DecidableEq, Repr

/-- What a request does at its home. -/
inductive Op where
  | read
  | write (mask data : Nat)
  | accFast (mask data fmt : Nat)
  | accExact (mask data fmt : Nat)
  deriving DecidableEq, Repr

/-- Virtual channels (R322). -/
inductive Vc where
  | req | rsp | msg | prio
  deriving DecidableEq, Repr

/-- What a packet's flits have met on their way (R319, R330): nothing, an error that SECDED corrects, or one that it does not. -/
inductive FlitErr where
  | clean | corrected | uncorrectable
  deriving DecidableEq, Repr

/-- A packet's way through one compute die (R320, R321), as slots: the stop where it starts or enters, the stop where it turns,
and the stop where it leaves or ends. -/
structure Leg where
  die : Nat
  entry : Nat
  turn : Option Nat
  exit : Nat
  deriving DecidableEq, Repr

/-- A crossing of a die link: the sending end's die and page, and the bundle in its numbering. -/
structure Xing where
  die : Nat
  page : Nat
  k : Nat
  deriving DecidableEq, Repr

/-- How a packet travels (R317 to R324, R346): its number, virtual channel, ring lane (0 a, 1 b), whether it takes the lane link
between two neighbours, its legs, all the crossings of its request, and those it still has to make. -/
structure Path where
  born : Nat := 0
  vc : Vc := .req
  lane : Nat := 0
  link : Bool := false
  /-- The dies it passes (R9). -/
  route : List Nat := []
  legs : List Leg := []
  xings : List Xing := []
  todo : List Xing := []
  flit : FlitErr := .clean
  deriving DecidableEq, Repr

/-- A far request in flight: `len` bytes at an MPA, within one 64-byte granule. `q` is the requester (R23), `die` the die it was issued on,
`sent` marks a host-window write accepted by the host port (R218). `home` is the die that held the MPA's home when it was issued
(R16), `owned` whether that die's own table then gave it the granule (R15), `tag` the partition of its source, 16 for SYS (R329). -/
structure Req where
  id : Nat
  use : Use
  q : Nat
  die : Nat
  mpa : Nat
  len : Nat
  op : Op
  sent : Bool
  resp : Option Resp
  home : Nat := 4
  owned : Bool := true
  tag : Nat := 16
  path : Path := {}
  deriving DecidableEq, Repr

/-- An increment on its way to its counter's home (R229): a reference as R230 lays out, the amount, the requester as
R23 numbers it, and the core whose SIG waits for it. -/
structure Inc where
  ref : Nat
  amount : Nat
  q : Nat
  sig : Option Nat
  /-- The die it left, and whether a cut route has poisoned it (R10). -/
  die : Nat := 4
  cut : Bool := false
  path : Path := {}
  /-- A Wain's SIGNAL has sent it: the Wain and the instruction's offset (R279). -/
  wain : Option (Nat × Nat) := none
  /-- A cadence slot of its die has sent it (R381). -/
  slot : Option Nat := none
  deriving DecidableEq, Repr

/-- A chute request (R253): sender code, whether a Wain sent it, destination, words of 128 bits, and the response:
1 accepted, 0 full, 2 refused, 3 route cut (R258). -/
structure ChuteReq where
  q : Nat
  wain : Option Nat
  core : Option Nat
  dest : Nat
  words : List Nat
  try_ : Bool
  resp : Option Nat
  /-- The partition of its source when it was sent, 16 for SYS (R329, R407). -/
  tag : Nat := 16
  path : Path := {}
  deriving DecidableEq, Repr

/-- A stook arrival on its way to the line's home (R240): core or steward, and line (8 + n for MST_n). -/
structure Arrival where
  c : Nat
  line : Nat
  deriving DecidableEq, Repr

/-! ### Wains -/

/-- An open loop level of a Wain program (R276): instruction index of its LOOP, body, passes, current iteration. -/
structure WainLoop where
  at_ : Nat
  body : Nat
  count : Nat
  iter : Nat
  sstep : Int
  dstep : Int
  deriving DecidableEq, Repr

/-- What a Wain holds beside its page's registers (R267 to R285). -/
structure Wain where
  /-- The fetched instruction, as its 256 bits; none until WAIN_FETCH delivers it. -/
  instr : Option Nat := none
  /-- Loop levels, outermost first. -/
  loops : List WainLoop := []
  /-- The pending PLANE instruction (R280). -/
  plane : Option Nat := none
  /-- Byte address of the program's first instruction. -/
  start : Nat := 0
  /-- Byte address of the instruction to fetch next; WAIN_PC takes it when it executes (R286). -/
  next : Nat := 0
  /-- The current instruction waits for something already begun: a MOVE whose tracker entries are taken, a message on its way. -/
  sent : Bool := false
  /-- The route to the comparator of the WAIT that holds the program has been cut (R278). -/
  cut : Bool := false
  /-- Number of the MOVE in progress or last begun. -/
  move : Nat := 0
  /-- The errors met, to be taken at the next boundary: ERR_STAT bit, MPA and the failing instruction's offset (R283, R286). -/
  err : List (Nat × Nat × Nat) := []
  /-- The program has ended and waits for its acknowledgements: the STATE to enter. -/
  ending : Option Nat := none
  /-- Words of a message that a full chute has refused (R279). -/
  words : List Nat := []
  deriving DecidableEq, Repr

/-! ### Units of the Barns, the host port, the Keeper and power -/

/-- A FINALISE, a ZERO, or both in one command, in progress on descriptor `n` of a Barn (R360). -/
structure AccOp where
  die : Nat
  n : Nat
  fin : Bool
  keep : Bool
  zero : Bool
  deriving DecidableEq, Repr

/-- One 16-byte slot of a HEAD frame (R334): the header of a packet or a read request, by the packet's number, or a credit return for
frames of a virtual channel. -/
inductive Slot where
  | header (born : Nat)
  | read (born : Nat)
  | credit (vc : Vc) (n : Nat)
  deriving DecidableEq, Repr

/-- A frame of a block (R334): one flit of a packet; up to four slots, whose headers belong to packets of one virtual channel; nothing. -/
inductive Frame where
  | data (vc : Vc) (born flit : Nat)
  | head (vc : Vc) (slots : List Slot)
  | idle
  deriving DecidableEq, Repr

/-- A block: its sequence number and its 15 frames (R334). -/
structure LinkBlock where
  seq : Nat
  frames : List Frame
  deriving DecidableEq, Repr

/-- State of one bundle at one end of a link (R334 to R338), after a training in which block 0 has been acknowledged: as receiver
the next block expected, whether its next CHECK frame carries NAK, the frames in its buffer, and the credits it has still to return;
as sender the next block, the blocks not acknowledged, those of them that a replay is still to send, whether a NAK asks for a replay,
how often the first of them has been replayed in a row, and the frames sent against credits that have not come back. Credits stand for
VC_REQ, VC_RSP, VC_MSG and VC_PRIO in turn. With them the maps of failed lanes onto good spares, for frames received and sent. -/
structure Bundle where
  expect : Nat := 1
  naking : Bool := false
  buffer : List Frame := []
  owed : List Nat := [0, 0, 0, 0]
  next : Nat := 1
  kept : List LinkBlock := []
  resend : List LinkBlock := []
  replay : Bool := false
  replays : Nat := 0
  used : List Nat := [0, 0, 0, 0]
  rxMap : List (Nat × Nat) := []
  txMap : List (Nat × Nat) := []
  deriving DecidableEq, Repr

/-- A mask beacon on its way to an end of a link (R343). -/
structure Beacon where
  die : Nat
  page : Nat
  epoch : Nat
  mask : Nat
  deriving DecidableEq, Repr

/-- A tick word on its way to the cadence unit of a die (R375): a line other than 0 carries the low 16 bits of the frame
number only. With it the LPF in effect, and whether the line was entered at once (R372). -/
structure Tick where
  die : Nat
  frame : Nat
  line : Nat
  lpf : Nat
  early : Bool
  deriving DecidableEq, Repr

/-- A host access in progress (R389, R391), whose granules are requests in flight: a write, or a read of `len` bytes with the tag of its
TLP. -/
structure HostAcc where
  id : Nat
  write : Bool
  len : Nat
  tag : Nat
  deriving DecidableEq, Repr

/-- A read of an INTAKE slot in flight (R382). -/
structure Intake where
  die : Nat
  slot : Nat
  mpa : Nat
  arg : Nat
  deriving DecidableEq, Repr

/-- A token of a furrow queue (R290): control or data, with the header's TAG and LEN, and its bytes. -/
structure Token where
  ctl : Bool
  tag : Nat
  len : Nat
  data : Nat
  deriving DecidableEq, Repr

/-- A firing in flight (R295): its rule, and for each output its selector and token; none for an output that takes no
token, or whose ROUTINE has not ended. -/
structure Firing where
  rule : Nat
  outs : List (Nat × Option Token)
  routine : Bool
  deriving DecidableEq, Repr

/-- What a core's furrow block holds beside its page's registers (R288 to R312). -/
structure Furrow where
  stream : Bool := false
  loading : Bool := false
  drainReq : Bool := false
  drained : Bool := false
  sink : Bool := false
  /-- Hardware entries of the queue at each index of R291, oldest first, and what its extension holds: the slot of its
  oldest token and the number of tokens. -/
  queues : SMap (List Token) := []
  ext : SMap (Nat × Nat) := []
  /-- Tokens on their way to this core's queues, oldest first: index and token. -/
  arriving : List (Nat × Token) := []
  firings : List Firing := []
  /-- At each priority, the rule last dispatched plus one. -/
  last : SMap Nat := []
  /-- The token that injector k has taken, at k; tokens on their way to ejectors, oldest first. -/
  taken : SMap (List Token) := []
  ejecting : List (Nat × Token) := []
  deriving DecidableEq, Repr

/-- What leaves the module through J1: host completions, TLPs, MSI-X messages, management replies. -/
inductive Out where
  /-- A completion of a host read: tag, bytes, data, poisoned. -/
  | completion (tag len data : Nat) (ep : Bool)
  /-- An Unsupported Request completion, and a Request Retry Status one. -/
  | unsupported (tag : Nat)
  | retry (tag : Nat)
  /-- A memory write or read TLP to PCIe address `addr`; `mask` selects the bytes of the write, `id` is the request. -/
  | memWrite (addr len mask data : Nat) (noSnoop : Bool)
  | memRead (id addr len : Nat) (noSnoop : Bool)
  /-- A sent MSI-X message: vector, address and data of its table entry. -/
  | msix (v addr data : Nat)
  /-- A reply over DOE or MCTP: the message it answers, a status, and the bytes of its content. -/
  | reply (kind status : Nat) (body : List Nat)
  /-- A notice that the module leaves a completion ring entry: 32 bytes. -/
  | none
  deriving DecidableEq, Repr

/-- A task of a RUN entry between its start and its completion (R400). -/
structure Task where
  ring : Nat
  seq : Nat
  tag : Nat
  flags : Nat
  due : Nat
  ref : Nat
  target : Nat
  stopWait : Bool
  cores : List Nat
  /-- The entry is a FENCE: it completes after every earlier entry of its ring (R398). -/
  fence : Bool := false
  /-- Status and detail once decided. -/
  result : Option (Nat × Nat)
  deriving DecidableEq, Repr

/-- Firmware's view of an intake ring (R396 to R402): entries consumed, completions written, overrun. -/
structure Ring where
  /-- RIDX and CHEAD have been taken from memory since the ring was last set up. -/
  synced : Bool := false
  ridx : Nat := 0
  cq : Nat := 0
  /-- WIDX as last read. -/
  widx : Nat := 0
  stopped : Bool := false
  /-- Completion entries not yet written, oldest first: TAG, SEQ, FRAME_NUM, STATUS, DETAIL, FLAGS. -/
  waiting : List (List Nat) := []
  deriving DecidableEq, Repr

/-- A die's latest report to the Keeper (R33, R36). -/
structure Report0 where
  epoch : Nat
  digest : Nat
  disturbed : Bool
  ahead : Bool
  dirty : Bool := false
  deriving DecidableEq, Repr

/-- A digest walk in progress (R33, R34): its epoch, the first page that it has still to visit, the records folded so far, and the flags. -/
structure DigestWalk where
  epoch : Nat := 0
  next : Nat := 0
  bytes : List Nat := []
  pages : Nat := 0
  ahead : Bool := false
  dirty : Bool := false
  disturbed : Bool := false
  deriving DecidableEq, Repr

/-- An UPDATE in progress (R445): source, length, whether it is RECOVERY's, and the manifest digest that was checked. -/
structure Update where
  mpa : Nat
  len : Nat
  mbox : Bool
  manifest : Nat
  deriving DecidableEq, Repr

/-- Volatile state of the Keeper (R429 to R453). -/
structure Keeper where
  /-- The current challenge; none when it has been consumed. -/
  chal : Option Nat := none
  debug : Nat := 0
  /-- A debug unlock has happened since the last MR (R449). -/
  unlocked : Bool := false
  /-- Latest report of each die (R36), and dies whose KEEPER_CFG_TIMEOUT has passed. -/
  reports : SMap (Option Report0) := []
  expired : List Nat := []
  /-- Reports, and reset notices of DRs, on their way over the sideband: the die, and the report (R33, R38). -/
  inbox : List (Nat × Report0) := []
  notices : List Nat := []
  /-- Types and digests of the booted image's components in manifest order, its SVN and vendor key. -/
  comps : List (Nat × Nat) := []
  svn : Nat := 0
  vendorPub : Nat := 0
  /-- Steward firmware digest running on die d (R449). -/
  running : SMap Nat := []
  /-- DeviceID and alias private seeds (R447); none when overwritten. -/
  devid : Option Nat := none
  alias_ : Option Nat := none
  update : Option Update := none
  /-- Dies whose steward is to be loaded. -/
  reload : List Nat := []
  deriving DecidableEq, Repr

/-! ### The always-on island -/

/-- State that no reset below PO clears (R364, R369, R341, R421, R438, R440, R454). TIME, MONO and every instant are in
units of 2^-64 s; `now` counts 1/15 of a reference cycle since PO. -/
structure AlwaysOn where
  now : Nat := 0
  time : Nat := 0
  mono : Nat := 0
  incr : Int := 184467440737
  trim : Int := 0
  phase : Int := 0
  ppsLast : Option Nat := none
  ppsCapt : Nat := 0
  ppsLocked : Bool := false
  ppsLost : Bool := false
  ppsSteps : Nat := 0
  ppsErr : Int := 0
  cntPpsGlitch : Nat := 0
  cntFrameGlitch : Nat := 0
  cntHold : Nat := 0
  /-- The frame generator: settings in effect since the last frame edge (R369). -/
  source : Nat := 0
  rate : Nat := 1
  lpf : Nat := 1125
  frameNum : Nat := 0
  /-- MONO0 of the free-run grid and the number of its edges (R370). -/
  grid0 : Nat := 0
  gridK : Nat := 0
  /-- MONO at the last frame edge and at the last accepted FRAME_IN edge, and P (R371). -/
  lastEdge : Nat := 0
  lastIn : Option Nat := none
  period : Nat := 0
  accepted : Nat := 0
  locked : Bool := false
  holdover : Bool := false
  /-- The edge that holdover counts from and the next k (R373). -/
  holdBase : Nat := 0
  holdK : Nat := 0
  /-- The last line the generator entered, and whether any frame has begun. -/
  line : Nat := 0
  begun : Bool := false
  dieEpoch : List Nat := [1, 1, 1, 1, 1, 1]
  /-- SWEEP_CAUSE of each die. -/
  cause : List Nat := [0, 0, 0, 0, 0, 0]
  /-- OTP: unique device secret, vendor key digest, serial, ROLLBACK fuses, LC fuses in pairs, repair map (R438). -/
  uds : Nat := 0
  vendorKey : Nat := 0
  serial : Nat := 0
  rollFuses : Nat := 0
  lcFuses : Nat := 3
  repair : SMap Byte := []
  /-- The flash (R440): an unlisted byte is erased and reads 0xFF. -/
  flash : SMap Byte := []
  /-- The bytes of the enrolled certificate chain in the public record block; the protected store: the LCB its seal is bound to, and the Crypto Officer and User keys (R431, R440, R447). -/
  storeLcb : Nat := 2
  certLen : Nat := 0
  coKey : Option Nat := none
  userKey : Option Nat := none
  /-- Thermal trip source (R467); the overvoltage latch; power is on; pins of J1 and J2. -/
  trip : Option Nat := none
  overV : Bool := false
  powered : Bool := true
  /-- Power has come up and the PO has still to be performed; JTAG selects EXTEST or CLAMP (R452). -/
  poDue : Bool := true
  jtag : Bool := false
  /-- MCTP endpoint ID that the bus owner has assigned; 0 before (R405). -/
  eid : Nat := 0
  vin : Nat := 4400
  pwrEn : Bool := true
  perstN : Bool := true
  deriving DecidableEq, Repr

/-! ### The module -/

/-- A 128-byte line of a Granary (R354). The masks have one bit for each 64-byte granule, or one for each 8-byte word. -/
structure GLine where
  way : Nat
  /-- L[37:24] of its bytes. -/
  tag : Nat
  /-- Granules that the line holds, that HBM does not hold as they stand here, and that are marked poisoned (R355). -/
  valid : Nat := 0
  dirty : Nat := 0
  poison : Nat := 0
  /-- Words whose SRAM holds an uncorrectable error, and a correctable one. -/
  bad : Nat := 0
  ce : Nat := 0
  deriving DecidableEq, Repr

/-- Everything of the module that resets clear, with the requests in flight. -/
structure Mod where
  /-- Every byte memory: HBM behind BW at its local address, behind BE at 2^38 plus it, each Loft at its MPA, and each
  steward's local memory at 2^44 + die * 2^21 plus its address. An unlisted byte reads 0. -/
  mem : List Host.Cell := []
  /-- Keys (address / 8) of 8-byte words of `mem` that hold an uncorrectable error (R195). -/
  bad : List Nat := []
  /-- Keys of words of Lofts that hold a single-bit error, which a read corrects (R191, R195). -/
  ce : List Nat := []
  /-- Program memories: cpu * 65536 + parcel address (R41). An unlisted parcel is 0. -/
  pm : SMap Parcel := []
  /-- Registers of every page: (die * 8192 + page) * 512 + offset / 8. An unlisted register holds its reset value. -/
  regs : SMap Word := []
  /-- The S and V bits of frozen pages, at the same keys (R22). -/
  frozen : SMap Word := []
  /-- Cores at their core ID, the steward of die d at 0x3F0 + d. -/
  cores : SMap Core := []
  /-- Wains: core * 2 + w, Barn Wain n of Barn b at 2048 + 16 * b + n. -/
  wains : SMap Wain := []
  net : List Req := []
  /-- Number of the next request, load, walk or other thing in flight. -/
  nextId : Nat := 0
  /-- Cores whose translation walks the walkers have still to finish, in arrival order (R203). -/
  walkers : List Nat := []
  /-- Open values used so far (the model's own field, log entry 3). -/
  fresh : Nat := 0
  /-- Increments on their way, in the order in which they left. -/
  incs : List Inc := []
  chuteReqs : List ChuteReq := []
  /-- Reservation holder of a chute, at core * 8 + chute: requester code, plus 0x10000 * (w + 1) for a Wain (R259). -/
  rsv : SMap Nat := []
  arrivals : List Arrival := []
  /-- Arrival flags at die * 16 + line, one bit a slot and bit 255 the steward; module line n is 8 + n (R240). -/
  flags : SMap (BitVec 256) := []
  /-- Dies whose contribution to module line n is held at 0 after a DR, at n (R242). -/
  held : SMap Nat := []
  /-- Dies in DR (R10, R412). -/
  dr : List Nat := []
  /-- HBM granules marked poisoned (R355), at the key of their first byte / 64. -/
  poisoned : List Nat := []
  /-- Lines of a Granary set (R354), at barn * 2^17 + L[23:7]. -/
  granary : SMap (List GLine) := []
  /-- Exact bins at die * 2^24 + bin, and those that hold an uncorrectable error (R359). -/
  bins : SMap (BitVec 128) := []
  badBins : List Nat := []
  accOps : List AccOp := []
  /-- Descriptors at die * 16 + n: EN was cleared during an operation (R358); the mode under the buffer changed (R361). -/
  accOff : List Nat := []
  accMoved : List Nat := []
  /-- Stacks (0 to 7) that failed training (R350). -/
  deadStacks : List Nat := []
  /-- Cores under CR, and under PR of partition p as core + 1024 (p + 1) (R411). -/
  inReset : List Nat := []
  ticks : List Tick := []
  /-- LPF of the frame that a die's cadence unit has entered, at the die; 0 until it adopts a frame after a DR (R376). -/
  unitLpf : SMap Nat := []
  intakes : List Intake := []
  /-- SEC_APPLY waits for the next accepted edge (R367); the latched high half of CAD_TIME. -/
  secPend : Bool := false
  timeLatch : Option Nat := none
  /-- FRAME_OUT is high, and lines it still stays high (R375). -/
  frameOut : Nat := 0
  /-- DIELINK, at end key die * 8192 + page: the mask last adopted, kept through a DR; sequence state of each bundle at key
  16 * end + bundle; beacons on their way. -/
  lastMask : SMap Nat := []
  bundles : SMap Bundle := []
  beacons : List Beacon := []
  /-- The host port: link up, D3hot, BAR2 size as log2, PCIe configuration space, MSI-X table and pending bits. -/
  bar2Log : Nat := 28
  d3 : Bool := false
  standby : Bool := false
  cfgSpace : SMap (BitVec 32) := []
  msixTab : SMap Word := []
  pba : BitVec 256 := 0
  /-- AER: uncorrectable and correctable error status, how often each correctable error has come, and the header log (R395). -/
  aer : Nat := 0
  aerCor : Nat := 0
  aerCount : SMap Nat := []
  aerHeader : Option Nat := none
  out : List Out := []
  /-- Host accesses in progress, oldest first (R391). -/
  hostQ : List HostAcc := []
  doeBusy : Bool := false
  doeErr : Bool := false
  rings : SMap Ring := []
  tasks : List Task := []
  /-- Activity that restarts the quiet time of the watch (R245), since the watch last looked: cores whose Wains, Thresher or furrow queues
  have worked, and 0x10000 + die where a die link has moved a flit. -/
  stirred : List Nat := []
  /-- The furrow block of each core. -/
  furrows : SMap Furrow := []
  digests : SMap DigestWalk := []
  keeper : Keeper := {}
  /-- Power: targets of a change in progress at die * 2 + half; stretch requests at die * 2 + half for droop, cap and
  thermal (R461); grant in force; dies for which 3 ms have passed without a grant. -/
  opTarget : SMap Nat := []
  droop : SMap Nat := []
  cap : SMap Nat := []
  therm : SMap Nat := []
  sag : List Nat := []
  /-- The 10 ms mean of input power exceeds 1.05 × PWR_BUDGET (R465). -/
  overMean : Bool := false
  grantOk : List Nat := []
  /-- Watchdogs that have expired once without a kick: cores, and stewards at 0x3F0 + die. -/
  warned : List Nat := []
  /-- Debug holds (R452). -/
  debugHalt : List Nat := []
  deriving DecidableEq, Repr

/-- The state of the module and the queue of waiting commands, first in, first out. -/
structure State where
  pending : List Instr
  aon : AlwaysOn
  mod : Mod
  deriving DecidableEq, Repr

/-- The module right after power-on reset. -/
def State.reset : State := { pending := [], aon := {}, mod := {} }

/-- What a command answers. -/
abbrev Ans := Host.Outcome State Fault Refusal

end Sys2Proof.Machine
end

