-- ==== Sys2Proof/Machine/Regs.lean ====
section
/-! DEFINITION. Access to cores, memories and page registers: where each page sits (R17, R18), what a register resets
to, the common access rules (R20), error records (R23) and checksums (R29). -/

namespace Sys2Proof.Machine

/-! ### Numbers of agents -/

/-- A populated core ID (R4). -/
def isCore (c : Nat) : Bool := decide (c < 0x400) && decide (c / 16 % 16 < 12) && decide (c % 16 < 12)

/-- A steward's number. -/
def isStw (c : Nat) : Bool := decide (0x3F0 ≤ c) && decide (c < 0x3F6)

/-- A scalar processor: a core or a steward. -/
def isCpu (c : Nat) : Bool := isCore c || isStw c

/-- The die of a core or steward. -/
def dieOf (c : Nat) : Nat := if isStw c then c - 0x3F0 else c / 256

/-- Requester code of R23. -/
def reqCode (c : Nat) : Nat := if isStw c then 0xF00 + (c - 0x3F0) else c

/-- The host's requester code. -/
def hostCode : Nat := 0xFFF

/-! ### Cores -/

def Mod.core (m : Mod) (c : Nat) : Core := SMap.get Core.reset m.cores c

def Mod.setCore (m : Mod) (c : Nat) (k : Core) : Mod := { m with cores := SMap.put Core.reset m.cores c k }

def Mod.onCore (m : Mod) (c : Nat) (f : Core → Core) : Mod := m.setCore c (f (m.core c))

/-- Core `c` exists, issues and is not halted. -/
def Mod.running (m : Mod) (c : Nat) : Bool := isCpu c && (m.core c).running

/-! ### Furrow blocks -/

def Mod.fur (m : Mod) (c : Nat) : Furrow := SMap.get {} m.furrows c

def Mod.setFur (m : Mod) (c : Nat) (f : Furrow) : Mod := { m with furrows := SMap.put {} m.furrows c f }

/-- Tokens that the queue at index `i` holds, its extension included (R292, R315). -/
def Furrow.occ (f : Furrow) (i : Nat) : Nat :=
  if 16 ≤ i ∧ i < 20 then (SMap.get [] f.taken (i - 16)).length
  else (SMap.get [] f.queues i).length + (SMap.get (0, 0) f.ext i).2

/-- FURROW_STAT.EMPTY (R309). -/
def Furrow.isEmpty (f : Furrow) : Bool :=
  (List.range 24).all (fun i => f.occ i == 0) && f.arriving.isEmpty && f.firings.isEmpty && f.ejecting.isEmpty

/-- FURROW_STAT (R315). -/
def Furrow.stat (f : Furrow) : Nat :=
  b2n f.stream + 2 * b2n f.loading + 4 * b2n f.isEmpty + 8 * b2n f.drained + 16 * b2n f.sink + 32 * b2n f.drainReq

/-! ### Memories -/

/-- Key in `mem` of address 0 of a core's Loft or a steward's local memory. -/
def loftKey (c : Nat) : Nat := if isStw c then 2 ^ 44 + (c - 0x3F0) * 2 ^ 21 else 2 ^ 42 + c * 2 ^ 22

/-- Key in `mem` of a Barn's HBM (0 BW, 1 BE). -/
def hbmKey (barn l : Nat) : Nat := barn * 2 ^ 38 + l

/-- No 8-byte word of the `n` bytes at key `k` holds an uncorrectable error. -/
def Mod.wordsOk (m : Mod) (k n : Nat) : Bool := m.bad.all (fun b => decide (b < k / 8) || decide ((k + n - 1) / 8 < b))

/-- The lowest bad word of the span, as its first byte's key. -/
def Mod.firstBad (m : Mod) (k n : Nat) : Option Nat :=
  (m.bad.filter (fun b => decide (k / 8 ≤ b) && decide (b ≤ (k + n - 1) / 8))).foldl
    (fun o b => match o with | none => some (b * 8) | some x => some (Nat.min x (b * 8))) none

/-- Read `n` bytes at a key, little-endian. -/
def Mod.rd (m : Mod) (k n : Nat) : Nat := rdBytes m.mem k n

/-- Write whole bytes at a key; a whole 8-byte word written anew loses its error (R195). -/
def Mod.wr (m : Mod) (k n v : Nat) : Mod :=
  { m with mem := wrBytes m.mem k n v, bad := m.bad.filter (fun b => !(decide (k ≤ b * 8) && decide (b * 8 + 8 ≤ k + n)))
           ce := m.ce.filter (fun b => !(decide (k ≤ b * 8) && decide (b * 8 + 8 ≤ k + n))) }

/-- The byte enables of a mask, lowest first. -/
def maskBits : Nat → Nat → List Bool
  | 0, _ => []
  | n + 1, x => decide (x % 2 = 1) :: maskBits n (x / 2)

/-- Write the masked bytes of `n` at a key. -/
def Mod.wrMask (m : Mod) (k n mask v : Nat) : Mod := { m with mem := wrMasked m.mem k (maskBits n mask) v }

/-- Zero a span of `mem`, errors included. -/
def Mod.sweepMem (m : Mod) (lo hi : Nat) : Mod :=
  { m with mem := SMap.dropRange m.mem lo hi, bad := m.bad.filter (fun b => !(decide (lo ≤ b * 8) && decide (b * 8 < hi)))
           ce := m.ce.filter (fun b => !(decide (lo ≤ b * 8) && decide (b * 8 < hi))) }

/-- The bad bank words of a span, as the keys of their first bytes, ascending. -/
def Mod.badWords (m : Mod) (key n : Nat) : List Nat :=
  if n = 0 then []
  else ((List.range ((key + n - 1) / 8 - key / 8 + 1)).map (fun i => (key / 8 + i) * 8)).filter (fun a => m.bad.contains (a / 8))

/-- Read `n` bytes with the bytes of bad bank words as zero. -/
def Mod.rdClean (m : Mod) (key n : Nat) : Nat :=
  if m.wordsOk key n then m.rd key n
  else (List.range n).foldl (fun v i => v + (if m.bad.contains ((key + i) / 8) then 0 else m.rd (key + i) 1) * 256 ^ i) 0

/-- A mask of `n` bytes. -/
def byteMask (n : Nat) : Nat := 2 ^ n - 1

/-- A parcel of a core's program memory. -/
def Mod.parcel (m : Mod) (c a : Nat) : Parcel := SMap.get 0 m.pm (c * 65536 + a % 65536)

def Mod.setParcel (m : Mod) (c a : Nat) (v : Parcel) : Mod := { m with pm := SMap.put 0 m.pm (c * 65536 + a % 65536) v }

/-- A fresh open value. -/
def Mod.free (m : Mod) : Nat × Mod := (Config.freeNat m.fresh, { m with fresh := m.fresh + 1 })

/-! ### Pages -/

/-- The block that a page holds and its instance (R17, R18, R19); none for a page that holds no block. -/
def blockAt (die page : Nat) : Option (Block × Nat) :=
  if die < 4 then
    if page < 2048 then
      let slot := page / 8
      if decide (slot / 16 < 12) && decide (slot % 16 < 12) then
        match page % 8 with
        | 0 => some (.core, slot) | 1 => some (.thresh, slot) | 2 => some (.wain, slot) | 3 => some (.wain, slot)
        | 4 => some (.furrow, slot) | 5 => some (.chute, slot) | 6 => some (.sheaf, slot) | _ => some (.perf, slot)
      else none
    else if page < 2304 then
      let slot := page - 2048
      if decide (slot / 16 < 12) && decide (slot % 16 < 12) then some (.ringstop, slot) else none
    else match page with
      | 2304 => some (.dielink, 0) | 2305 => some (.dielink, 1) | 2306 => some (.dielink, 2) | 2307 => some (.dielink, 3)
      | 2308 => some (.cad, 0) | 2309 => some (.steward, 0)
      | 2310 => some (.sheaf, 0) | 2311 => some (.sheaf, 1) | 2312 => some (.sheaf, 2)
      | 2313 => some (.stook, 0) | 2314 => some (.watch, 0) | 2315 => some (.pwr, 0) | 2316 => some (.therm, 0)
      | 2317 => some (.sweep, 0) | 2318 => some (.digest, 0) | 2319 => some (.perf, 0) | _ => none
  else if die < 6 then
    if decide (2048 ≤ page) && decide (page < 2064) then some (.wain, page - 2048)
    else if decide (2064 ≤ page) && decide (page < 2068) then some (.memctl, page - 2064)
    else match page with
      | 2068 => some (.granary, 0) | 2069 => some (.place, 0) | 2070 => some (.sheaf, 0) | 2071 => some (.stook, 0)
      | 2072 => some (.cad, 0) | 2073 => some (.steward, 0) | 2074 => some (.watch, 0) | 2075 => some (.pwr, 0)
      | 2076 => some (.therm, 0) | 2077 => some (.sweep, 0) | 2078 => some (.digest, 0) | 2079 => some (.hostport, 0)
      | 2080 => some (.keeper, 0) | 2081 => some (.dielink, 0) | 2082 => some (.dielink, 1) | 2083 => some (.perf, 0)
      | _ => none
  else none

/-- Die-level page numbers that both kinds of die have: compute die, Barn. -/
def cadPage (die : Nat) : Nat := if die < 4 then 2308 else 2072
def stewardPage (die : Nat) : Nat := if die < 4 then 2309 else 2073
def stookPage (die : Nat) : Nat := if die < 4 then 2313 else 2071
def watchPage (die : Nat) : Nat := if die < 4 then 2314 else 2074
def pwrPage (die : Nat) : Nat := if die < 4 then 2315 else 2075
def thermPage (die : Nat) : Nat := if die < 4 then 2316 else 2076
def sweepPage (die : Nat) : Nat := if die < 4 then 2317 else 2077
def digestPage (die : Nat) : Nat := if die < 4 then 2318 else 2078
def diePerfPage (die : Nat) : Nat := if die < 4 then 2319 else 2083
def granaryPage : Nat := 2068
def placePage : Nat := 2069
def hostportPage : Nat := 2079
def keeperPage : Nat := 2080

/-- Page `k` (0-7) of a core, on its die. -/
def corePage (c k : Nat) : Nat := c % 256 * 8 + k

/-- The register table of a page, header included. -/
def pageFields (die page : Nat) : List Fld :=
  match blockAt die page with
  | none => []
  | some (b, _) =>
    let compute := decide (die < 4)
    let bw := decide (die = 4)
    headerFields ++ (match b with
      | .core => coreFields | .thresh => threshFields | .wain => wainFields | .furrow => furrowFields
      | .chute => chuteFields | .perf => perfFields | .ringstop => ringstopFields
      | .sheaf => if page < 2048 then sheafCoreFields else if compute then sheafDieFields (page - 2310) else sheafBarnFields
      | .dielink => dielinkFields (if compute && page != 2304 then 8 else 12)
      | .cad => cadFields bw | .steward => stewardFields compute | .stook => stookFields compute bw
      | .watch => watchFields compute bw | .pwr => pwrFields compute bw | .therm => thermFields compute
      | .sweep => sweepFields bw | .digest => digestFields | .memctl => memctlFields | .granary => granaryFields
      | .place => placeFields | .hostport => hostportFields | .keeper => keeperFields)

/-- A field row has a copy at a register's offset. -/
def Fld.at (f : Fld) (off : Nat) : Bool :=
  decide (f.off ≤ off) && decide ((off - f.off) % f.stride = 0) && decide ((off - f.off) / f.stride < f.count)

/-- The fields of one register. -/
def regFields (die page off : Nat) : List Fld := (pageFields die page).filter (fun f => f.at off)

/-- Bits of a register that its block populates: masks over slots read zero where a slot is not populated (R18). -/
def popMask (die page off : Nat) : Nat :=
  let rows := 0x0FFF0FFF0FFF0FFF
  match blockAt die page with
  | some (.stook, _) =>
    if decide (die < 4) && decide (0x100 ≤ off) && decide (off < 0x280) then (if off / 8 % 4 = 3 then 2 ^ 63 else rows)
    else 2 ^ 64 - 1
  | some (.steward, _) =>
    if decide (die < 4) && decide (0x300 ≤ off) && decide (off < 0x400) then (if off / 8 % 4 = 3 then 0 else rows)
    else 2 ^ 64 - 1
  | some (.chute, _) => if off % 0x20 = 0 ∧ 0x100 ≤ off ∧ off < 0x200 then 2 ^ 64 - 1 - 0xFF0000 else 2 ^ 64 - 1
  | _ => 2 ^ 64 - 1

/-- The value of a register after its owning reset. -/
def resetVal (die page off : Nat) : Word :=
  BitVec.ofNat 64 ((regFields die page off).foldl (fun v f => v + f.rst * 2 ^ f.lo) 0)

/-- Key of a register. -/
def regKey (die page off : Nat) : Nat := (die * 8192 + page) * 512 + off / 8

/-- The stored bits of a register. -/
def Mod.reg (m : Mod) (die page off : Nat) : Nat :=
  (SMap.get (resetVal die page off) m.regs (regKey die page off)).toNat

/-- Store a register's bits. -/
def Mod.setReg (m : Mod) (die page off v : Nat) : Mod :=
  { m with regs := SMap.put (resetVal die page off) m.regs (regKey die page off) (BitVec.ofNat 64 v) }

/-- A field of a register. -/
def Mod.fld (m : Mod) (die page off lo w : Nat) : Nat := bits (m.reg die page off) lo w

/-- Replace a field of a register. -/
def Mod.setFld (m : Mod) (die page off lo w v : Nat) : Mod := m.setReg die page off (setBits (m.reg die page off) lo w v)

/-- Set bits of a register. -/
def Mod.orReg (m : Mod) (die page off v : Nat) : Mod := m.setReg die page off (m.reg die page off ||| v)

/-- Add to a counter register, modulo 2^64. -/
def Mod.addReg (m : Mod) (die page off n : Nat) : Mod := m.setReg die page off (m.reg die page off + n)

/-- Add to a field that saturates at its greatest value. -/
def Mod.satFld (m : Mod) (die page off lo w n : Nat) : Mod := m.setFld die page off lo w (Nat.min (m.fld die page off lo w + n) (2 ^ w - 1))

/-- A read of `n` bytes at a key corrects the single-bit errors of the bank words it covers: each is written back and counted in
CORE_LOFT_CE of the Loft's core (R195, R210). -/
def Mod.scrub (m : Mod) (key n : Nat) : Mod :=
  let hit := m.ce.filter (fun b => decide (key / 8 ≤ b) && decide (b ≤ (key + n - 1) / 8))
  if hit.isEmpty || n == 0 then m
  else
    let c := (key - 2 ^ 42) / 2 ^ 22
    ({ m with ce := m.ce.filter (fun b => !(decide (key / 8 ≤ b) && decide (b ≤ (key + n - 1) / 8))) } : Mod).satFld
      (c / 256) (c % 256 * 8) 0x170 0 32 hit.length

/-- A whole write of `n` bytes reads, corrects and counts the bank words that it covers only in part (R195). -/
def Mod.scrubPart (m : Mod) (key n : Nat) : Mod :=
  let m1 := if key % 8 = 0 ∧ 8 ≤ n then m else m.scrub key 1
  if (key + n) % 8 = 0 then m1 else m1.scrub (key + n - 1) 1

/-- Write the masked bytes of one bank word: a whole word heals it, a partial write of a bad word writes nothing (R195). -/
def Mod.loftWord (m : Mod) (key mask data : Nat) : Mod × Option Nat :=
  if mask = 0 then (m, none)
  else if mask = 255 then (m.wr key 8 data, none)
  else if m.bad.contains (key / 8) then (m, some key)
  else ((m.scrub key 8).wrMask key 8 mask data, none)

/-- Masked write of `n` bytes to Loft, bank word by bank word, and the bad words it met. -/
def Mod.loftWrite (m : Mod) (key n mask data : Nat) : Mod × List Nat :=
  let sh := key % 8
  let mk := mask % 2 ^ n * 2 ^ sh
  let dt := data * 2 ^ (8 * sh)
  (List.range ((sh + n + 7) / 8)).foldl (fun r i =>
    let x := r.1.loftWord (key / 8 * 8 + 8 * i) (bits mk (8 * i) 8) (bits dt (64 * i) 64)
    (x.1, match x.2 with | some b => r.2 ++ [b] | none => r.2)) (m, [])

/-! ### Performance counters (R27, R28) -/

/-- The event codes that a PERF page accepts. -/
def perfEvent (die page ev : Nat) : Bool :=
  if page < 2048 then decide (ev < 0x1C) else if die < 4 then decide (0x40 ≤ ev ∧ ev ≤ 0x4C) else decide (0x80 ≤ ev ∧ ev ≤ 0x8A)

/-- Events that name an instance: a port or a stack. -/
def perfInst (ev : Nat) : Bool := decide (0x42 ≤ ev ∧ ev ≤ 0x45) || ev == 0x80 || ev == 0x81

/-- Whether counter `k` of a PERF page counts: the page and the counter are enabled, with an event code the page accepts. PERF_CTRL
and PERF_SEL reset to 0. -/
def Mod.perfCounts (m : Mod) (die page k : Nat) : Bool :=
  let ctl := (SMap.get 0 m.regs (regKey die page 0x100)).toNat
  let sel := (SMap.get 0 m.regs (regKey die page (0x140 + 8 * k))).toNat
  bits ctl 0 1 == 1 && bits sel 8 1 == 1 && bits (m.reg die page 0x010) 0 1 == 1 && perfEvent die page (bits sel 0 8)

/-- Counter `k` counts `n` events: it wraps from 2^48 - 1 to 0, which sets IRQ_STAT bit k where OVF_IRQ asks for it.
No PERF page raises an MSI-X vector (R394). -/
def Mod.perfAdd (m : Mod) (die page k n : Nat) : Mod :=
  let v := m.reg die page (0x180 + 8 * k) + n
  let m1 := m.setReg die page (0x180 + 8 * k) (v % 2 ^ 48)
  if 2 ^ 48 ≤ v ∧ m.fld die page (0x140 + 8 * k) 9 1 = 1 then m1.orReg die page 0x020 (2 ^ k) else m1

/-- `n` events of a code happen at an instance that a PERF page observes. -/
def Mod.perf (m : Mod) (die page ev inst n : Nat) : Mod :=
  if bits (SMap.get 0 m.regs (regKey die page 0x100)).toNat 0 1 = 0 ∨ n = 0 then m
  else (List.range 8).foldl (fun (x : Mod) k =>
    let sel := x.reg die page (0x140 + 8 * k)
    if x.perfCounts die page k && bits sel 0 8 == ev && (!perfInst ev || bits sel 12 4 == inst) then x.perfAdd die page k n else x) m

/-- Events of a core; a steward has no PERF page. -/
def Mod.coreEv (m : Mod) (c ev n : Nat) : Mod := if isStw c then m else m.perf (c / 256) (corePage c 7) ev 0 n

/-- Events of a die. -/
def Mod.dieEv (m : Mod) (die ev inst n : Nat) : Mod := m.perf die (diePerfPage die) ev inst n

/-- Activity of a core, or at 0x10000 + die of a die's links, that restarts the quiet time of R245. -/
def Mod.stir (m : Mod) (x : Nat) : Mod := if m.stirred.contains x then m else { m with stirred := m.stirred ++ [x] }

/-! ### Interrupts and errors -/

/-- A TLP leaves the host port: HOSTPORT_CNT_TX counts it (R402). -/
def Mod.tlp (m : Mod) (o : Out) : Mod := (({ m with out := m.out ++ [o] } : Mod).addReg 4 2079 0x148 1).dieEv 4 0x89 0 1

/-- MSI-X is enabled and the function not masked (message control, PCIe; log entry 20). -/
def Mod.msixOn (m : Mod) : Bool :=
  let c := (SMap.get 0 m.cfgSpace 0x2C).toNat
  bits c 31 1 == 1 && bits c 30 1 == 0

/-- Mask bit of a vector: as PCIe defines, 1 after reset. -/
def Mod.vectorMasked (m : Mod) (v : Nat) : Bool := bits (SMap.get 1 m.msixTab (3 * v + 2)).toNat 0 1 == 1

/-- Send a vector's message. -/
def Mod.sendVector (m : Mod) (v : Nat) : Mod :=
  m.tlp (Out.msix v (SMap.get 0 m.msixTab (3 * v)).toNat (SMap.get 0 m.msixTab (3 * v + 1)).toNat)

/-- Raise an MSI-X vector: masked, it sets its pending bit, into which further raisings merge (R394). The table holds
address, data and control of vector v at keys 3 v to 3 v + 2. -/
def Mod.raiseVector (m : Mod) (v : Nat) : Mod :=
  if m.vectorMasked v || !m.msixOn then { m with pba := m.pba ||| BitVec.ofNat 256 (2 ^ v) } else m.sendVector v

/-- IRQ_STAT AND IRQ_EN of a page. -/
def Mod.irqBits (m : Mod) (die page : Nat) : Nat := m.reg die page 0x020 &&& m.reg die page 0x028

/-- The MSI-X vector that a page raises (R394). -/
def pageVector (die page : Nat) : Option Nat :=
  if die = 4 ∧ page = 2079 then some 0 else if die = 4 ∧ page = 2080 then some 1
  else if die = 4 ∧ page = 2077 then some 2 else none

/-- Raise a page's vector when a bit of IRQ_STAT AND IRQ_EN has changed from 0 to 1 (R394). -/
def Mod.vectorEdge (m : Mod) (before die page : Nat) : Mod :=
  match pageVector die page with
  | none => m
  | some v => if m.irqBits die page &&& (2 ^ 64 - 1 - before) = 0 then m else m.raiseVector v

/-- Set a bit of IRQ_STAT (R19). -/
def Mod.irq (m : Mod) (die page bit : Nat) : Mod :=
  (m.orReg die page 0x020 (2 ^ bit)).vectorEdge (m.irqBits die page) die page

/-- The IRQ_STAT bit that a page's block sets with any of its ERR_STAT block bits (R331, R362, R385, R402). -/
def errIrq (die page : Nat) : Option Nat :=
  match blockAt die page with
  | some (.ringstop, _) => some 0 | some (.thresh, _) => some 1 | some (.granary, _) => some 0 | some (.cad, _) => some 6 | some (.hostport, _) => some 0
  | _ => none

/-- Record an error (R23): the bit of ERR_STAT, and ERR_INFO and ERR_ADDR for the first of them; the page's ERR
interrupt where its block has one. -/
def Mod.err (m : Mod) (die page bit q detail addr : Nat) : Mod :=
  let st := m.reg die page 0x038
  let m1 := if st % 4 = 0 ∧ st / 8 = 0 then
    ((m.setReg die page 0x038 (st ||| 2 ^ bit)).setReg die page 0x040 (bit * 2 ^ 48 + q % 65536 * 2 ^ 32 + detail % 2 ^ 32)).setReg
      die page 0x048 (addr % 2 ^ 44)
  else m.setReg die page 0x038 (st ||| 2 ^ bit ||| 4)
  match errIrq die page with
  | some b => if 8 ≤ bit then m1.irq die page b else m1
  | none => m1

/-- Record an error that no requester caused: ERR_INFO.REQ is then an open value. -/
def Mod.errOpen (m : Mod) (die page bit detail addr : Nat) : Mod :=
  let x := m.free
  x.2.err die page bit x.1 detail addr

/-- PAGE_CTRL.ENABLE of a page: while it is 0 the block accepts no work (R19). -/
def Mod.enabled (m : Mod) (die page : Nat) : Bool := bits (m.reg die page 0x010) 0 1 == 1

/-- IRQ_STAT AND IRQ_EN is not zero in a page. -/
def Mod.irqOn (m : Mod) (die page : Nat) : Bool := (m.reg die page 0x020 &&& m.reg die page 0x028) != 0

/-- MPA of a register (R17). -/
def regMpa (die page off : Nat) : Nat := 0x50000000000 + die * 0x2000000 + page * 0x1000 + off

/-! ### Numbers of Wains (R265) -/

/-- A core Wain is core * 2 + w; Barn Wain n of Barn b (0 BW, 1 BE) is 2048 + 16 * b + n. -/
def isWain (w : Nat) : Bool := if w < 2048 then isCore (w / 2) else decide (w < 2080)
def wainCore (w : Nat) : Option Nat := if w < 2048 then some (w / 2) else none
def wainDie (w : Nat) : Nat := if w < 2048 then w / 512 else 4 + (w - 2048) / 16
def wainPage (w : Nat) : Nat := if w < 2048 then corePage (w / 2) (2 + w % 2) else 2048 + (w - 2048) % 16
/-- A core Wain acts for its core, a Barn Wain for its Barn's steward (R265). -/
def wainReq (w : Nat) : Nat := if w < 2048 then w / 2 else 0xF00 + wainDie w
/-- Number among the Wains of one core or Barn. -/
def wainIdx (w : Nat) : Nat := if w < 2048 then w % 2 else (w - 2048) % 16

def Mod.wain (m : Mod) (w : Nat) : Wain := SMap.get {} m.wains w
def Mod.setWain (m : Mod) (w : Nat) (x : Wain) : Mod := { m with wains := SMap.put {} m.wains w x }
def Mod.wreg (m : Mod) (w off : Nat) : Nat := m.reg (wainDie w) (wainPage w) off
def Mod.wainState (m : Mod) (w : Nat) : Nat := bits (m.wreg w 0x110) 0 3
def Mod.setWainState (m : Mod) (w v : Nat) : Mod := m.setFld (wainDie w) (wainPage w) 0x110 0 3 v

/-- The program runs an instruction: RUN or a wait of it, and no end under way. -/
def Mod.wainBusy (m : Mod) (w : Nat) : Bool := decide (1 ≤ m.wainState w) && decide (m.wainState w ≤ 4)

/-- An error met by the instruction at offset `off` is kept until the next boundary (R283); one that a program meets after its end is
recorded at once (R23). -/
def Mod.wainNoteAt (m : Mod) (w off : Nat) (e : Option (Nat × Nat)) : Mod :=
  match e with
  | none => m
  | some x =>
    if m.wainBusy w && (m.wain w).ending.isNone then m.setWain w { m.wain w with err := (m.wain w).err ++ [(x.1, x.2, off)] }
    else (m.err (wainDie w) (wainPage w) x.1 (wainReq w) off x.2).irq (wainDie w) (wainPage w) 1

/-! ### What identifies a page, and what disables it -/

/-- What identifies a page in PAGE_ID: type and instance (R19). -/
def pageInst (die page : Nat) : Nat :=
  match blockAt die page with
  | some (.memctl, n) => n | some (.core, n) => n
  | some (.sheaf, n) => n | some (_, n) => n
  | none => 0

/-- An unused DIELINK port (R7, R8). -/
def unusedPort (die page : Nat) : Bool :=
  decide ((die = 0 ∧ page = 2306) ∨ (die = 1 ∧ page = 2307) ∨ (die = 2 ∧ page = 2307) ∨ (die = 3 ∧ page = 2306))

/-- The core is retired (R422). -/
def Mod.retired (m : Mod) (c : Nat) : Bool :=
  m.fld (c / 256) 2309 (0x300 + c % 256 / 64 * 8) (c % 64) 1 == 1

/-- PAGE_ID (R19, R25). -/
def idWord (die page : Nat) : Nat :=
  match blockAt die page with
  | none => 0
  | some (b, _) => b.code * 2 ^ 48 + pageInst die page * 2 ^ 40 + die * 2 ^ 32 + 0x0100 * 2 ^ 16 + page

/-- PAGE_STAT.DISABLED (R18, R422). -/
def Mod.pageDisabled (m : Mod) (die page : Nat) : Bool :=
  unusedPort die page || (die == 5 && (page == 2079 || page == 2080)) ||
    (decide (die < 4) && decide (page < 2048) && m.retired (die * 256 + page / 8))

/-! ### Writing a register under the common access rules (R20) -/

/-- Bits of a span as a mask. -/
def spanMask (lo w : Nat) : Nat := (2 ^ w - 1) * 2 ^ lo

/-- What a field stores for a value outside its range. -/
def Norm.apply (n : Norm) (v : Nat) : Nat :=
  match n with
  | .any => v
  | .range lo hi els => if lo ≤ v ∧ v ≤ hi then v else els
  | .clamp lo hi => if v < lo then lo else if hi < v then hi else v
  | .signed9 => if v ≤ 127 ∨ 386 ≤ v then v else 0

/-- One field of a write: `we` marks the bits addressed, `wv` holds their new values. The second result tells a locked
RWL field that the write would change. -/
def Fld.write (f : Fld) (locked : Bool) (old we wv : Nat) : Nat × Bool :=
  let cur := bits old f.lo f.width
  let e := bits we f.lo f.width
  let v := bits wv f.lo f.width
  let merged := (cur &&& (2 ^ f.width - 1 - e)) ||| (v &&& e)
  match f.acc with
  | .rw => if e = 0 then (cur, false) else (f.norm.apply merged, false)
  | .rwl => if locked then (cur, merged != cur) else (f.norm.apply merged, false)
  | .w1c => (cur &&& (2 ^ f.width - 1 - (v &&& e)), false)
  | .w1s => (cur ||| (v &&& e), false)
  | .ro => (cur, false)
  | .rc => (cur, false)
  | .wo => (0, false)
  | .w1z => (0, false)

/-- The value a register takes from a write, and whether a locked field was to change. -/
def writeFields (fs : List Fld) (locked : Bool) (old we wv : Nat) : Nat × Bool :=
  fs.foldl (fun r f => let x := f.write locked old we wv; (setBits r.1 f.lo f.width x.1, r.2 || x.2)) (old, false)

/-- Mask of the C fields of a register. -/
def cMask (fs : List Fld) : Nat := fs.foldl (fun v f => if f.cls = .c then v ||| spanMask f.lo f.width else v) 0

/-- PAGE_CTRL.LOCK is set. -/
def Mod.locked (m : Mod) (die page : Nat) : Bool := bits (m.reg die page 0x010) 2 1 == 1

/-! ### Checksums (R29) -/

/-- One bit of CRC-64 ECMA-182. -/
def crcBit (crc b : Nat) : Nat :=
  let x := crc * 2 % 2 ^ 64
  if (crc / 2 ^ 63 + b) % 2 = 1 then x ^^^ 0x42F0E1EBA9EA3693 else x

/-- CRC-64 over a byte, most significant bit first. -/
def crcByte (crc b : Nat) : Nat :=
  [7, 6, 5, 4, 3, 2, 1, 0].foldl (fun c i => crcBit c (b / 2 ^ i % 2)) crc

/-- CRC-64 over a list of bytes. -/
def crc64 (l : List Nat) : Nat := l.foldl crcByte 0

/-- The bytes of a number, least significant first. -/
def leBytes : Nat → Nat → List Nat
  | 0, _ => []
  | n + 1, v => v % 256 :: leBytes n (v / 256)

/-- CFG_SUM of a page (R29, R30): the CRC-64 of its C fields over its 512 registers. -/
def Mod.cfgSum (m : Mod) (die page : Nat) : Nat :=
  let fs := (pageFields die page).filter (fun f => f.cls = .c)
  crc64 ((List.range 512).flatMap (fun i =>
    leBytes 8 (m.reg die page (8 * i) &&& cMask (fs.filter (fun f => f.at (8 * i))))))

/-! ### The digest walk (R33, R34) -/

/-- The record and flags of one page of a walk: bytes, its epoch is ahead, it is dirty. The walk reads the live registers of a frozen page,
not its snapshot, on which the spec is silent (DESIGN CHOICE, log entry 114). -/
def Mod.digestPageRec (m : Mod) (die page e : Nat) : List Nat × Bool × Bool :=
  let sum := if m.pageDisabled die page then 2 ^ 64 - 1 else m.cfgSum die page
  (leBytes 8 (idWord die page) ++ leBytes 8 sum, decide (e < m.reg die page 0x058), m.fld die page 0x018 5 1 == 1)

/-- The pages of a die that hold blocks, ascending. -/
def diePages (die : Nat) : List Nat := (List.range 8192).filter (fun p => (blockAt die p).isSome)

/-- The walk in progress on a die, and a new one. -/
def Mod.walkOn (m : Mod) (die : Nat) : DigestWalk := SMap.get {} m.digests die
def Mod.setWalk (m : Mod) (die : Nat) (w : DigestWalk) : Mod := { m with digests := SMap.put {} m.digests die w }

/-- A walk visits the pages `l` in order: their records, the flags AHEAD and DIRTY_SEEN, and PAGES. -/
def Mod.digestVisit (m : Mod) (die : Nat) (l : List Nat) : Mod :=
  let w := m.walkOn die
  let recs := l.map (fun p => m.digestPageRec die p w.epoch)
  let w1 := { w with next := (match l.getLast? with | some p => p + 1 | none => w.next), bytes := w.bytes ++ recs.flatMap (fun r => r.1)
                     pages := w.pages + recs.length, ahead := w.ahead || recs.any (fun r => r.2.1), dirty := w.dirty || recs.any (fun r => r.2.2) }
  (((m.setWalk die w1).setFld die (digestPage die) 0x108 3 1 (b2n w1.ahead)).setFld die (digestPage die) 0x108 4 1 (b2n w1.dirty)).setFld
    die (digestPage die) 0x108 16 14 w1.pages

/-- DIGEST_STAT.BUSY. -/
def Mod.walkBusy (m : Mod) (die : Nat) : Bool := m.fld die (digestPage die) 0x108 0 1 == 1

/-- A walk in progress has gone on by an open number of pages (R34, log entry 18). -/
def Mod.digestStep (m : Mod) (die : Nat) : Mod :=
  if !m.walkBusy die then m
  else
    let todo := (diePages die).filter (fun p => decide ((m.walkOn die).next ≤ p))
    let x := m.free
    x.2.digestVisit die (todo.take (x.1 % (todo.length + 1)))

/-- The CFG_SUM of a page has changed: a walk in progress that has visited the page is disturbed (R34). -/
def Mod.disturb (m : Mod) (die page : Nat) : Mod :=
  if m.walkBusy die && decide (page < (m.walkOn die).next) then
    (m.setWalk die { m.walkOn die with disturbed := true }).setFld die (digestPage die) 0x108 2 1 1
  else m

/-- A write to a register by requester `q` under the common rules: stored bits, LOCK_VIOL and CFG_DIRTY. -/
def Mod.commonWrite (m : Mod) (q die page off we wv : Nat) : Mod :=
  let fs := regFields die page off
  let old := m.reg die page off
  let r := writeFields fs (m.locked die page) old we wv
  let new := r.1 &&& popMask die page off
  let m2 := if (old &&& cMask fs) != (new &&& cMask fs) then
      (((m.digestStep die).setReg die page off new).orReg die page 0x018 0x20).disturb die page
    else m.setReg die page off new
  if r.2 then m2.err die page 1 q 0 (regMpa die page off) else m2

end Sys2Proof.Machine
end

