-- ==== Sys2Proof/Machine/Net.lean ====
section
/-! DEFINITION. Far traffic: the decode of a module physical address (R13, R14), placement (R15, R351), routes and cut routes (R9, R10), the
way of a packet through rings, lane links and die links (R317 to R324, R346), requests in flight and their order, flit errors (R330), the accesses
of the host (R389, R391), and the admission of Loft window accesses (R329). -/

namespace Sys2Proof.Machine

/-- Where an MPA leads (R13). -/
inductive Target where
  | hbm (l : Nat)
  | loft (c off : Nat)
  | reg (die page off : Nat)
  | host (off : Nat)
  | none
  deriving DecidableEq, Repr

/-- Decode of R13; Loft slots and dies that R13 does not populate lead nowhere. -/
def decodeMpa (a : Nat) : Target :=
  if a < 0x8000000000 then .hbm a
  else if 0x40000000000 ≤ a ∧ a < 0x40100000000 then
    let c := (a - 0x40000000000) / 0x400000
    if isCore c then .loft c (a % 0x400000) else .none
  else if 0x50000000000 ≤ a ∧ a < 0x5000C000000 then
    let r := a - 0x50000000000
    .reg (r / 0x2000000) (r % 0x2000000 / 0x1000) (r % 0x1000)
  else if 0x60000000000 ≤ a ∧ a < 0x70000000000 then .host (a - 0x60000000000)
  else .none

/-- The Barn whose table a requester's die steers by (R15): 4 or 5. -/
def tableOf (die : Nat) : Nat := if die < 4 then 4 + die % 2 else die

/-- SPREAD of a placement entry in a Barn's table (R353). -/
def Mod.spread (m : Mod) (barn g : Nat) : Bool := m.fld barn placePage (0x200 + g / 8 * 8) (g % 8 * 8) 1 == 1

/-- The home Barn (0 BW, 1 BE) that a Barn's table gives an HBM MPA (R351). -/
def Mod.homeBarn (m : Mod) (barn a : Nat) : Nat :=
  if m.spread barn (a / 2 ^ 30 % 512) then popc 27 (a / 2 ^ 12) % 2 else a / 2 ^ 38 % 2

/-- The die that holds the home of an MPA, steered from die `die`. -/
def Mod.homeDie (m : Mod) (die a : Nat) : Nat :=
  match decodeMpa a with
  | .hbm _ => 4 + m.homeBarn (tableOf die) a
  | .loft c _ => c / 256
  | .reg d _ _ => d
  | .host _ => 4
  | .none => die

/-- The fixed route of R9 as the dies it passes. -/
def route (a b mpa : Nat) : List Nat :=
  if a = b then [a]
  else match a, b with
    | 0, 3 => [0, 1, 3] | 1, 2 => [1, 0, 2] | 2, 1 => [2, 3, 1] | 3, 0 => [3, 2, 0]
    | 0, 5 => [0, 1, 5] | 1, 4 => [1, 0, 4] | 2, 5 => [2, 3, 5] | 3, 4 => [3, 2, 4]
    | 4, 1 => [4, 0, 1] | 4, 3 => [4, 2, 3] | 5, 0 => [5, 1, 0] | 5, 2 => [5, 3, 2]
    | 4, 5 => if mpa / 4096 % 2 = 0 then [4, 0, 1, 5] else [4, 2, 3, 5]
    | 5, 4 => if mpa / 4096 % 2 = 0 then [5, 1, 0, 4] else [5, 3, 2, 4]
    | _, _ => [a, b]

/-- The DIELINK page at die `a` of the link toward die `b` (R7, R17). -/
def linkPage (a b : Nat) : Nat :=
  match a, b with
  | 0, 4 => 2304 | 1, 5 => 2304 | 2, 4 => 2304 | 3, 5 => 2304
  | 0, 1 => 2305 | 1, 0 => 2305 | 2, 3 => 2305 | 3, 2 => 2305
  | 1, 3 => 2306 | 2, 0 => 2306
  | 0, 2 => 2307 | 3, 1 => 2307
  | 4, 0 => 2081 | 4, 2 => 2082 | 5, 1 => 2081 | 5, 3 => 2082
  | _, _ => 0

/-- DIELINK PAGE_STAT.STATE (R348): 3 DATA, 4 LP. -/
def Mod.linkState (m : Mod) (die page : Nat) : Nat := m.fld die page 0x018 8 3

/-- An end is in data mode for R10 (R347). -/
def Mod.linkEndUp (m : Mod) (a b : Nat) : Bool :=
  let s := m.linkState a (linkPage a b)
  s == 3 || s == 4

/-- Some link of a route is not in data mode. -/
def Mod.linksCut (m : Mod) : List Nat → Bool
  | a :: b :: t => !(m.linkEndUp a b && m.linkEndUp b a) || Mod.linksCut m (b :: t)
  | _ => false

/-- R10: a die on the route is in DR, or a link on it is not in data mode. -/
def Mod.routeCut (m : Mod) (a b mpa : Nat) : Bool :=
  let r := route a b mpa
  decide (a ≠ b ∨ m.dr.contains a) && (r.any (fun d => m.dr.contains d) || m.linksCut r)

/-- Partition of a core (R407): four bits a slot in STEWARD_PMAP. -/
def Mod.partition (m : Mod) (c : Nat) : Nat :=
  m.fld (c / 256) 2309 (0x200 + c % 256 / 16 * 8) (c % 16 * 4) 4

/-- The core is parked: bit of STEWARD_PARKED (R417). -/
def Mod.parked (m : Mod) (c : Nat) : Bool :=
  isCore c && m.fld (c / 256) 2309 (0x340 + c % 256 / 64 * 8) (c % 64) 1 == 1

/-- A page's memories are being swept (R19, R415). -/
def Mod.sweeping (m : Mod) (die page : Nat) : Bool := m.fld die page 0x018 4 1 == 1

/-- The core's Loft is being swept: it is under CR or PR, or its die in DR. -/
def Mod.coreSweep (m : Mod) (c : Nat) : Bool := isCore c && m.sweeping (c / 256) (corePage c 0)

/-- Record the access error of an MPA outside the populated ranges (R14, last item); HOSTPORT records those of the host. -/
def Mod.errUnpopulated (m : Mod) (q die a : Nat) : Mod := if q = hostCode then m else m.err die (stewardPage die) 0 q 0 a

def isRegSpace (mpa : Nat) : Bool := decide (0x50000000000 ≤ mpa) && decide (mpa < 0x60000000000)

/-! ### Ways through the module (R317 to R321, R333, R346) -/

/-- Where a packet starts or ends: a ring stop of a compute die, by die and slot, or a die's units outside its rings. -/
inductive Site where
  | stop (die slot : Nat)
  | unit (die : Nat)
  deriving DecidableEq, Repr

def Site.die : Site → Nat
  | .stop d _ => d
  | .unit d => d

/-- The slot number that R320 sums for a packet that carries no MPA; the units of a die count as slot 0 (log entry 99). -/
def Site.slot : Site → Nat
  | .stop _ s => s
  | .unit _ => 0

/-- The slot that a register page belongs to: that of its core or ring stop. -/
def pageSite (die page : Nat) : Site :=
  if die < 4 ∧ page < 2048 then .stop die (page / 8) else if die < 4 ∧ page < 2304 then .stop die (page - 2048) else .unit die

/-- Where the home of an MPA sits, given the home's die. -/
def homeSite (die mpa : Nat) : Site :=
  match decodeMpa mpa with
  | .loft c _ => .stop (c / 256) (c % 256)
  | .reg d p _ => pageSite d p
  | _ => .unit die

/-- The stop of a core; stewards, Barns, Barn Wains, translation walkers and the host have none. -/
def reqSite (q die : Nat) : Site := if isCore q then .stop (q / 256) (q % 256) else .unit die

/-- The stop where BUNDLE_k of a compute die's port attaches (R333): ports 0 W, 1 E, 2 N, 3 S. -/
def bundleStop (port k : Nat) : Nat :=
  match port with
  | 0 => 16 * k
  | 1 => 16 * (2 + k) + 11
  | 2 => 2 + k
  | _ => 16 * 11 + 2 + k

/-- The bundle that R321 gives a core at (r, c) on a port. -/
def coreBundle (port r c : Nat) : Nat :=
  let near := fun (x : Nat) => (if x < 2 then x + 2 else if 9 < x then x - 2 else x) - 2
  match port with
  | 0 => r
  | 1 => near r
  | _ => near c

/-- The attachment index of traffic that only passes through a die (R321): MPA[9:7], and 0 without an MPA. -/
def transitIndex (mpa : Option Nat) : Nat := match mpa with | some a => bits a 7 3 | none => 0

/-- The bundle of a port that serves attachment index `k`: on port W, row 2 + k. -/
def indexBundle (port k : Nat) : Nat := if port = 0 then 2 + k else k

/-- The active bundle of a mask that takes the traffic of bundle `k` (R346): the nearest, the lower number on a tie. -/
def nearestBundle (mask k : Nat) : Nat :=
  ((List.range 12).filter (fun j => bits mask j 1 == 1)).foldl (fun b j =>
    let d := fun (x : Nat) => if x ≤ k then k - x else x - k
    if b = 12 ∨ d j < d b then j else b) 12

/-- A bundle's number at the other end of a link between two dies: port E reverses (R333). -/
def farBundle (a b k : Nat) : Nat := if (a < 2 ∧ b < 2) ∨ (2 ≤ a ∧ a < 4 ∧ 2 ≤ b ∧ b < 4) then 7 - k else k

/-- The port of die `a` toward die `b`; a Barn numbers bundles as port W of the compute die. -/
def portOf (a b : Nat) : Nat := if 4 ≤ a then 0 else linkPage a b - 2304

/-- The leg of a packet from a stop to a stop, on the line by which it enters: its row, or its column when it came in by port N
or S. It turns where that line meets the line of its destination (R320). -/
def legOf (die entry goal : Nat) (column : Bool) : Leg :=
  let turn := if column then (if entry % 16 = goal % 16 then none else some (goal / 16 * 16 + entry % 16))
    else if entry / 16 = goal / 16 then none else some (entry / 16 * 16 + goal % 16)
  { die := die, entry := entry, turn := turn, exit := goal }

/-- The ways of the dies `a :: rest` of a route from `at_`, where the packet stands at a stop or a unit of die `a` having come by a
port N or S or not: its legs and crossings. The bundle of the first crossing is its source core's (R321), or that of the destination
core's row from a Barn (R346); later ones are by the transit index, and the adopted masks replace those that are not active. -/
def Mod.ways (m : Mod) (mpa : Option Nat) (goal : Site) : Bool → Option Nat → Bool → List Nat → List Leg × List Xing
  | first, entry, column, a :: b :: rest =>
    let page := linkPage a b
    let port := portOf a b
    let want :=
      if first then
        (match entry with
          | some s => if a < 4 then coreBundle port (s / 16) (s % 16) else indexBundle 0 (transitIndex mpa)
          | none =>
            (match rest, goal with
              | [], .stop _ g => if 4 ≤ a then g / 16 else indexBundle port (transitIndex mpa)
              | _, _ => indexBundle port (transitIndex mpa)))
      else indexBundle port (transitIndex mpa)
    let k := nearestBundle (m.fld a page 0x108 0 12) want
    let out := bundleStop port k
    let leg := if 4 ≤ a then [] else match entry with
      | some s => [legOf a s out column]
      | none => [{ die := a, entry := out, turn := none, exit := out }]
    let k2 := farBundle a b k
    let next := if 4 ≤ b then none else some (bundleStop (portOf b a) k2)
    let r := Mod.ways m mpa goal false next (decide (b < 4) && decide (2 ≤ portOf b a)) (b :: rest)
    (leg ++ r.1, { die := a, page := page, k := k } :: r.2)
  | _, entry, column, [a] =>
    (if 4 ≤ a then [] else match entry, goal with
      | some s, .stop _ g => [legOf a s g column]
      | some s, .unit _ => [{ die := a, entry := s, turn := none, exit := s }]
      | none, .stop _ g => [{ die := a, entry := g, turn := none, exit := g }]
      | none, .unit _ => [], [])
  | _, _, _, [] => ([], [])

/-- Two cores of a die are neighbours (R318). -/
def neighbours (a b : Nat) : Bool :=
  isCore a && isCore b && a / 256 == b / 256 &&
    ((a / 16 == b / 16 && (a % 16 + 1 == b % 16 || b % 16 + 1 == a % 16)) || (a % 16 == b % 16 && (a + 16 == b || b + 16 == a)))

/-- The way of a packet (R320, R321): over the lane link when it is a window access to a neighbour, over no link of the dies when it
goes by the sideband, else over the rings and the dies of R9. -/
def Mod.way (m : Mod) (vc : Vc) (src goal : Site) (mpa : Option Nat) (lane : Bool) (sideband : Bool) : Path :=
  let base : Path := { born := m.nextId, vc := vc
                       lane := (match mpa with | some a => (bits a 8 1 + bits a 10 1) % 2 | none => (src.slot + goal.slot) % 2) }
  if lane then { base with link := true, route := [src.die] }
  else if sideband then base
  else
    let entry := match src with | .stop _ s => some s | .unit _ => none
    let dies := Sys2Proof.Machine.route src.die goal.die (mpa.getD 0)
    let w := m.ways mpa goal true entry false dies
    { base with route := dies, legs := w.1, xings := w.2, todo := w.2 }

/-- The packet has made every crossing: a request is at its home, a response at its requester. -/
def Path.arrived (p : Path) : Bool := p.todo.isEmpty

/-- The other end of a crossing, as a crossing back. -/
def Xing.back (x : Xing) : Xing :=
  let b := (List.range 6).foldl (fun d y => if linkPage x.die y = x.page ∧ y ≠ x.die then y else d) 6
  { die := b, page := linkPage b x.die, k := farBundle x.die b x.k }

/-- The response retraces the path of its request in reverse (R320, R346). -/
def Path.retrace (p : Path) : Path := { p with vc := if p.vc = .msg then .msg else .rsp, flit := .clean, todo := (p.xings.map Xing.back).reverse }

/-- Two packets that the network delivers in the order of their injection (R324): the same virtual channel, source, way and lane. -/
def Path.ordered (p r : Path) : Bool :=
  decide (p.vc = r.vc) && p.lane == r.lane && p.link == r.link && decide (p.legs = r.legs) && decide (p.xings = r.xings) &&
    (p.link || !p.legs.isEmpty)

/-- Partition tag of a requester's packets (R329): 16 stands for SYS. -/
def Mod.tagOf (m : Mod) (q : Nat) : Nat := if isCore q then m.partition q else 16

/-- A register access that travels over the die sideband (R11): those of stewards and the host. R11 names no Barn Wain; the model lets
a Barn Wain's accesses to register space travel with its steward's (log entry 100). -/
def bySideband (q mpa : Nat) : Bool := decide (0xF00 ≤ q) && isRegSpace mpa

/-- A window packet is sent on a lane link of core `c`: RINGSTOP_CNT_LANE counts it (R331). -/
def Mod.laneCount (m : Mod) (c : Nat) : Mod := m.addReg (c / 256) (2048 + c % 256) 0x150 1

/-- Where a request starts: walks start at their die's walker. -/
def Use.site (u : Use) (q die : Nat) : Site :=
  match u with
  | .fetch key => if 0x30000 ≤ key then .unit die else reqSite q die
  | _ => reqSite q die

/-- Put a request into flight. One that no populated MPA takes is answered at once (R14), and one whose route is cut
completes with poison (R10); register accesses of stewards and the host travel over the die sideband (R11). Its home is the one
that the placement tables give now (R15, R16). -/
def Mod.post (m : Mod) (use : Use) (q die mpa len : Nat) (op : Op) : Mod :=
  let unpop := decide (decodeMpa mpa = .none)
  let home := m.homeDie die mpa
  let resp := if unpop then some Resp.err else if !bySideband q mpa && m.routeCut die home mpa then some Resp.poison else none
  let m1 := if unpop then m.errUnpopulated q die mpa else m
  let lane := match decodeMpa mpa with | .loft c _ => neighbours q c | _ => false
  let path := if resp.isSome then { born := m.nextId } else
    m.way (if bySideband q mpa then .prio else .req) (use.site q die) (homeSite home mpa) (some mpa) lane (bySideband q mpa)
  { (if path.link then m1.laneCount q else m1) with
    net := m1.net ++ [{ id := m1.nextId, use := use, q := q, die := die, mpa := mpa, len := len, op := op,
                        sent := false, resp := resp, home := home
                        owned := (match decodeMpa mpa with | .hbm _ => m.homeBarn home mpa == home - 4 | _ => true)
                        tag := m.tagOf q, path := path }]
    nextId := m1.nextId + 1 }

/-- A request by its number. -/
def Mod.findReq (m : Mod) (id : Nat) : Option Req := m.net.find? (fun r => r.id == id)

/-- A request whose issuer has been reset. -/
def Use.isGone : Use → Bool
  | .gone _ _ => true
  | _ => false

/-- A request's response has reached its requester; one that met an uncorrectable flit error is delivered as poisoned (R330). -/
def Req.answer (r : Req) : Option Resp :=
  if r.path.arrived then (if r.path.flit = .uncorrectable then r.resp.map (fun _ => .poison) else r.resp) else none

/-- A stop ejects a packet whose flits met an error (R319, R330, R331): it counts one that it corrected, and records one that it could
not, with the packet's MPA. -/
def Mod.flitSeen (m : Mod) (f : FlitErr) (stop : Option (Nat × Nat)) (q mpa : Nat) : Mod :=
  match f, stop with
  | .corrected, some (d, s) => m.satFld d (2048 + s) 0x190 0 32 1
  | .uncorrectable, some (d, s) => m.err d (2048 + s) 10 q 0 mpa
  | _, _ => m

/-- The stop that ejects a request, and the one that ejects its response. -/
def Path.lastStop (p : Path) : Option (Nat × Nat) := p.legs.getLast?.map (fun l => (l.die, l.exit))
def Path.firstStop (p : Path) : Option (Nat × Nat) := p.legs.head?.map (fun l => (l.die, l.entry))

/-- Take a request out of flight: its response has been ejected at its requester's stop. -/
def Mod.retireReq (m : Mod) (id : Nat) : Mod :=
  let m1 : Mod := { m with net := m.net.filter (fun r => r.id != id) }
  match m.findReq id with
  | some r => m1.flitSeen r.path.flit r.path.firstStop r.q r.mpa
  | none => m1

/-! ### Accesses of the host (R389, R391) -/

/-- The granules of host access `n`, ascending. -/
def Mod.hostParts (m : Mod) (n : Nat) : List Req := m.net.filter (fun r => decide (r.use = .host n))

/-- The bytes that the answers to a read carry; poisoned and refused granules give zeros. -/
def joinData : List Req → Nat
  | [] => 0
  | r :: t => (match r.answer with | some (.data v) => v % 2 ^ (8 * r.len) | _ => 0) + joinData t * 2 ^ (8 * r.len)

/-- A host access of which every granule has been answered ends: HOSTPORT records each access error, those of register pages when they were decided (R14, R389), and a read is completed,
with zero data where a granule was refused, and poisoned where one was poisoned. -/
def Mod.hostEnds (m : Mod) (h : HostAcc) : Mod :=
  let l := m.hostParts h.id
  if l.any (fun r => r.answer.isNone) then m
  else
    let m1 : Mod := l.foldl (fun x r => x.retireReq r.id) { m with hostQ := m.hostQ.filter (fun y => y.id != h.id) }
    let m2 := l.foldl (fun x r => if r.answer = some .err && !isRegSpace r.mpa then x.err 4 hostportPage 8 r.q 0 r.mpa else x) m1
    let err := l.any (fun r => r.answer == some .err)
    let poison := l.any (fun r => r.answer == some .poison)
    if h.write || m2.fld 4 hostportPage 0x100 0 1 == 0 then m2
    else m2.tlp (.completion h.tag h.len (if err || poison then 0 else joinData l) (poison && !err))

/-- Host accesses that have come to their end. -/
def Mod.hostSettle (m : Mod) : Mod := m.hostQ.foldl (fun x h => x.hostEnds h) m

/-- Answer a request: the response sets out on the way back, and that of one whose issuer has been reset is discarded. -/
def Mod.respond (m : Mod) (id : Nat) (x : Resp) : Mod :=
  let net := m.net.map (fun (r : Req) =>
    if r.id = id ∧ r.resp.isNone then { r with resp := some x, sent := true, path := r.path.retrace } else r)
  let m1 := match m.net.find? (fun r => r.id == id && r.resp.isNone && r.path.link) with
    | some r => (match decodeMpa r.mpa with | .loft c _ => m.laneCount c | _ => m)
    | none => m
  ({ m1 with net := net.filter (fun r => !(r.use.isGone && r.resp.isSome)) } : Mod).hostSettle

/-- A request has reached its home and is still to be performed. -/
def Req.waiting (r : Req) : Bool := r.resp.isNone && r.path.arrived

/-- A request reaches its home with an uncorrectable flit error: it is poisoned. None where it reached its home whole, with the
correction counted. -/
def Mod.ejected (m : Mod) (r : Req) : Mod × Bool :=
  let m1 := m.flitSeen r.path.flit r.path.lastStop r.q r.mpa
  if r.path.flit = .uncorrectable then (m1.respond r.id .poison, true) else (m1, false)

/-- A way that a die in DR or a link out of data mode cuts (R10, R345). -/
def Mod.pathCut (m : Mod) (p : Path) : Bool := p.route.any (fun d => m.dr.contains d) || m.linksCut p.route

/-- Transfers in flight whose way is now cut complete with poison (R10, R345): requests that have not returned, increments, and chute
requests (R262). -/
def Mod.cutFlights (m : Mod) : Mod :=
  ({ m with
    net := m.net.map (fun (r : Req) =>
      if m.pathCut r.path && r.answer.isNone then { r with resp := some .poison, path := { r.path with todo := [] } } else r)
    incs := m.incs.map (fun (x : Inc) => if m.pathCut x.path then { x with cut := true, path := { x.path with todo := [] } } else x)
    chuteReqs := m.chuteReqs.map (fun (x : ChuteReq) =>
      if m.pathCut x.path && !(x.resp.isSome && x.path.arrived) then { x with resp := some 3, path := { x.path with todo := [] } } else x) } : Mod).hostSettle

/-- The far read that an agent's command has made. -/
def Mod.fetched (m : Mod) (key mpa len : Nat) : Option Req :=
  m.net.find? (fun r => decide (r.use = .fetch key) && r.mpa == mpa && r.len == len)

/-- An agent no longer waits for the far reads that it has made; those under way end unseen. -/
def Mod.dropFetched (m : Mod) (key : Nat) : Mod :=
  { m with net := (m.net.filter (fun r => !(decide (r.use = .fetch key) && r.resp.isSome))).map (fun (r : Req) =>
      if r.use = .fetch key then { r with use := .gone key false } else r) }

/-- Before a command reads the accesses `l`, each of them is made as a request of its own, in that order, and register-space accesses
one after the other (R226): the module with the requests, while an answer is missing; none once every answer is there. -/
def Mod.awaitFar (m : Mod) (key q die : Nat) (l : List (Nat × Nat)) : Option Mod :=
  if l.all (fun p => (m.fetched key p.1 p.2).any (fun r => r.answer.isSome)) then none
  else some (l.foldl (fun (x : Mod) p =>
    match x.fetched key p.1 p.2 with
    | some _ => x
    | none =>
      if isRegSpace p.1 && x.net.any (fun r => decide (r.use = .fetch key) && isRegSpace r.mpa && r.answer.isNone) then x
      else x.post (.fetch key) q die p.1 p.2 .read) m)

/-- The answer to a far read that the command of an agent has awaited. -/
def Mod.farAnswer (m : Mod) (key mpa len : Nat) : Resp :=
  match m.fetched key mpa len with
  | some r => (match r.answer with | some x => x | none => .err)
  | none => .err

/-- Whether a request changes memory. -/
def Op.writes : Op → Bool
  | .read => false
  | _ => true

/-- Two writes of different host TLPs, which are performed in arrival order (R391). -/
def Req.hostOrder (x r : Req) : Bool :=
  match x.use, r.use with
  | .host a, .host b => a != b && x.op.writes && r.op.writes
  | _, _ => false

/-- An earlier request that must be performed first: one of the same agent to the same granule (R214), an earlier write of the host (R391), or,
at a ring stop, one that the network delivers before it (R324); to a Barn such a one to the same granule. -/
def Mod.mustFollow (m : Mod) (r : Req) : Bool :=
  m.net.any (fun x => decide (x.id < r.id) && x.resp.isNone &&
    ((x.q == r.q && x.mpa / 64 == r.mpa / 64) || x.hostOrder r ||
      (x.path.ordered r.path && (x.mpa / 64 == r.mpa / 64 || (match decodeMpa r.mpa with | .loft _ _ => true | .reg _ _ _ => true | _ => false)))))

/-- A write to the host window that the host port has sent (R218, R393). -/
def Req.hostDone (r : Req) : Bool := r.sent && decide (0x60000000000 ≤ r.mpa) && (r.resp == some Resp.ok || r.resp.isNone)

/-- The agent has a write whose acknowledgement it has not taken (R218): its stores and tile stores, those to register space still to be
issued, and the accumulating writes of its own Wains (R223). Host-window writes count as done once the host port has sent them. -/
def Mod.writesOut (m : Mod) (c : Nat) : Bool :=
  m.net.any (fun r => (match r.use with
    | .store c' _ => c' == c
    | .tst c' _ _ => c' == c
    | .wain w _ _ => decide (w / 2 = c ∧ w < 2048) && (match r.op with | .accFast _ _ _ => true | .accExact _ _ _ => true | _ => false)
    | _ => false) && !r.hostDone) || !(m.core c).regQ.isEmpty

/-- Admission of a Loft window access at the destination's ring stop (R329): none when admitted, else the ERR_STAT bit
of the RINGSTOP page: 8 PART_DENIED, 9 RETIRED. The tag is the one the packet carries. -/
def Mod.windowDenied (m : Mod) (tag die c : Nat) : Option Nat :=
  if m.retired c then some 9
  else if tag = 16 then none
  else if die = c / 256 then
    if tag = m.partition c then none
    else if m.fld die (2048 + c % 256) 0x100 tag 1 = 1 then none else some 8
  else if m.fld (c / 256) (2048 + c % 256) 0x100 16 1 = 1 then none else some 8

/-- Perform an access to a core's Loft that arrives through its window (R195, R329); a masked write goes word by word, and LOFT_UE
names the first failing word. -/
def Mod.windowAccess (m : Mod) (r : Req) (c off : Nat) : Mod :=
  match m.windowDenied r.tag r.die c with
  | some b => (if r.q = hostCode then m else m.err (c / 256) (2048 + c % 256) b r.q 0 r.mpa).respond r.id .err
  | none =>
    let k := loftKey c + off
    let ue := fun (x : Mod) (b : Nat) =>
      (x.err (c / 256) (corePage c 0) 10 r.q 0 (r.mpa / 8 * 8 + b - k / 8 * 8)).respond r.id .poison
    match r.op with
    | .read => (match m.badWords k r.len with | b :: _ => ue (m.scrub k r.len) b | [] => (m.scrub k r.len).respond r.id (.data (m.rd k r.len)))
    | .write mask data =>
      let x := m.loftWrite k r.len mask data
      (match x.2 with | b :: _ => ue x.1 b | [] => x.1.respond r.id .ok)
    | _ => m.respond r.id .err

end Sys2Proof.Machine
end

