-- ==== Sys2Proof/Machine/Ops.lean ====
section
/-! DEFINITION. The named operations of the scalar processor: register files, the issue of an instruction (R45, R57,
R58, R86), its retirement (R64, R65, R68), raising and entering exceptions (R85 to R90) and returning (R91), reports
(R87), and releases and acquires (R218). -/

namespace Sys2Proof.Machine

/-! ### Register files -/

def Core.gr (k : Core) (i : Nat) : Word := SMap.get 0 k.g i
def Core.pr (k : Core) (i : Nat) : Word := SMap.get 0 k.p i
def Core.sr (k : Core) (i : Nat) : Word := SMap.get 0 k.st i
def Core.wr (k : Core) (i : Nat) : Word := SMap.get 0 k.w i
def Core.setPtr (k : Core) (i : Nat) (v : Word) : Core := { k with p := SMap.put 0 k.p i v }
def Core.setStep (k : Core) (i : Nat) (v : Word) : Core := { k with st := SMap.put 0 k.st i v }

/-- The stored form of a wrap register (R56): MODE 0b11 stores 0b00, reserved bits read zero. -/
def wrapNorm (v : Nat) : Nat :=
  (if bits v 62 2 = 3 then 0 else bits v 62 2 * 2 ^ 62) + bits v 40 3 * 2 ^ 40 + bits v 32 5 * 2 ^ 32 + bits v 0 32

def Core.setWrap (k : Core) (i : Nat) (v : Word) : Core :=
  { k with w := SMap.put 0 k.w i (BitVec.ofNat 64 (wrapNorm v.toNat)) }

/-- Store a general register, pending loads untouched. -/
def Core.putG (k : Core) (i : Nat) (v : Word) : Core := { k with g := SMap.put 0 k.g i v }

/-- An instruction that is not a load writes a general register: the pending writes of loads to it are cancelled (R59). The loads
themselves stay under way, with what they report (R63, R87). -/
def Core.setG (k : Core) (i : Nat) (v : Word) : Core :=
  { k.putG i v with loads := k.loads.map (fun (l : Load) => if l.dest = i then { l with live := false } else l) }

/-- CS, EPC and ECS of a bank. -/
def Core.bankOf (k : Core) (b : Nat) : Bank := if b = 0 then k.bank0 else if b = 1 then k.bank1 else k.bank2

def Core.setBank (k : Core) (b : Nat) (x : Bank) : Core :=
  if b = 0 then { k with bank0 := x } else if b = 1 then { k with bank1 := x } else { k with bank2 := x }

/-- CS of the active bank. -/
def Core.cs (k : Core) : Cs := (k.bankOf k.bank).cs

def Core.setCs (k : Core) (x : Cs) : Core := k.setBank k.bank { k.bankOf k.bank with cs := x }

/-- CS as a word (R40); MBUSY and BANK are composed. -/
def csWord (x : Cs) (bank : Nat) (mbusy : Bool) : Nat :=
  b2n x.ie + 2 * b2n x.exl + 4 * b2n x.level + 8 * b2n x.le + 16 * bank + 256 * b2n mbusy

/-- The fields an MTS to CS of `bank` stores (R40, R93): EXL and IE are never both left at 1, and in bank 2 IE is 0. A
steward's LEVEL is always 1 (R72). -/
def csOfWord (v : Nat) (bank : Nat) (stw : Bool) : Cs :=
  let exl := bits v 1 1 == 1
  { ie := bits v 0 1 == 1 && !exl && bank != 2, exl := exl, level := stw || bits v 2 1 == 1, le := bits v 3 1 == 1 }

/-- EXL where it has effect: not in bank 0 (R89). -/
def Core.exlOn (k : Core) : Bool := k.bank != 0 && k.cs.exl

/-! ### Results in flight -/

/-- Loads whose data has arrived and whose two following instructions have issued write their registers, each after
every earlier load of the same register (R58, R59); a load that met an uncorrectable Loft word reports (R63). A load whose write is
cancelled ends when its data has arrived. -/
def matureLoads : List Load → List Nat → Core → Core
  | [], _, k => k
  | l :: t, held, k =>
    if l.live && held.contains l.dest then matureLoads t held { k with loads := k.loads ++ [l] }
    else if l.bad ∧ 3 ≤ l.age then
      matureLoads t held { k with reports := k.reports ++ [{ cause := 6, sub := 0, addr := l.ea }] }
    else if !l.live then matureLoads t held (if l.val.isSome ∧ 3 ≤ l.age then k else { k with loads := k.loads ++ [l] })
    else match l.val with
      | some v => if 3 ≤ l.age then matureLoads t held (k.putG l.dest v)
                  else matureLoads t (l.dest :: held) { k with loads := k.loads ++ [l] }
      | none => matureLoads t (l.dest :: held) { k with loads := k.loads ++ [l] }

def Core.mature (k : Core) : Core := matureLoads k.loads [] { k with loads := [] }

/-- Lanes of a vector selected by a mask take new values. -/
def mergeLanes (old new : Nat) (mask : Nat) : Nat :=
  (List.range 64).foldl (fun v i => if bits mask i 1 = 1 then v + bits new (32 * i) 32 * 2 ^ (32 * i)
    else v + bits old (32 * i) 32 * 2 ^ (32 * i)) 0

/-- A vector load has the answers of all its far reads. -/
def VLoad.done (l : VLoad) : Bool := l.far.isEmpty

/-- Vector loads that have their data write after their two following instructions (R111), each after every earlier load of the same
register, or report (R115); poison or an uncorrectable error in any lane leaves the register unchanged. -/
def matureVLoads : List VLoad → List Nat → Core → Core
  | [], _, k => k
  | l :: t, held, k =>
    if l.done && decide (3 ≤ l.age) && !(l.live && held.contains l.dest) then
      let old := (SMap.get 0 k.v l.dest).toNat
      let k1 := if l.live && !l.hurt then
          { k with v := SMap.put 0 k.v l.dest (BitVec.ofNat 2048 (mergeLanes old l.data.toNat l.mask.toNat)) }
        else k
      matureVLoads t held (match l.rep with | some r => { k1 with reports := k1.reports ++ [r] } | none => k1)
    else matureVLoads t (if l.live then l.dest :: held else held) { k with vloads := k.vloads ++ [l] }

/-- One instruction has issued: loads age by it, and what is due is written. -/
def Core.ageLoads (k : Core) : Core :=
  let k1 := { k with loads := k.loads.map (fun (l : Load) => { l with age := l.age + 1 })
                     vloads := k.vloads.map (fun (l : VLoad) => { l with age := l.age + 1 }) }
  let k2 := k1.mature
  matureVLoads k2.vloads [] { k2 with vloads := [] }

/-- CS writes age by one instruction (R65). -/
def Core.ageCs (k : Core) : Core := { k with csq := k.csq.map (fun e => (e.1, e.2 - 1)) }

/-- CS writes whose two following instructions have issued take effect (R65). -/
def Core.commitDue (k : Core) : Core :=
  (k.csq.filter (fun e => e.2 == 0)).foldl (fun c e => c.setCs e.1) { k with csq := k.csq.filter (fun e => e.2 != 0) }

/-- Commit every pending CS write (R65, R99). -/
def Core.commitCs (k : Core) : Core := k.csq.foldl (fun c e => c.setCs e.1) { k with csq := [] }

/-! ### Retiring an instruction -/

/-- The loop-end check of R68, levels `ns` in order: the core with its counts and the next address. -/
def loopCheck : List Nat → PAddr → PAddr → Core → Core × PAddr
  | [], _, dflt, k => (k, dflt)
  | n :: ns, seq, dflt, k =>
    let c := SMap.get 0 k.lpc n
    if c ≠ 0 ∧ seq = SMap.get 0 k.lpe n then
      let k1 := { k with lpc := SMap.put 0 k.lpc n (c - 1) }
      if c - 1 ≠ 0 then (k1, SMap.get 0 k.lps n) else loopCheck ns seq dflt k1
    else loopCheck ns seq dflt k

/-- The last instruction of an active level (R66). -/
def Core.loopLast (k : Core) (seq : PAddr) : Bool :=
  [3, 2, 1, 0].any (fun n => SMap.get 0 k.lpc n != 0 && seq == SMap.get 0 k.lpe n)

/-- Retire an instruction whose sequential successor is `seq` and that continues at `dflt`: the loop-end check, the
target of a branch whose delay slot this was, aged loads and CS writes. -/
def Core.retire (k : Core) (seq dflt : PAddr) : Core :=
  let taken := match k.branch with | some b => b.target | none => none
  let r := if k.cs.le && taken.isNone then loopCheck [3, 2, 1, 0] seq dflt k else (k, dflt)
  let next := match taken with | some t => t | none => r.2
  { r.1.ageLoads.ageCs with branch := none, pc := next, xlat := [] }

/-- Retire a branch: its delay slot issues next. -/
def Core.retireBranch (k : Core) (seq : PAddr) (target : Option PAddr) (linkReg : Option Nat) (oldVal : Word)
    (cancelled : List Nat) : Core :=
  { k.ageLoads.ageCs with
    branch := some { pc := k.pc, target := target, linkReg := linkReg, oldVal := oldVal, cancelled := cancelled }
    pc := seq }

/-! ### Issue -/

/-- What a meaning does with its instruction. -/
inductive Res where
  /-- Completes; execution continues in sequence. -/
  | ok (m : Mod)
  /-- Completes; execution continues at an address, with no delay slot. -/
  | jump (m : Mod) (pc : PAddr)
  /-- A branch, taken when it has a target, with the register it links. -/
  | branch (m : Mod) (target : Option PAddr) (link : Option Nat)
  /-- Stays at issue: it waits or is held. -/
  | stay (m : Mod)
  /-- Raises a precise fault: cause, SUB, ADDR. -/
  | trap (m : Mod) (cause sub addr : Nat)

/-- A report that may be taken now exists (R87). -/
def Core.reportDue (k : Core) : Bool :=
  match k.routine with
  | none => k.branch.isNone && k.reports.any (fun r => !(r.deferred && k.exlOn))
  | some _ => k.reports.any (fun r => r.cause == 6)

/-- The routine that the core executes has ended: the next PC is the end of its body, after any delay slot (R299). -/
def Core.routineEnded (k : Core) : Bool :=
  match k.routine with
  | none => false
  | some r => k.branch.isNone && k.pc.toNat == r.entry + r.rlen

/-- An instruction that a report does not withdraw is held at issue: the boundary is behind it. -/
def Core.holdsOn (k : Core) : Bool :=
  match k.hold with
  | none => false
  | some h => decide (h.kind ≠ .wait ∧ h.kind ≠ .waitg ∧ h.kind ≠ .send ∧ h.kind ≠ .recv)

/-- The core can present an instruction to issue: it runs, or executes a furrow routine, nothing is to be entered first, and no
translation walk holds issue (R55). -/
def Core.canIssue (k : Core) : Bool :=
  (k.running || (k.routine.isSome && !k.routineEnded)) && !k.idle && k.trap.isNone && k.walk.isNone && (!k.reportDue || k.holdsOn)

/-- A general register that an instruction reads is still to be written by a load past its shadow (R58). -/
def Core.hazard (k : Core) (rs : List Nat) : Bool := k.loads.any (fun l => l.live && rs.contains l.dest && decide (3 ≤ l.age))

/-- The same for vector registers (R111). -/
def Core.vhazard (k : Core) (vs : List Nat) : Bool := k.vloads.any (fun l => l.live && vs.contains l.dest && decide (3 ≤ l.age))

/-- Execute-permit and write-lock bits: CORE_PM_SEG, or a steward's PMSEG (R42, R72). -/
def Mod.seg (m : Mod) (c : Nat) : Nat := if isStw c then (m.core c).seg else m.reg (c / 256) (corePage c 0) 0x110

/-- The first parcel of an instruction that lies in a segment without XP (R45). -/
def Mod.nxParcel (m : Mod) (c len : Nat) (pc : PAddr) : Option Nat :=
  ((List.range len).map (fun i => (pc.toNat + i) % 65536)).find? (fun a => bits (m.seg c) (a / 4096) 1 == 0)

/-- A TLD that is held stops partway: TLDPOS takes its tile and next source row (R101, R160). -/
def Core.tldStop (k : Core) : Core :=
  match k.hold with
  | some h => if h.kind = .tld then { k with tldpos := h.target } else k
  | none => k

/-- Record a precise fault of the instruction at issue (R85, R98); a TLD stops partway. -/
def Core.raise (k : Core) (cause sub addr : Nat) (rs : Bool) : Core :=
  { k.tldStop with trap := some { cause := cause, sub := sub, addr := addr,
                                  epc := (match k.branch with | some b => b.pc | none => k.pc),
                                  bd := k.branch.isSome, rs := rs }
                   hold := none, xlat := [] }

/-- An address lies in a routine's body. -/
def Routine.holds (r : Routine) (a : PAddr) : Bool := decide (r.entry ≤ a.toNat) && decide (a.toNat < r.entry + r.rlen)

/-- An instruction of a furrow routine has been executed (R299): the 257th of a firing, a jump out of the body, or a next PC
outside it, is a runtime fault. Their causes stand here as 0x3E and 0x3D, which R85 does not assign. -/
def Core.routineStep (k : Core) : Core :=
  match k.routine with
  | none => k
  | some r =>
    let k1 := { k with routine := some { r with count := r.count + 1 } }
    let out := match k.branch with
      | some b => (match b.target with | some t => !r.holds t | none => false)
      | none => !r.holds k.pc && !k1.routineEnded
    if 256 ≤ r.count then k1.raise 0x3E 0 0 false
    else if out then k1.raise 0x3D 0 0 false
    else k1

/-- The lowest of the ILLEGAL conditions that hold (R86). -/
def lowest : List Nat → Option Nat
  | [] => none
  | x :: t => match lowest t with | none => some x | some y => some (Nat.min x y)

/-- Parcels of an instruction, from its first parcel (R46). -/
def parcelLen (x : Parcel) : Nat := parcelsOf x.toNat

/-- `link` of R48: the address of the instruction that follows the delay slot at `seq`. -/
def Mod.linkAddr (m : Mod) (c : Nat) (seq : PAddr) : Word :=
  BitVec.ofNat 64 ((seq.toNat + parcelLen (m.parcel c seq.toNat)) % 65536)

/-- Numbers of the loads whose pending write is to register `r`. -/
def Core.liveLoads (k : Core) (r : Nat) : List Nat := (k.loads.filter (fun x => x.live && x.dest == r)).map (fun x => x.id)

/-- An instruction of `c` has issued and is retired by `f`: event 0x01 of R28 counts it. -/
def Mod.retires (m : Mod) (c : Nat) (f : Core → Core) : Mod := (m.onCore c (fun k => (f k).routineStep)).coreEv c 0x01 1

/-- The conditions of R62 other than CS.IE: a boundary at which an interrupt may be taken. -/
def Core.quietBoundary (k : Core) : Bool :=
  k.branch.isNone && k.walk.isNone && k.csq.all (fun e => e.2 == 0) && k.md.isEmpty && k.loads.all (fun l => decide (3 ≤ l.age)) &&
    k.vloads.all (fun l => decide (3 ≤ l.age))

/-- INTP of a core (R82). Causes of the FURROW page reach bit 4 only in program mode (R289). -/
def Mod.intp (m : Mod) (c : Nat) : Nat :=
  (List.range 8).foldl (fun v k => v + b2n (m.irqOn (c / 256) (corePage c k) && !(k == 4 && (m.fur c).stream)) * 2 ^ k) 0

/-- Some page of a list asks for an interrupt. -/
def Mod.anyIrq (m : Mod) (die : Nat) (l : List Nat) : Bool := l.any (fun p => m.irqOn die p)

/-- SINTP of a steward (R76). A steward chute holds a message not yet taken, for bit 1, only while its ENABLE is 1: what the bit shows for
a chute whose ENABLE was cleared with messages in it is the model's choice (DESIGN CHOICE, log entry 101). -/
def Mod.sintp (m : Mod) (d : Nat) : Nat :=
  let k := m.core (0x3F0 + d)
  let sp := stewardPage d
  let chute := (List.range 8).any (fun i => m.fld d sp (0x600 + i * 0x20) 0 1 == 1 &&
    m.reg d sp (0x610 + i * 0x20) != m.reg d sp (0x618 + i * 0x20))
  let barn := decide (4 ≤ d)
  b2n (!k.notices.isEmpty) + 2 * b2n chute + 4 * b2n (m.irqOn d sp) + 8 * b2n (m.irqOn d (cadPage d)) +
    16 * b2n (m.irqOn d (watchPage d)) +
    32 * b2n (m.anyIrq d (if barn then [2081, 2082] else [2304, 2305, 2306, 2307])) +
    64 * b2n (m.anyIrq d [pwrPage d, thermPage d]) + 128 * b2n (m.irqOn d (sweepPage d)) +
    256 * b2n (m.anyIrq d (if barn then [2070, 2071] else [2310, 2311, 2312, 2313])) +
    512 * b2n (m.irqOn d (digestPage d)) + 1024 * b2n (m.irqOn d (diePerfPage d)) +
    2048 * b2n (barn && m.anyIrq d [2064, 2065, 2066, 2067, 2068, 2069]) +
    4096 * b2n (barn && m.anyIrq d [2079, 2080]) +
    8192 * b2n (barn && m.anyIrq d ((List.range 16).map (fun i => 2048 + i)))

/-- Interrupt sources of a core or steward. -/
def Mod.pendingIrq (m : Mod) (c : Nat) : Nat := if isStw c then m.sintp (dieOf c) else m.intp c

/-- An interrupt is to be taken at this boundary before anything issues (R62, R89): one is pending, CS.IE is 1, and the boundary meets
every condition; it also stops a TLD after the row in flight (R101). -/
def Mod.irqDue (m : Mod) (c : Nat) : Bool :=
  let k := m.core c
  k.cs.ie && k.running && decide (k.bank < 2) && !k.exlOn && k.quietBoundary && m.pendingIrq c != 0 &&
    (match k.hold with | none => true | some h => decide (h.kind = .tld) && h.sent)

/-- A stop has been requested and this is a boundary at which R62 would allow an interrupt, CS.IE disregarded: nothing more issues (R71). -/
def Core.stopDue (k : Core) : Bool := k.running && k.stopReq && k.trap.isNone && k.hold.isNone && k.quietBoundary

/-- Nothing issues: the core is held by the debugger (R452), the steward's local memory is still being swept (R414), or a stop is due (R71). -/
def Mod.stalled (m : Mod) (c : Nat) : Bool :=
  m.debugHalt.contains c || (isStw c && m.sweeping (dieOf c) (stewardPage (dieOf c))) || (m.core c).stopDue

/-- Issue an instruction of `len` parcels on `c`, which `may` let issue beside `canIssue`: no interrupt is due (R62, R219); CS writes that are due, faults
of R86 before its own in order, the load interlock of R58, then its meaning. `ills` lists the ILLEGAL SUBs its encoding meets, `ctl` marks the instructions that R64 forbids in a delay
slot and `last` those that R69 forbids as a loop's last instruction, `rs` the general registers it reads. -/
def issueIf (may : Core → Bool) (c len : Nat) (ills : List Nat) (ctl last : Bool) (rs : List Nat)
    (body : Mod → Core → Res) (m0 : Mod) : Mod :=
  let m := m0.onCore c Core.commitDue
  let k := m.core c
  if !(k.canIssue && may k) || m0.stalled c || m.irqDue c then m0
  else match m.nxParcel c len k.pc with
    | some a => m.setCore c (k.raise 1 0 a false)
    | none =>
      let seq := k.pc + BitVec.ofNat 16 len
      match lowest (ills ++ (if ctl && k.branch.isSome then [2] else []) ++ (if last && k.loopLast seq then [3] else [])) with
      | some x => m.setCore c (k.raise 2 x 0 false)
      | none =>
        if k.hazard rs then m
        else match body m k with
          | .ok m1 => m1.retires c (fun k1 => k1.retire seq seq)
          | .jump m1 a => m1.retires c (fun k1 => k1.retire seq a)
          | .branch m1 t l =>
            m1.retires c (fun k1 =>
              match l with
              | none => k1.retireBranch seq t none 0 []
              | some r => (k1.setG r (m.linkAddr c seq)).retireBranch seq t (some r) (k1.gr r) (k1.liveLoads r))
          | .stay m1 => m1
          | .trap m1 cause sub addr => m1.onCore c (fun k1 => k1.raise cause sub addr false)

/-- Issue an instruction that no held instruction stands before. -/
def issue (c len : Nat) (ills : List Nat) (ctl last : Bool) (rs : List Nat) (body : Mod → Core → Res) (m : Mod) : Mod :=
  issueIf (fun k => k.hold.isNone) c len ills ctl last rs body m

/-- Issue, or go on with, an instruction that can be held at issue: no other instruction is held. -/
def issueHeld (kind : HoldKind) (c : Nat) (ills : List Nat) (rs : List Nat) (body : Mod → Core → Res) (m : Mod) : Mod :=
  issueIf (fun k => match k.hold with | none => true | some h => decide (h.kind = kind)) c 3 ills false false rs body m

/-- Lift a meaning on the module to a command of core or steward `c`. -/
def onCpu (c : Nat) (s : State) (f : Mod → Mod) : Ans :=
  if isCpu c then .next { s with mod := f s.mod } else .fault (.noSuchAgent c)

/-- The same for a command of a core only; a steward raises ILLEGAL with SUB 0 (R73). -/
def onCoreOnly (c len : Nat) (s : State) (f : Mod → Mod) : Ans :=
  if isCore c then .next { s with mod := f s.mod }
  else if isStw c then .next { s with mod := issue c len [0] false false [] (fun m _ => .ok m) s.mod }
  else .fault (.noSuchAgent c)

/-! ### Exceptions -/

/-- Undo the branch of a delay slot that faulted (R98): its link register and the load writes it cancelled. -/
def Core.undoBranch (k : Core) : Core :=
  match k.branch with
  | some b =>
    match b.linkReg with
    | some r => { (k.putG r b.oldVal) with branch := none, loads := k.loads.map (fun (l : Load) =>
        if b.cancelled.contains l.id then { l with live := true } else l) }
    | none => { k with branch := none }
  | none => k

/-- ECS as R84 lays it out, with the previous-state fields of the active bank. -/
def Core.ecsWord (k : Core) (cause sub addr : Nat) (bd rs : Bool) : Word :=
  BitVec.ofNat 64 (addr % 2 ^ 48 * 2 ^ 16 + b2n bd * 2 ^ 15 + b2n rs * 2 ^ 14 + k.bank * 2 ^ 12 + b2n k.cs.level * 2 ^ 11 +
    b2n k.cs.ie * 2 ^ 10 + b2n k.cs.le * 2 ^ 9 + sub % 8 * 2 ^ 6 + cause % 64)

/-- The bank and vector that an event enters (R89); none when it halts the core. -/
def Core.entryBank (k : Core) : Option (Nat × PAddr) :=
  match k.bank with
  | 0 => some (1, k.vec)
  | 1 => if k.cs.exl then some (2, 0xF000) else some (1, k.vec)
  | _ => none

/-- Enter a bank (R88): EPC and ECS are written with the previous state, the bank becomes active with LEVEL 1, EXL 1
and IE 0, LE as it last was, and execution continues at the vector. Reports that wait become deferred (R87). -/
def Core.enter (k : Core) (b : Nat) (vector epc : PAddr) (cause sub addr : Nat) (bd rs : Bool) : Core :=
  let ecs := k.ecsWord cause sub addr bd rs
  let old := k.bankOf b
  let k1 := k.setBank b { cs := { old.cs with level := true, exl := true, ie := false }, epc := epc, ecs := ecs }
  { k1 with bank := b, pc := vector, branch := none, trap := none, hold := none
            reports := k1.reports.map (fun r => { r with deferred := true }) }

/-- A steward notice (R76): appended, or dropped with LOST when the queue holds 64. -/
def Mod.notice (m : Mod) (die kind source detail : Nat) : Mod :=
  let w : Word := BitVec.ofNat 64 (2 ^ 63 + kind % 16 * 2 ^ 56 + source % 65536 * 2 ^ 40 + detail % 2 ^ 40)
  m.onCore (0x3F0 + die) (fun k =>
    if k.notices.length < 64 then { k with notices := k.notices ++ [w] } else { k with noticeLost := true })

/-- A fault or report in bank 2 halts the core (R90) or the steward (R77). -/
def Mod.halt (m : Mod) (c cause sub : Nat) : Mod :=
  let k := m.core c
  let m1 := m.setCore c { k with running := false, halted := true, trap := none, branch := none, hold := none, reports := [] }
  let detail := k.pc.toNat * 65536 + sub % 8 * 64 + cause % 64
  if isStw c then
    let d := dieOf c
    let m2 := (m1.setReg d (sweepPage d) 0x120 (k.pc.toNat * 65536 + sub % 8 * 64 + cause % 64 + 2 ^ 32)).irq d (sweepPage d) 1
    if d = 4 then m2 else m2.notice 4 7 d 1
  else
    let d := c / 256
    let m2 := m1.err d (corePage c 0) 9 c detail 0
    let m3 := (m2.orReg d (stewardPage d) (0x360 + c % 256 / 64 * 8) (2 ^ (c % 64))).irq d (stewardPage d) 0
    m3.notice d 1 c detail

/-- The wait of R63 is over: every load, scalar or vector, has arrived or has had its write cancelled, and CS.MBUSY is 0. -/
def Core.settled (k : Core) : Bool :=
  k.loads.all (fun l => l.val.isSome || l.bad || !l.live) && k.vloads.all (fun l => l.done || !l.live) && k.md.isEmpty

/-- Every load that has arrived writes, whatever its shadow (R63). -/
def Core.drain (k : Core) : Core :=
  let k1 := { k with loads := k.loads.map (fun (l : Load) => { l with age := 3 }), vloads := k.vloads.map (fun (l : VLoad) => { l with age := 3 }) }
  let k2 := k1.mature
  matureVLoads k2.vloads [] { k2 with vloads := [] }

/-- Forget the far reads of an instruction or a vector load. -/
def Core.dropPieces (k : Core) (own : Nat) : Core := { k with pieces := k.pieces.filter (fun p => p.own != own), xlat := [] }

/-- Enter for an event, or halt: the one path of faults, reports and interrupts. -/
def Mod.takeEvent (m0 : Mod) (c cause sub addr : Nat) (epc : PAddr) (bd rs : Bool) : Mod :=
  let m := ((m0.dropFetched c).coreEv c (if cause = 0x20 then 0x11 else 0x12) 1).onCore c (fun k => k.dropPieces 0)
  let k := (m.core c).drain.commitCs
  match k.entryBank with
  | some (b, v) => m.setCore c (k.enter b v epc cause sub addr bd rs)
  | none => (m.setCore c k).halt c cause sub

/-- A report reaches the core (R87). -/
def Core.report (k : Core) (cause sub addr : Nat) : Core :=
  { k with reports := k.reports ++ [{ cause := cause, sub := sub, addr := addr }] }

/-! ### Write-combining buffer, releases and acquires -/

/-- Post the masked write of one half of a write-combining buffer line (R207). -/
def Mod.postHalf (m : Mod) (c die mpa mask data : Nat) (marks : List StoreMark) : Mod :=
  if mask = 0 then m else m.post (.store c marks) (reqCode c) die mpa 64 (.write mask data)

/-- Write out one line of the buffer: one masked write per touched granule. -/
def Mod.writeOut (m : Mod) (c : Nat) (l : WcbLine) : Mod :=
  let m1 := (m.onCore c (fun k => { k with wcb := k.wcb.filter (fun x => x.line != l.line) })).coreEv c 0x0F 1
  let m2 := m1.postHalf c (dieOf c) (l.line * 128) (bits l.mask 0 64) (bits l.data 0 512) l.marks0
  m2.postHalf c (dieOf c) (l.line * 128 + 64) (bits l.mask 64 64) (bits l.data 512 512) l.marks1

/-- Write out every line (R204, R207). -/
def Mod.drainWcb (m : Mod) (c : Nat) : Mod := (m.core c).wcb.foldl (fun x l => x.writeOut c l) m

/-- Every earlier load has returned its data, those whose write is cancelled included. -/
def Core.loadsBack (k : Core) : Bool := k.loads.all (fun l => l.val.isSome || l.bad) && k.vloads.all (fun l => l.done)

/-- The release of a scope is complete (R218): 0 CORE, 1 CHIP, 2 SYSTEM. -/
def Mod.releaseDone (m : Mod) (c scope : Nat) : Bool :=
  let k := m.core c
  k.loadsBack && (scope == 0 || (k.wcb.isEmpty && !m.writesOut c))

/-- Begin a release: at CHIP and SYSTEM scope the buffer is written out. -/
def Mod.beginRelease (m : Mod) (c scope : Nat) : Mod := if scope = 0 then m else m.drainWcb c

/-- The acquire of a scope (R208, R218): at CHIP and SYSTEM the Crib is invalidated, and a fill in flight allocates no line and serves no
later load. -/
def Core.acquire (k : Core) (scope : Nat) : Core :=
  if scope = 0 then k else { k with crib := [], fills := k.fills.map (fun f => { f with alloc := false }) }

end Sys2Proof.Machine
end

