-- ==== Sys2Proof/Machine/Operands.lean ====
section
/-! DEFINITION. Operand forms: pointer modes (R56), access sizes (R49), and the decode and checks of a core address
(R54, R79, R198 to R202, R74). -/

namespace Sys2Proof.Machine

/-- `modify(n, step)` of R56. -/
def Core.modify (k : Core) (n : Nat) (step : Int) : Word :=
  let p := (k.pr n).toNat
  let w := (k.wr n).toNat
  match bits w 62 2 with
  | 0 => BitVec.ofInt 64 ((p : Int) + step)
  | 1 =>
    let len := bits w 0 32
    if len = 0 then k.pr n
    else
      let b := p - p % 2 ^ ceilLog2 len
      BitVec.ofInt 64 ((b : Int) + (((p - b : Nat) : Int) + step) % (len : Int))
  | _ =>
    let kk := bits w 32 5
    let z := bits w 40 3
    if kk = 0 then k.pr n
    else
      let b := p - p % 2 ^ (kk + z)
      let idx := p / 2 ^ z % 2 ^ kk
      let low := p % 2 ^ z
      let r := (((revBits kk idx : Nat) : Int) + step) % ((2 ^ kk : Nat) : Int)
      BitVec.ofNat 64 (b + revBits kk r.toNat * 2 ^ z + low)

/-- The pointer is in bit-reversed mode, where an offset is not scaled. -/
def Core.bitrev (k : Core) (n : Nat) : Bool := bits (k.wr n).toNat 62 2 == 2

/-- The step register of a pointer, as a signed number. -/
def Core.step (k : Core) (n : Nat) : Int := (k.sr n).toInt

/-- Extension of loaded data of `8 * 2 ^ size` bits. -/
def extend (size : Nat) (sx : Bool) (v : Nat) : Word :=
  if sx then BitVec.ofInt 64 (sext (8 * 2 ^ size) v) else BitVec.ofNat 64 (v % 2 ^ (8 * 2 ^ size))

/-- Where a core address leads after every check. -/
inductive Place where
  /-- The core's own Loft or the steward's local memory, at an offset. -/
  | own (off : Nat)
  /-- A far MPA; the flag says that the page bypasses the Crib. -/
  | far (mpa : Nat) (nc : Bool)
  /-- The TLB misses: a walk is needed. -/
  | miss
  /-- A precise fault, with TFINFO where the cause is TRANSLATION. -/
  | fault (cause sub addr : Nat) (tf : Option Nat)

/-- A TLB entry covers an address of an address space (R202). -/
def TlbEntry.covers (e : TlbEntry) (asid va : Nat) : Bool :=
  e.asid == asid && (if e.big then e.vpage == va / 2 ^ 30 else e.vpage == va / 2 ^ 21)

/-- The entry of the current address space that covers `va`. -/
def Core.lookup (k : Core) (va : Nat) : Option TlbEntry := k.tlb.find? (fun e => e.covers (k.tctx % 256) va)

/-- A hit makes the entry the most recently used. -/
def Core.touch (k : Core) (va : Nat) : Core :=
  match k.lookup va with
  | some e => { k with tlb := e :: k.tlb.filter (fun x => !(x.covers (k.tctx % 256) va)) }
  | none => k

/-- TFINFO (R199): ASID, LEVEL, REASON. -/
def tfWord (asid level reason : Nat) : Nat := asid * 256 + level * 16 + reason

/-- Decode of a core address (R198) with the permission checks of R201; `sub` is the SUB of a TRANSLATION fault. -/
def Core.place (k : Core) (ea : Nat) (store : Bool) (sub : Nat) : Place :=
  if ea < 0x400000 then .own ea
  else if 2 ^ 48 ≤ ea then .fault 5 sub ea (some (tfWord (k.tctx % 256) 0 6))
  else match k.lookup ea with
    | none => .miss
    | some e =>
      let level := if e.big then 2 else 3
      if !k.cs.level && !e.t then .fault 5 sub ea (some (tfWord (k.tctx % 256) level 2))
      else if store && !e.w then .fault 5 sub ea (some (tfWord (k.tctx % 256) level 1))
      else .far (if e.big then e.ppage * 2 ^ 30 + ea % 2 ^ 30 else e.ppage * 2 ^ 21 + ea % 2 ^ 21) e.nc

/-- Decode of a steward's address (R74). -/
def stwPlace (ea sub : Nat) : Place :=
  if ea < 0x200000 then .own ea
  else if 0x100000000000 ≤ ea ∧ ea < 0x200000000000 then .far (ea - 0x100000000000) true
  else .fault 5 sub ea none

/-- Decode for a core or a steward. An address at or above 0x40_0000 in a furrow routine is a runtime fault (R299), whose
cause stands here as 0x3F, which R85 does not assign. -/
def Core.decodeEa (k : Core) (c ea : Nat) (store : Bool) (sub : Nat) : Place :=
  if isStw c then stwPlace ea sub
  else if k.routine.isSome ∧ 0x400000 ≤ ea then .fault 0x3F 0 ea none
  else k.place ea store sub

/-- A span of own Loft touches kernel-only Loft, `KLOFT`..0x3F_FFFF, at task level (R79): the lowest such address. -/
def Core.kernelOnly (k : Core) (ea n : Nat) : Option Nat :=
  if !k.cs.level && decide (ea < 0x400000) && decide (k.kloft < 0x400000) && decide (k.kloft < ea + n) then some (Nat.max ea k.kloft) else none

/-- Request a walk for a missing address (R202, R203). -/
def Core.startWalk (k : Core) (ea : Nat) (store : Bool) (sub : Nat) : Core :=
  match k.walk with
  | some _ => k
  | none => { k with walk := some { asid := k.tctx % 256, va := ea, cbase := k.tctx / 4096 * 4096, sub := sub, store := store,
                                    task := !k.cs.level, running := false, result := none, noFill := false } }

/-- A walk request joins its die's walker queue and counts in CORE_CNT_TLB_MISS (R203, R210). -/
def Mod.startWalk (m : Mod) (c ea : Nat) (store : Bool) (sub : Nat) : Mod :=
  let k := m.core c
  if k.walk.isSome then m
  else
    let m1 := ((m.setCore c (k.startWalk ea store sub)).addReg (c / 256) (corePage c 0) 0x150 1).coreEv c 0x0C 1
    { m1 with walkers := m1.walkers ++ [c] }

/-- Raise a fault of address decode, recording TFINFO. -/
def trapPlace (m : Mod) (c cause sub addr : Nat) (tf : Option Nat) : Res :=
  .trap (match tf with | some t => m.onCore c (fun k => { k with tfinfo := t }) | none => m) cause sub addr

/-! ### Range tracker (R196, R197) -/

/-- Granule range of a span, own Loft as offsets; an MPA of the core's own window counts as its offset. -/
def rtRange (c : Nat) (far : Bool) (a n : Nat) : Bool × Nat × Nat :=
  match far, decodeMpa a with
  | true, .loft c' off =>
    if c' = c ∧ off + n ≤ 0x400000 then (false, off / 64, (off + n - 1) / 64) else (true, a / 64, (a + n - 1) / 64)
  | _, _ => (far, a / 64, (a + n - 1) / 64)

/-- The granule that a range end stands for: own Loft as that of its window, so that an access through the window and one to the same
bytes compare equal, whatever else the range covers. -/
def rtGran (c : Nat) (far : Bool) (g : Nat) : Nat := if far then g else g + loftKey c / 64

/-- An access must wait for a range tracker entry. -/
def Core.rtBlocks (k : Core) (c : Nat) (far : Bool) (a n : Nat) (write : Bool) : Bool :=
  let r := rtRange c far a n
  decide (n ≠ 0) && k.rt.any (fun e => !e.empty && (e.write || write) &&
    decide (rtGran c e.far e.lo ≤ rtGran c r.1 r.2.2) && decide (rtGran c r.1 r.2.1 ≤ rtGran c e.far e.hi))

/-! ### Crib and write-combining buffer (R205 to R207) -/

def Core.cribHit (k : Core) (line : Nat) : Option CribLine := k.crib.find? (fun l => l.line == line)

/-- Store bytes enter a line held in the Crib, and a fill in flight, where they take precedence (R207). -/
def Core.cribStore (k : Core) (line mask data : Nat) : Core :=
  { k with
    crib := k.crib.map (fun l => if l.line = line then { l with data := (List.range 128).foldl (fun v i =>
      v + (if bits mask i 1 = 1 then bits data (8 * i) 8 else bits l.data (8 * i) 8) * 2 ^ (8 * i)) 0 } else l)
    fills := k.fills.map (fun f => if f.line = line then { f with
      mask := f.mask ||| mask
      bytes := (List.range 128).foldl (fun v i =>
        v + (if bits mask i 1 = 1 then bits data (8 * i) 8 else bits f.bytes (8 * i) 8) * 2 ^ (8 * i)) 0 } else f) }

/-- A far load overlaps bytes held in the buffer (R207). -/
def Core.wcbHolds (k : Core) (mpa n : Nat) : Bool :=
  k.wcb.any (fun l => decide (l.line * 128 ≤ mpa + n - 1) && decide (mpa < l.line * 128 + 128) &&
    (List.range n).any (fun i => decide (l.line * 128 ≤ mpa + i) && decide (mpa + i < l.line * 128 + 128) &&
      bits l.mask (mpa + i - l.line * 128) 1 == 1))

/-- A far read of a core overlaps bytes that its write-combining buffer holds or has written out without their acknowledgement: it waits
(R207). A steward has no buffer; its own order is that of R214. -/
def Mod.wcbBusy (m : Mod) (k : Core) (c mpa n : Nat) : Bool :=
  k.wcbHolds mpa n || (!isStw c && m.net.any (fun r =>
    match r.use, r.op with
    | .store c' _, .write mask _ => c' == c &&
        (List.range n).any (fun i => decide (r.mpa ≤ mpa + i) && bits mask (mpa + i - r.mpa) 1 == 1)
    | _, _ => false))

/-- Some line of the buffer overlaps a far range (R214, R215). -/
def Core.wcbLines (k : Core) (mpa n : Nat) : Bool :=
  k.wcb.any (fun l => decide (n ≠ 0) && decide (l.line * 128 ≤ mpa + n - 1) && decide (mpa < l.line * 128 + 128))

/-- A line that overlaps a far range is held in the buffer, or a store of it is still to be acknowledged: a TLD or a Wain MOVE of that
range waits (R215). -/
def Mod.lineBusy (m : Mod) (k : Core) (c mpa n : Nat) : Bool :=
  k.wcbLines mpa n || (decide (n ≠ 0) && m.net.any (fun r => match r.use with
    | .store c' _ => c' == c && decide (mpa / 128 ≤ r.mpa / 128) && decide (r.mpa / 128 ≤ (mpa + n - 1) / 128)
    | _ => false))

/-- A far read that an earlier instruction needs has not begun, and a store to its granule must not pass it (R215). -/
def Core.pieceAhead (k : Core) (mpa n : Nat) : Bool :=
  k.pieces.any (fun p => !p.begun && decide (p.mpa / 64 * 64 ≤ mpa + n - 1) && decide (mpa < (p.mpa + p.len + 63) / 64 * 64))

/-- A Crib line with an uncorrectable error is dropped before it is used, and counted (R209). -/
def Mod.cribCheck (m : Mod) (c line : Nat) : Mod :=
  let k := m.core c
  if k.crib.any (fun l => l.line == line && l.bad) then
    (m.setCore c { k with crib := k.crib.filter (fun l => !(l.line == line && l.bad)) }).satFld (c / 256) (corePage c 0) 0x170 32 16 1
  else m

/-- A load that the Crib serves, or that misses in it, counts (R210). -/
def Mod.cribCount (m : Mod) (c : Nat) (hit : Bool) : Mod :=
  if hit then (m.addReg (c / 256) (corePage c 0) 0x140 1).coreEv c 0x0A 1
  else (m.addReg (c / 256) (corePage c 0) 0x148 1).coreEv c 0x0B 1

/-- A new fill of a line: the store bytes that the write-combining buffer holds for it take precedence over its data (R207). -/
def Core.newFill (k : Core) (line : Nat) : CribFill :=
  match k.wcb.find? (fun (l : WcbLine) => l.line == line) with
  | some w => { line := line, alloc := true, mask := w.mask, bytes := w.data }
  | none => { line := line, alloc := true, mask := 0, bytes := 0 }

/-- Begin a fill of a line: both granules are requested (R206). -/
def Mod.startFill (m : Mod) (c line : Nat) : Mod :=
  let m1 := m.onCore c (fun k => { k with fills := k.fills ++ [k.newFill line] })
  let m2 := m1.post (.fill c line 0) (reqCode c) (dieOf c) (line * 128) 64 .read
  m2.post (.fill c line 1) (reqCode c) (dieOf c) (line * 128 + 64) 64 .read

/-- Merge store bytes into a buffer line; `marks` gives each store's byte offset in the line and its mark. -/
def WcbLine.merge (l : WcbLine) (mask data : Nat) (marks : List (Nat × StoreMark)) : WcbLine :=
  { l with
    mask := l.mask ||| mask
    data := (List.range 128).foldl (fun v i =>
      v + (if bits mask i 1 = 1 then bits data (8 * i) 8 else bits l.data (8 * i) 8) * 2 ^ (8 * i)) 0
    marks0 := l.marks0 ++ (marks.filter (fun x => decide (x.1 < 64))).map (fun x => x.2)
    marks1 := l.marks1 ++ (marks.filter (fun x => decide (64 ≤ x.1))).map (fun x => x.2) }

/-- Store bytes of one line enter the buffer together (R207, R213): they merge into their line, or take a new one, writing out the
oldest when eight are held; a line that becomes full is written out. -/
def Mod.wcbLine (m : Mod) (c line mk dt : Nat) (marks : List (Nat × StoreMark)) : Mod :=
  let k := m.core c
  let m1 := match k.wcb.find? (fun (l : WcbLine) => l.line == line) with
    | some _ => m.onCore c (fun (k : Core) => { k with wcb := k.wcb.map (fun (l : WcbLine) => if l.line = line then l.merge mk dt marks else l) })
    | none =>
      let m0 := if 8 ≤ k.wcb.length then (match k.wcb with | o :: _ => m.writeOut c o | [] => m) else m
      m0.onCore c (fun k => { k with wcb := k.wcb ++
        [({ line := line, mask := 0, data := 0, marks0 := [], marks1 := [] } : WcbLine).merge mk dt marks] })
  let m2 := m1.onCore c (fun k => k.cribStore line mk dt)
  match (m2.core c).wcb.find? (fun (l : WcbLine) => l.line == line) with
  | some l => if l.mask = 2 ^ 128 - 1 then m2.writeOut c l else m2
  | none => m2

/-- A far store of bytes within one line enters the buffer. -/
def Mod.wcbStore (m : Mod) (c mpa mask data : Nat) (mark : StoreMark) : Mod :=
  m.wcbLine c (mpa / 128) (mask * 2 ^ (mpa % 128) % 2 ^ 128) (data * 2 ^ (8 * (mpa % 128))) [(mpa % 128, mark)]

/-- The far range allocates in the Crib (R205): HBM or the host window. -/
def cribRange (mpa : Nat) : Bool := match decodeMpa mpa with | .hbm _ => true | .host _ => true | _ => false

/-- A register-space access of the core or steward is in flight, unacknowledged (R226). -/
def Mod.regBusy (m : Mod) (c : Nat) : Bool := m.net.any (fun r => isRegSpace r.mpa && (match r.use with
  | .load x _ => x == c | .piece x _ _ => x == c | .store x _ => x == c | .tst x _ _ => x == c | _ => false))

/-- A register-space access of the agent is still to be issued or acknowledged (R226). -/
def Mod.regOut (m : Mod) (c : Nat) : Bool :=
  m.regBusy c || !(m.core c).regQ.isEmpty || (m.core c).pieces.any (fun p => !p.begun && isRegSpace p.mpa)

/-- Issue the next write to register space that waits, once the one before it has been acknowledged (R226). -/
def Mod.regPump (m : Mod) (c : Nat) : Mod :=
  if m.regBusy c then m
  else match (m.core c).regQ with
    | [] => m
    | x :: t =>
      (m.onCore c (fun k => { k with regQ := t })).post (match x.tst with | some n => .tst c n x.mark.ea | none => .store c [x.mark]) (reqCode c)
        (dieOf c) x.mpa x.len (.write (2 ^ x.len - 1) x.data)

end Sys2Proof.Machine
end

