-- ==== Sys2Proof/Machine/LoadStore.lean ====
section
/-! DEFINITION. Scalar loads and stores (R48, R50, R54, R58, R59, R206, R207), the return of load data and the
acknowledgement of far writes (R58, R212). -/

namespace Sys2Proof.Machine

/-- A load enters flight: one issued as one of the two instructions after an earlier load of the register cancels that
load's write (R59). -/
def Core.addLoad (k : Core) (l : Load) : Core :=
  { k with loads := k.loads.map (fun (x : Load) => if x.dest = l.dest ∧ x.age < 3 then { x with live := false } else x) ++ [l] }

/-- Bytes of a value replaced where a mask is set. -/
def patchBytes (n v mask data : Nat) : Nat :=
  (List.range n).foldl (fun x i => x + (if bits mask i 1 = 1 then bits data (8 * i) 8 else bits v (8 * i) 8) * 2 ^ (8 * i)) 0

/-- A load of `2 ^ size` bytes at `ea` into g[d], after R54's checks; `post` is the pointer update. -/
def doLoad (c d size : Nat) (sx u : Bool) (ea : Nat) (post : Core → Core) (m : Mod) (k : Core) : Res :=
  let n := 2 ^ size
  match k.kernelOnly ea n with
  | some a => .trap m 3 1 a
  | none =>
    if ea % n ≠ 0 then .trap m 4 0 ea
    else match k.decodeEa c ea false 0 with
      | .fault cause sub addr tf => trapPlace m c cause sub addr tf
      | .miss => .stay (m.startWalk c ea false 0)
      | .own off =>
        if k.rtBlocks c false off n false then .stay m
        else
          let key := loftKey c + off
          let ok := m.wordsOk key n
          let l : Load := { id := m.nextId, dest := d, size := size, sx := sx, age := 0, ea := ea,
                            val := if ok then some (extend size sx (m.rd key n)) else none, bad := !ok }
          .ok ({ m.scrub key n with nextId := m.nextId + 1 }.setCore c (post (k.addLoad l)))
      | .far mpa nc =>
        let k := if isStw c then k else k.touch ea
        let line := mpa / 128
        if k.rtBlocks c true mpa n false || m.wcbBusy k c mpa n || (isRegSpace mpa && m.regOut c) then .stay m
        else
          let l : Load := { id := m.nextId, dest := d, size := size, sx := sx, age := 0, ea := ea, val := none }
          if isStw c || u || nc || !cribRange mpa then
            .ok (((m.setCore c (post (k.addLoad l))).post (.load c m.nextId) (reqCode c) (dieOf c) mpa n .read).coreEv c 0x10 1)
          else
            let m := (m.setCore c k).cribCheck c line
            let k := m.core c
            let enter := fun (m : Mod) (l : Load) =>
              ({ m with nextId := m.nextId + 1 }.onCore c (fun k => post (k.addLoad l))).coreEv c 0x10 1
            match k.cribHit line with
            | some x => .ok (enter (m.cribCount c true) { l with val := some (extend size sx (x.data / 2 ^ (8 * (mpa % 128)))) })
            | none =>
              match k.fills.find? (fun f => f.line == line) with
              | some f =>
                if !f.alloc then .stay m
                else .ok (enter (m.cribCount c false) { l with
                  line := some line, off := mpa % 128
                  patchMask := bits f.mask (mpa % 128) n, patch := bits f.bytes (8 * (mpa % 128)) (8 * n) })
              | none =>
                if 8 ≤ k.fills.length then .stay m
                else .ok ((enter (m.cribCount c false) { l with line := some line, off := mpa % 128 }).startFill c line)

/-- A store of the low `2 ^ size` bytes of `v` at `ea`. -/
def doStore (c size : Nat) (v : Word) (ea : Nat) (post : Core → Core) (m : Mod) (k : Core) : Res :=
  let n := 2 ^ size
  let data := v.toNat % 2 ^ (8 * n)
  match k.kernelOnly ea n with
  | some a => .trap m 3 1 a
  | none =>
    if ea % n ≠ 0 then .trap m 4 0 ea
    else match k.decodeEa c ea true 1 with
      | .fault cause sub addr tf => trapPlace m c cause sub addr tf
      | .miss => .stay (m.startWalk c ea true 1)
      | .own off =>
        if k.rtBlocks c false off n true then .stay m
        else
          let key := loftKey c + off
          if n = 8 ∨ m.wordsOk key n then .ok (((m.setCore c (post k)).scrubPart key n).wr key n data)
          else .ok (m.setCore c ((post k).report 6 0 ea))
      | .far mpa _ =>
        let k := if isStw c then k else k.touch ea
        if k.rtBlocks c true mpa n true || (isRegSpace mpa && m.regOut c) || (isStw c && m.writesOut c) || k.pieceAhead mpa n then .stay m
        else
          let m1 := m.setCore c (post k)
          if isStw c || isRegSpace mpa then
            .ok (m1.post (.store c [{ sub := 1, ea := ea }]) (reqCode c) (dieOf c) mpa n (.write (2 ^ n - 1) data))
          else .ok (m1.wcbStore c mpa (2 ^ n - 1) data { sub := 1, ea := ea })

/-- Post-modify of a one-parcel access: s[3] asks for it, s[2:0] names the pointer. -/
def postOf (on : Bool) (n : Nat) (k0 : Core) (k : Core) : Core := if on then k.setPtr n (k0.modify n (k0.step n)) else k

def oneParcelLoad (sx : Bool) (c size : Nat) (d s : BitVec 4) (m : Mod) : Mod :=
  issue c 1 [] false false [] (fun m k =>
    doLoad c d.toNat size sx false (k.pr (s.toNat % 8)).toNat (postOf (decide (8 ≤ s.toNat)) (s.toNat % 8) k) m k) m

/-- LD.B, LD.H, LD.W, LD.D by `sz`. -/
def execLd (c : Nat) (sz : BitVec 2) (d r : BitVec 4) (s : State) : Ans := onCpu c s (oneParcelLoad true c sz.toNat d r)
/-- LDU.B, LDU.H, LDU.W. The opcode after LDU.W is ST.B: there is no LDU of a doubleword, and `sz` 3 is ill-formed. -/
def execLdu (c : Nat) (sz : BitVec 2) (d r : BitVec 4) (s : State) : Ans := onCpu c s (oneParcelLoad false c sz.toNat d r)
def execSt (c : Nat) (sz : BitVec 2) (d r : BitVec 4) (s : State) : Ans :=
  onCpu c s (issue c 1 [] false false [d.toNat] (fun m k =>
    doStore c sz.toNat (k.gr d.toNat) (k.pr (r.toNat % 8)).toNat (postOf (decide (8 ≤ r.toNat)) (r.toNat % 8) k) m k))

/-- sz of R49: log2 of the size and sign extension; none for a reserved code. -/
def szLoad (sz : BitVec 3) : Option (Nat × Bool) :=
  match sz.toNat with
  | 0 => some (0, true) | 1 => some (1, true) | 2 => some (2, true) | 3 => some (3, true)
  | 4 => some (0, false) | 5 => some (1, false) | 6 => some (2, false) | _ => none

/-- g[a] + off9 * size. -/
def eaM (a : Word) (off : BitVec 9) (size : Nat) : Nat := (BitVec.ofInt 64 (a.toInt + off.toInt * ((2 ^ size : Nat) : Int))).toNat

def loadM (u : Bool) (c : Nat) (d a : BitVec 4) (sz : BitVec 3) (off : BitVec 9) (m : Mod) : Mod :=
  match szLoad sz with
  | none => issue c 2 [0] false false [] (fun m _ => .ok m) m
  | some (size, sx) => issue c 2 [] false false [a.toNat] (fun m k =>
      doLoad c d.toNat size sx u (eaM (k.gr a.toNat) off size) (fun k => k) m k) m

def execLdFormM (c : Nat) (d a : BitVec 4) (sz : BitVec 3) (off : BitVec 9) (s : State) : Ans := onCpu c s (loadM false c d a sz off)
def execLdU (c : Nat) (d a : BitVec 4) (sz : BitVec 3) (off : BitVec 9) (s : State) : Ans := onCpu c s (loadM true c d a sz off)
def execStFormM (c : Nat) (d a : BitVec 4) (sz : BitVec 3) (off : BitVec 9) (s : State) : Ans :=
  onCpu c s (issue c 2 (if 4 ≤ sz.toNat then [0] else []) false false [a.toNat, d.toNat] (fun m k =>
    doStore c sz.toNat (k.gr d.toNat) (eaM (k.gr a.toNat) off sz.toNat) (fun k => k) m k))

/-- The offset of form P, unscaled in bit-reversed mode (R50). -/
def eaP (k : Core) (n : Nat) (off : BitVec 8) (size : Nat) : Nat :=
  (k.modify n (if k.bitrev n then off.toInt else off.toInt * ((2 ^ size : Nat) : Int))).toNat

def execLdp (c : Nat) (d : BitVec 4) (post : Bool) (n sz : BitVec 3) (u : Bool) (off : BitVec 8) (s : State) : Ans :=
  onCpu c s (match szLoad sz with
    | none => issue c 2 [0] false false [] (fun m _ => .ok m)
    | some (size, sx) => issue c 2 [] false false [] (fun m k =>
        doLoad c d.toNat size sx u (eaP k n.toNat off size) (postOf post n.toNat k) m k))

/-- STP: U is marked 0. -/
def execStp (c : Nat) (d : BitVec 4) (post : Bool) (n sz : BitVec 3) (u : Bool) (off : BitVec 8) (s : State) : Ans :=
  onCpu c s (issue c 2 ((if 4 ≤ sz.toNat then [0] else []) ++ (if u then [1] else [])) false false [d.toNat] (fun m k =>
    doStore c sz.toNat (k.gr d.toNat) (eaP k n.toNat off sz.toNat) (postOf post n.toNat k) m k))

/-- The response of a scalar load reaches the core: data is written when the shadow allows, an access error gives zero
and poison nothing, each with its report (R54, R58, R87), whether or not the load's write has been cancelled. -/
def Core.loadBack (k : Core) (id : Nat) (x : Resp) : Core :=
  let upd := fun (l : Load) => if l.id = id then
    (match x with
      | .data v => { l with val := some (extend l.size l.sx v) }
      | _ => { l with val := some 0 }) else l
  let ea := match k.loads.find? (fun l => l.id == id) with | some l => l.ea | none => 0
  let k1 := { k with
    loads := (match x with | .poison => k.loads.filter (fun l => l.id != id) | _ => k.loads.map upd) }
  let k2 := k1.mature
  match x with
  | .err => k2.report 7 0 ea
  | .poison => k2.report 8 0 ea
  | _ => k2

/-- The report of a write's acknowledgement (R54, R85): poison and access errors have one. -/
def writeReport (sub ea : Nat) (x : Resp) : Option Report :=
  match x with
  | .err => some { cause := 7, sub := sub, addr := ea }
  | .poison => some { cause := 8, sub := sub, addr := ea }
  | _ => none

/-- A vector or tile store has failed at a place of its order: the first such place is kept (R115, R157). -/
def Core.noteFail (k : Core) (id order : Nat) (rep : Report) : Core :=
  if k.fails.any (fun x => x.id == id && decide (x.order ≤ order)) then k
  else { k with fails := k.fails.filter (fun x => x.id != id) ++ [{ id := id, order := order, rep := rep }] }

/-- A vector or tile store has no write left: its first failure is reported. -/
def Core.storeEnd (k : Core) (id : Nat) : Core :=
  { k with fails := k.fails.filter (fun x => x.id != id), reports := k.reports ++ (k.fails.filter (fun x => x.id == id)).map (fun x => x.rep) }

/-- A write's acknowledgement reaches its issuer (R212): each store that it merged reports its failure, a lane of a vector store as part
of its store (R115). -/
def Core.writeBack (k : Core) (marks : List StoreMark) (x : Resp) : Core :=
  marks.foldl (fun k s =>
    match writeReport s.sub s.ea x, s.vec with
    | some r, some id => k.noteFail id s.lane r
    | some r, none => { k with reports := k.reports ++ [r] }
    | none, _ => k) k

/-- A vector store has a write that is still to be written out, issued or acknowledged. -/
def Mod.vstOut (m : Mod) (c id : Nat) : Bool :=
  let mine := fun (l : List StoreMark) => l.any (fun s => s.vec == some id)
  (m.core c).wcb.any (fun l => mine l.marks0 || mine l.marks1) || (m.core c).regQ.any (fun x => x.mark.vec == some id) ||
    m.net.any (fun r => match r.use with | .store c' l => c' == c && mine l | _ => false)

/-- Vector stores whose writes have all been acknowledged report their first failure. -/
def Mod.endVsts (m : Mod) (c : Nat) (marks : List StoreMark) : Mod :=
  (marks.filterMap (fun s => s.vec)).foldl (fun (x : Mod) id => if x.vstOut c id then x else x.onCore c (fun k => k.storeEnd id)) m

/-- A line overlaps a far write entry of a list. -/
def lineOver (l : List RtEntry) (line : Nat) : Bool :=
  l.any (fun e => e.far && e.write && !e.empty && decide (e.lo ≤ line * 2 + 1) && decide (line * 2 ≤ e.hi))

/-- Release the range tracker entries of an owner; far write entries invalidate the Crib lines they overlap, and a fill of such a line
still in flight allocates none and serves no later load (R197). -/
def Core.rtRelease (k : Core) (o : RtOwner) : Core :=
  let gone := k.rt.filter (fun e => e.owner == o)
  { k with
    rt := k.rt.filter (fun e => e.owner != o)
    crib := k.crib.filter (fun l => !lineOver gone l.line)
    fills := k.fills.map (fun f => if lineOver gone f.line then { f with alloc := false } else f) }

/-- A tile store has a write that is still to be issued or acknowledged. -/
def Mod.tstOut (m : Mod) (c n : Nat) : Bool :=
  m.net.any (fun y => match y.use with | .tst c2 n2 _ => c2 == c && n2 == n | _ => false) || (m.core c).regQ.any (fun x => x.tst == some n)

/-- WRITE_ACKNOWLEDGE: request `id` of core or steward `c` has been performed or refused, and its acknowledgement is back. -/
def execWriteAcknowledge (c id : Nat) (s : State) : Ans :=
  onCpu c s (fun m =>
    match m.findReq id with
    | some r =>
      match r.use, r.answer with
      | .store c' marks, some x =>
        if c' = c then (((m.retireReq id).onCore c (fun k => k.writeBack marks x)).regPump c).endVsts c marks else m
      | .tst c' n ea, some x =>
        if c' = c then
          let m1 := ((m.retireReq id).onCore c (fun k =>
            match writeReport 3 ea x with | some rep => k.noteFail n id rep | none => k)).regPump c
          if m1.tstOut c n then m1 else m1.onCore c (fun k => (k.storeEnd n).rtRelease (.tst n))
        else m
      | _, _ => m
    | none => m)

end Sys2Proof.Machine
end

