-- ==== Sys2Proof/Machine/System.lean ====
section
/-! DEFINITION. Special registers (R53, R80, R131, R146, R148, R162, R168, R169, R199, R268, R423), CS writes (R65, R93),
PMSEG and PMLD (R43, R44), NOTICE (R76), exceptions, reports and interrupts (R83 to R93), and gates (R94 to R96). -/

namespace Sys2Proof.Machine

/-- Fields marked 0 hold another value: ILLEGAL with SUB 1 (R47). -/
def marked (l : List Nat) : List Nat := if l.all (fun x => x == 0) then [] else [1]

/-- A special register's number. -/
def SysF.num (f : SysF) : Nat := f.imm.toNat % 1024

/-- What R53 and the units' chapters let a register number do: `task` at task level too, `kern` at kernel level only,
`task level read only` for CS; none where no chapter assigns the number on that processor (R73). -/
inductive SrKind where
  | task | kern | csReg
  deriving DecidableEq, Repr

def srKind (stw : Bool) (n : Nat) : Option SrKind :=
  if n = 0 then some .csReg
  else if n = 1 ∨ n = 2 ∨ n = 0x40 ∨ n = 0x41 ∨ n = 0x42 then some .kern
  else if n = 8 ∨ n = 9 ∨ n = 0xA ∨ (0x10 ≤ n ∧ n ≤ 0x1B) ∨ (0x20 ≤ n ∧ n ≤ 0x37) then some .task
  else if 0x48 ≤ n ∧ n ≤ 0x4A then some .kern
  else if stw then
    if n = 0x71 ∨ n = 0x72 ∨ n = 0x47 then some .kern else none
  else if 0x43 ≤ n ∧ n ≤ 0x47 then some .kern
  else if 0x50 ≤ n ∧ n ≤ 0x54 then some .task
  else if n = 0x55 then some .kern
  else if n = 0x58 ∨ n = 0x59 then some .task
  else if (0x5C ≤ n ∧ n ≤ 0x5F) ∨ (0x60 ≤ n ∧ n ≤ 0x62) then some .kern
  else if 0x100 ≤ n ∧ n ≤ 0x13F then some .task
  else none

/-- Offset in the THRESH page of word w of MD_m, special register 0x100 + 4 m + w (R169). -/
def mdOff (n : Nat) : Nat := 0x200 + (n - 0x100) / 4 * 0x20 + (n - 0x100) % 4 * 8

/-- TTAG (R146): one byte a tile. -/
def Core.ttag (k : Core) : Nat := (List.range 8).foldl (fun v t => v + (SMap.get 0x0B k.tag t).toNat * 2 ^ (8 * t)) 0

/-- The value an MFS reads (R53). CYC returns its stored value plus the open count of cycles since it was last read
(log entry 5). -/
def Mod.readSr (m : Mod) (c n : Nat) : Nat :=
  let k := m.core c
  let page := corePage c 0
  match n with
  | 0 => csWord k.cs k.bank (!k.md.isEmpty)
  | 1 => (k.bankOf k.bank).epc.toNat
  | 2 => (k.bankOf k.bank).ecs.toNat
  | 8 => (k.cyc.toNat + Config.freeNat m.fresh) % 2 ^ 64
  | 9 => k.pl.toNat
  | 0xA => k.ph.toNat
  | 0x40 => m.seg c
  | 0x41 => k.vec.toNat
  | 0x42 => k.esp.toNat
  | 0x43 => k.gateBase
  | 0x44 => k.rgnBase
  | 0x45 => k.rgnLimit
  | 0x46 => k.kloft
  | 0x47 => if isStw c then 0 else m.intp c
  | 0x48 => csWord k.bank1.cs 1 (!k.md.isEmpty)
  | 0x49 => k.bank1.epc.toNat
  | 0x4A => k.bank1.ecs.toNat
  | 0x50 => k.srng.toNat
  | 0x51 => k.tldpos
  | 0x52 => k.accpin
  | 0x53 => k.ttag
  | 0x54 => k.mxdone
  | 0x55 => 0
  | 0x58 => m.reg (c / 256) (page + 2) 0x110
  | 0x59 => m.reg (c / 256) (page + 3) 0x110
  | 0x5C => k.wwin0Base
  | 0x5D => k.wwin0Limit
  | 0x5E => k.wwin1Base
  | 0x5F => k.wwin1Limit
  | 0x60 => k.tctx
  | 0x61 => 0
  | 0x62 => k.tfinfo
  | 0x71 => m.sintp (dieOf c)
  | _ =>
    if 0x10 ≤ n ∧ n ≤ 0x13 then (SMap.get 0 k.lps (n - 0x10)).toNat
    else if 0x14 ≤ n ∧ n ≤ 0x17 then (SMap.get 0 k.lpe (n - 0x14)).toNat
    else if 0x18 ≤ n ∧ n ≤ 0x1B then (SMap.get 0 k.lpc (n - 0x18)).toNat
    else if 0x20 ≤ n ∧ n ≤ 0x27 then (k.pr (n - 0x20)).toNat
    else if 0x28 ≤ n ∧ n ≤ 0x2F then (k.sr (n - 0x28)).toNat
    else if 0x30 ≤ n ∧ n ≤ 0x37 then (k.wr (n - 0x30)).toNat
    else if 0x100 ≤ n ∧ n ≤ 0x13F then m.reg (c / 256) (page + 1) (mdOff n)
    else 0

/-- The ILLEGAL conditions of MFS and MTS: an unassigned number is SUB 0, imm19[18:10] and the fields b and c are
marked 0 (b and c are not used, hence ignored). -/
def srIlls (c : Nat) (f : SysF) : List Nat :=
  (if (srKind (isStw c) (SysF.num f)).isNone then [0] else []) ++ marked [f.imm.toNat / 1024]

/-- MFS: a kernel-only number at task level raises PRIVILEGE with SUB 0. A read of CYC uses an open value. -/
def execMfs (c : Nat) (f : SysF) (s : State) : Ans :=
  onCpu c s (issue c 3 (srIlls c f) false false [] (fun m k =>
    let n := SysF.num f
    if srKind (isStw c) n = some .kern ∧ !k.cs.level then .trap m 3 0 0
    else if n = 0x72 then
      match k.notices with
      | [] => .ok (m.setCore c (k.setG f.a.toNat 0))
      | x :: t =>
        let w := if k.noticeLost then x ||| (1 <<< 62) else x
        .ok (m.setCore c { k.setG f.a.toNat w with notices := t, noticeLost := false })
    else
      let v := BitVec.ofNat 64 (m.readSr c n)
      let m1 := if n = 8 then { m with fresh := m.fresh + 1 } else m
      .ok (m1.setCore c { k.setG f.a.toNat v with cyc := if n = 8 then v else k.cyc })))

/-- What an MTS stores in a register other than CS, PMSEG, TLBINV, WGO and WDKICK; read-only registers keep theirs. -/
def Mod.writeSr (m : Mod) (c n : Nat) (v : Nat) : Mod :=
  let k := m.core c
  let p := fun (k : Core) => m.setCore c k
  let w : Word := BitVec.ofNat 64 v
  match n with
  | 1 => p (k.setBank k.bank { k.bankOf k.bank with epc := BitVec.ofNat 16 v })
  | 2 => p (k.setBank k.bank { k.bankOf k.bank with ecs := w })
  | 0x41 => p { k with vec := BitVec.ofNat 16 v }
  | 0x42 => p { k with esp := w }
  | 0x43 => p { k with gateBase := bits v 10 12 * 1024 }
  | 0x44 => p { k with rgnBase := bits v 0 48 }
  | 0x45 => p { k with rgnLimit := bits v 0 48 }
  | 0x46 => p { k with kloft := bits v 12 11 * 4096 }
  | 0x49 => p { k with bank1 := { k.bank1 with epc := BitVec.ofNat 16 v } }
  | 0x4A => p { k with bank1 := { k.bank1 with ecs := w } }
  | 0x50 => p { k with srng := if bits v 0 32 = 0 then 1 else BitVec.ofNat 32 v }
  | 0x51 => p { k with tldpos := bits v 0 11 }
  | 0x52 => p { k with accpin := bits v 0 16 }
  | 0x54 => p { k with mxdone := bits v 0 7 }
  | 0x5C => p { k with wwin0Base := bits v 0 44 }
  | 0x5D => p { k with wwin0Limit := bits v 0 44 }
  | 0x5E => p { k with wwin1Base := bits v 0 44 }
  | 0x5F => p { k with wwin1Limit := bits v 0 44 }
  | 0x60 => p { k with tctx := bits v 12 32 * 4096 + bits v 0 8 }
  | _ =>
    if 0x10 ≤ n ∧ n ≤ 0x13 then p { k with lps := SMap.put 0 k.lps (n - 0x10) (BitVec.ofNat 16 v) }
    else if 0x14 ≤ n ∧ n ≤ 0x17 then p { k with lpe := SMap.put 0 k.lpe (n - 0x14) (BitVec.ofNat 16 v) }
    else if 0x18 ≤ n ∧ n ≤ 0x1B then p { k with lpc := SMap.put 0 k.lpc (n - 0x18) w }
    else if 0x20 ≤ n ∧ n ≤ 0x27 then p (k.setPtr (n - 0x20) w)
    else if 0x28 ≤ n ∧ n ≤ 0x2F then p (k.setStep (n - 0x28) w)
    else if 0x30 ≤ n ∧ n ≤ 0x37 then p (k.setWrap (n - 0x30) w)
    else if 0x100 ≤ n ∧ n ≤ 0x13F then m.commonWrite c (c / 256) (corePage c 1) (mdOff n) (2 ^ 64 - 1) v
    else m

/-- Schedule a CS write in the active bank: it takes effect after the two instructions that follow (R65). The count is 3
because the MTS itself ages the queue when it retires. -/
def Core.scheduleCs (k : Core) (v : Nat) (stw : Bool) : Core := { k with csq := k.csq ++ [(csOfWord v k.bank stw, 3)] }

/-- MTS to CS; at task level it raises PRIVILEGE with SUB 0. -/
def doMtsCs (c : Nat) (f : SysF) (m : Mod) (k : Core) : Res :=
  if !k.cs.level then .trap m 3 0 0
  else .ok (m.setCore c (k.scheduleCs (k.gr f.a.toNat).toNat (isStw c)))

/-- MTS to PMSEG (R44, R53): XP is stored, WL bits are set; the next fetch sees the new permissions. -/
def doMtsPmseg (c : Nat) (f : SysF) (m : Mod) (k : Core) : Res :=
  if !k.cs.level then .trap m 3 0 0
  else
    let v := (k.gr f.a.toNat).toNat
    if isStw c then .ok (m.setCore c { k with seg := bits v 0 16 + (bits k.seg 16 16 ||| bits v 16 16) * 65536 })
    else .ok (m.commonWrite c (c / 256) (corePage c 0) 0x110 (2 ^ 64 - 1) v)

/-- An MTS of TLBINV (R204): the write-combining buffer is drained, then the selected entries go; a walk in flight whose
entry would have gone does not fill. -/
def doTlbinv (c : Nat) (f : SysF) (m : Mod) (k : Core) : Res :=
  if !k.cs.level then .trap m 3 0 0
  else
    let v := (k.gr f.a.toNat).toNat
    let asid := bits v 8 8
    let va := bits v 21 27 * 2 ^ 21
    let hit := fun (e : TlbEntry) => match bits v 62 2 with
      | 0 => true | 1 => e.asid == asid | 2 => e.covers asid va | _ => false
    let m1 := m.drainWcb c
    if m1.writesOut c then .stay m1
    else .ok (m1.onCore c (fun k => { k with
      tlb := k.tlb.filter (fun e => !hit e)
      walk := k.walk.map (fun (x : Walk) =>
        { x with noFill := x.noFill || (match bits v 62 2 with
            | 0 => true | 1 => x.asid == asid
            | 2 => x.asid == asid && (x.va / 2 ^ 21 == va / 2 ^ 21 ||
                (match x.result with | some (.inl e) => e.big && x.va / 2 ^ 30 == va / 2 ^ 30 | _ => false))
            | _ => false) }) }))

/-- An MTS of a register that needs no row of its own. PL and PH wait for MBUSY 0 (R60). BK1_CS follows R65 while bank 1
is active. -/
def doMts (c : Nat) (f : SysF) (m : Mod) (k : Core) : Res :=
  let n := SysF.num f
  let v := (k.gr f.a.toNat).toNat
  if srKind (isStw c) n = some .kern ∧ !k.cs.level then .trap m 3 0 0
  else match n with
    | 9 => if k.md.isEmpty then .ok (m.setCore c { k with pl := BitVec.ofNat 64 v }) else .stay m
    | 0xA => if k.md.isEmpty then .ok (m.setCore c { k with ph := BitVec.ofNat 64 v }) else .stay m
    | 0x48 =>
      if k.bank = 1 then .ok (m.setCore c (k.scheduleCs v (isStw c)))
      else .ok (m.setCore c { k with bank1 := { k.bank1 with cs := csOfWord v 1 (isStw c) } })
    | _ => .ok (m.writeSr c n v)

def execMtsCs (c : Nat) (f : SysF) (s : State) : Ans :=
  onCpu c s (issue c 3 (marked [f.imm.toNat / 1024]) false false [f.a.toNat] (doMtsCs c f))

def execMtsPmseg (c : Nat) (f : SysF) (s : State) : Ans :=
  onCpu c s (issue c 3 (marked [f.imm.toNat / 1024]) false false [f.a.toNat] (doMtsPmseg c f))

/-- A pending CS write whose two following instructions have issued takes effect (R65). It takes effect at the latest
when the next instruction issues or the next event is entered. -/
def execCsWriteCommit (c : Nat) (s : State) : Ans := onCpu c s (fun m => m.onCore c Core.commitDue)

/-- MFS of NOTICE (R76). -/
def execNoticeRead (c : Nat) (f : SysF) (s : State) : Ans := execMfs c { f with imm := 0x72 } s

/-- PMLD (R43, R44). A segment of the destination that is write-locked or executable raises PRIVILEGE SUB 2. -/
def execPmld (c : Nat) (f : SysF) (s : State) : Ans :=
  onCpu c s (issue c 3 (marked [f.imm.toNat]) true false [f.a.toNat, f.b.toNat, f.c.toNat] (fun m k =>
    let src := (k.gr f.a.toNat).toNat
    let dst := (k.gr f.b.toNat).toNat % 65536
    let n := (k.gr f.c.toNat).toNat
    let seg := m.seg c
    let top := if isStw c then 0x200000 else 0x400000
    let blocked := n != 0 && (List.range 16).any (fun i =>
      decide (dst < i * 0x1000 + 0x1000) && decide (i * 0x1000 < dst + n) &&
        (bits seg i 1 == 1 || bits seg (16 + i) 1 == 1))
    if !k.cs.level || blocked then .trap m 3 2 0
    else if src % 2 = 1 then .trap m 4 3 src
    else if 0x10000 < n then .trap m 4 3 n
    else if top < src + 2 * n then .trap m 4 3 src
    else if 0x10000 < dst + n then .trap m 4 3 dst
    else if k.rtBlocks c false src (2 * n) false then .stay m
    else
      let key := loftKey c + src
      let m1 := (List.range n).foldl (fun (x : Mod) i =>
        x.setParcel c (dst + i) (if m.wordsOk (key + 2 * i) 2 then BitVec.ofNat 14 (m.rd (key + 2 * i) 2) else 0)) (m.scrub key (2 * n))
      .ok (if n = 0 then m1 else match m.firstBad key (2 * n) with
        | some a => m1.onCore c (fun k => k.report 6 5 (a - loftKey c))
        | none => m1)))

/-! ### Exceptions, reports, interrupts -/

/-- The parcels at the PC of a core, and the instruction that they encode; none for an encoding that no chapter assigns (R46, R47). -/
def Mod.parcelAt (m : Mod) (c i : Nat) : Nat := (m.parcel c ((m.core c).pc.toNat + i)).toNat
def Mod.insnAt (m : Mod) (c : Nat) : Option Instr := decodeCore c (m.parcelAt c)

/-- With no fault pending, the instruction at the PC raises a fetch fault. Kind 0: the `i`-th of its parcels holds an uncorrectable error, and
LOFT_ECC SUB 3 names that parcel (DESIGN CHOICE where several do, log entry 117). Else: its parcels encode no instruction, and ILLEGAL SUB 0 is
raised; in a segment without XP, NX (R45, R47, R86). -/
def Mod.fetchFault (m : Mod) (c : Nat) (fetch : Option (Nat × Nat)) : Mod :=
  let m1 := m.onCore c Core.commitDue
  let k := m1.core c
  let n := parcelsOf (m.parcelAt c 0)
  match fetch, k.trap with
  | some (kind, i), none =>
    if !k.canIssue || m.stalled c || m1.irqDue c then m
    else if kind = 0 then m1.setCore c (k.raise 6 3 ((k.pc.toNat + i % n) % 65536) false)
    else if (m.insnAt c).isSome then m
    else issue c n [0] false false [] (fun m _ => .ok m) m
  | _, _ => m

/-- The pending precise fault is entered once every load has arrived and MBUSY is 0 (R63, R88). A report that arrives meanwhile is taken
instead, and the fault recurs (R87). -/
def Mod.enterFault (m : Mod) (c : Nat) : Mod :=
  let k := (m.core c).undoBranch
  match k.trap with
  | some t => if k.settled && !(m.core c).reportDue then (m.setCore c k).takeEvent c t.cause t.sub t.addr t.epc t.bd t.rs else m
  | none => m

/-- A held SEND's message has already been placed: its response is on the way, and the SEND completes (R259). -/
def Mod.sendTaken (m : Mod) (c : Nat) : Bool :=
  m.chuteReqs.any (fun r => r.core == some c && r.wain.isNone && r.resp == some 1)

/-- The request of a held SEND that has not been placed is withdrawn (R259). -/
def Mod.withdrawSend (m : Mod) (c : Nat) : Mod :=
  { m with chuteReqs := m.chuteReqs.filter (fun r => !(r.core == some c && r.wain.isNone)) }

/-- INTERRUPT_ENTRY: a pending interrupt is taken at a boundary that meets R62 with CS.IE 1, never in bank 2, nor in
bank 1 while EXL is 1 (R89). A held WAIT, WAITG, SEND or RECV is withdrawn (R234, R259); a fence, SIG, ARRIVE or TRYSEND
is not interrupted. A TLD whose issue met R62 stops partway, with ECS.RS set (R101). -/
def execInterruptEntry (c : Nat) (s : State) : Ans :=
  onCpu c s (fun m =>
    let k := (m.core c).commitDue
    let heldOk := match k.hold with
      | none => true
      | some h => decide (h.kind = .wait ∨ h.kind = .waitg ∨ h.kind = .send ∨ h.kind = .recv) || (decide (h.kind = .tld) && h.sent)
    if k.running && k.trap.isNone && !k.reportDue && heldOk && k.cs.ie && decide (k.bank < 2) && !k.exlOn &&
        k.quietBoundary && k.settled && m.pendingIrq c != 0 && !m.sendTaken c then
      let m1 := m.withdrawSend c
      (m1.setCore c { k.tldStop with hold := none, idle := false }).takeEvent c 0x20 0 0 k.pc false
        (k.hold.any (fun h => decide (h.kind = .tld)))
    else m)

/-- The oldest report that may be taken is entered at this boundary (R87), or halts the core in bank 2 (R90). A fault of the
instruction at the boundary recurs when it is executed again. -/
def Mod.enterReport (m : Mod) (c : Nat) : Mod :=
  let k := (m.core c).commitDue
  let heldOk := match k.hold with
    | none => true
    | some h => decide (h.kind = .wait ∨ h.kind = .waitg ∨ h.kind = .send ∨ h.kind = .recv)
  if k.running && k.reportDue && heldOk && k.walk.isNone && k.settled && !m.sendTaken c then
    match k.reports.find? (fun r => !(r.deferred && k.exlOn)) with
    | some r =>
      let m1 := (m.withdrawSend c).setCore c { k with reports := k.reports.erase r, trap := none, hold := none, idle := false }
      m1.takeEvent c r.cause r.sub r.addr k.pc false false
    | none => m
  else m

/-- ERET (R91): it waits as R63 requires, commits a pending CS write, and returns from the active bank. PBANK 3 names no
bank; the bank entered is then an open value below 3 (log entry 6). -/
def execEret (c : Nat) (f : SysF) (s : State) : Ans :=
  onCpu c s (fun m0 =>
    let k0 := (m0.core c).commitCs
    issue c 3 (marked [f.a.toNat, f.b.toNat, f.c.toNat, f.imm.toNat] ++ (if k0.bank = 0 then [5] else [])) true true []
      (fun m k =>
        if !k.settled then .stay m
        else
          let k := k.drain.commitCs
          if !k.cs.level then .trap m 3 4 0
          else
            let b := k.bankOf k.bank
            let e := b.ecs.toNat
            let pb := bits e 12 2
            if pb = k.bank then
              .jump (m.setCore c (k.setBank k.bank { b with cs :=
                { level := isStw c || bits e 11 1 == 1, ie := bits e 10 1 == 1 && k.bank != 2, le := bits e 9 1 == 1, exl := false } })) b.epc
            else
              let nb := if pb = 3 then Config.freeNat m.fresh % 3 else pb
              .jump ((if pb = 3 then { m with fresh := m.fresh + 1 } else m).setCore c { k with bank := nb }) b.epc) m0)

/-! ### Gates -/

/-- The pointer checks of R95: the first argument that fails. -/
def gateArg (k : Core) (ptr sized argc : Nat) : Option (Nat × Nat) :=
  ((List.range argc).map (fun i => i + 1)).findSome? (fun n =>
    if bits ptr (n - 1) 1 = 1 then
      let len := if n ≤ 5 ∧ bits sized (n - 1) 1 = 1 then (k.gr (n + 1)).toNat else 1
      let span := k.rgnLimit - k.rgnBase
      let a := (k.gr n).toNat
      if k.rgnLimit ≤ k.rgnBase ∨ a < k.rgnBase ∨ span < len ∨ span - len < a - k.rgnBase then some (n, a) else none
    else none)

/-- SYSCALL (R95). -/
def execSyscall (c : Nat) (f : SysF) (s : State) : Ans :=
  onCoreOnly c 3 s (issue c 3 (marked [f.a.toNat, f.b.toNat, f.c.toNat, f.imm.toNat / 64]) true true [1, 2, 3, 4, 5, 6, 15]
    (fun m k0 =>
      let k := k0.commitCs
      let n := f.imm.toNat % 64
      let t := k.gateBase
      let key := loftKey c
      if t < k.kloft ∨ 0x400000 < t + 0x400 then .trap m 0xD 2 n
      else if k.rtBlocks c false (t + 16 * n) 16 false then .stay m
      else match m.firstBad (key + t + 16 * n) 16 with
        | some a => .trap m 6 4 (a - key)
        | none =>
          let m := m.scrub (key + t + 16 * n) 16
          let d0 := m.rd (key + t + 16 * n) 8
          let nsp := m.rd (key + t + 16 * n + 8) 8
          let argc := bits d0 16 3
          if bits d0 63 1 = 0 then .trap m 0xD 0 n
          else if 6 < argc then .trap m 0xD 1 n
          else match (if k.cs.level then none else gateArg k (bits d0 19 6) (bits d0 25 5) argc) with
            | some (i, a) => .trap m 0xC i a
            | none =>
              let fp := ((if k.cs.level then (k.gr 15).toNat else nsp) + 2 ^ 64 - 16) % 2 ^ 64
              if fp % 16 ≠ 0 ∨ 0x400000 ≤ fp then .trap m 4 4 fp
              else if k.rtBlocks c false fp 16 true then .stay m
              else
                let m1 := (m.wr (key + fp) 8 (k.gr 15).toNat).wr (key + fp + 8) 8
                  (b2n k.cs.level * 65536 + (k.pc.toNat + 3) % 65536)
                let k1 := (List.range 6).foldl (fun (x : Core) i => if argc < i + 1 then x.setG (i + 1) 0 else x) k
                .jump (m1.setCore c (((k1.setG 15 (BitVec.ofNat 64 fp))).setCs { k.cs with level := bits d0 30 1 == 1 }))
                  (BitVec.ofNat 16 d0)))

/-- GRET (R96). -/
def execGret (c : Nat) (f : SysF) (s : State) : Ans :=
  onCoreOnly c 3 s (issue c 3 (marked [f.a.toNat, f.b.toNat, f.c.toNat, f.imm.toNat]) true true [15]
    (fun m k0 =>
      let k := k0.commitCs
      let fp := (k.gr 15).toNat
      let key := loftKey c
      if fp % 16 ≠ 0 ∨ 0x400000 ≤ fp then .trap m 4 4 fp
      else if k.rtBlocks c false fp 16 false then .stay m
      else match m.firstBad (key + fp + 8) 8 with
        | some a => .trap m 6 4 (a - key)
        | none =>
          let r := m.rd (key + fp + 8) 8
          if !k.cs.level ∧ bits r 16 1 = 1 then .trap (m.scrub (key + fp + 8) 8) 3 3 0
          else match m.firstBad (key + fp) 8 with
          | some a => .trap m 6 4 (a - key)
          | none => .jump ((m.scrub (key + fp) 16).setCore c ((k.setG 15 (BitVec.ofNat 64 (m.rd (key + fp) 8))).setCs
            { k.cs with level := bits r 16 1 == 1 })) (BitVec.ofNat 16 r)))

end Sys2Proof.Machine
end

