-- ==== Sys2Proof/Machine/Sync.lean ====
section
/-! DEFINITION. Fences (R217, R218), sheaf counters (R228 to R236), SIG and WAIT (R232 to R235), and stook lines
(R240 to R244). -/

namespace Sys2Proof.Machine

/-! ### Fences -/

/-- Complete or hold a fence of a scope and kind: 1 release, 2 acquire, 3 both (R218). -/
def fenceBody (c scope kind : Nat) (m : Mod) (_k : Core) : Res :=
  let m1 := if kind % 2 = 1 then m.beginRelease c scope else m
  let relOk := kind % 2 = 0 || m1.releaseDone c scope
  let k1 := m1.core c
  if relOk && k1.loadsBack then
    .ok (m1.setCore c { (if 2 ≤ kind then k1.acquire scope else k1) with hold := none })
  else .stay (m1.setCore c { k1 with hold := some (Hold.mk .fence false (0) (kind) (scope) none [] 0) })

/-- The ILLEGAL conditions of R217. -/
def fenceIlls (f : SysF) : List Nat :=
  (if bits f.imm.toNat 2 2 = 3 ∨ bits f.imm.toNat 0 2 = 0 then [0] else []) ++
    marked [f.a.toNat, f.b.toNat, f.c.toNat, f.imm.toNat / 16]

/-- FENCE with the scope and kind of its immediate. -/
def execFence (c : Nat) (f : SysF) (s : State) : Ans :=
  onCpu c s (issueHeld .fence c (fenceIlls f) [] (fenceBody c (bits f.imm.toNat 2 2) (bits f.imm.toNat 0 2)))

/-- FENCE.REL at a scope; scope 3 raises ILLEGAL. -/
def execFenceRel (c : Nat) (scope : BitVec 2) (s : State) : Ans :=
  onCpu c s (issueHeld .fence c (if scope = 3 then [0] else []) [] (fenceBody c scope.toNat 1))

/-- FENCE.ACQ at a scope. -/
def execFenceAcq (c : Nat) (scope : BitVec 2) (s : State) : Ans :=
  onCpu c s (issueHeld .fence c (if scope = 3 then [0] else []) [] (fenceBody c scope.toNat 2))

/-! ### Sheaf counters -/

/-- A sheaf counter's register: die, page, offset, and its number in its set. -/
structure Cnt where
  die : Nat
  page : Nat
  off : Nat
  num : Nat
  kind : Nat
  deriving DecidableEq, Repr

/-- The counter a reference of R230 names; none when malformed (R231). -/
def cntOf (ref : Nat) : Option Cnt :=
  let n := ref % 1024
  match bits ref 30 2 with
  | 0 =>
    let c := bits ref 16 10
    if bits ref 10 6 = 0 ∧ bits ref 26 4 = 0 ∧ n < 32 ∧ isCore c ∧ ref < 2 ^ 32 then
      some { die := c / 256, page := corePage c 6, off := 0x200 + n * 8, num := n, kind := 0 } else none
  | 1 =>
    let d := bits ref 16 3
    if bits ref 10 6 = 0 ∧ bits ref 19 11 = 0 ∧ d < 4 ∧ ref < 2 ^ 32 then
      some { die := d, page := 2310 + n / 448, off := 0x200 + n % 448 * 8, num := n, kind := 1 } else none
  | 2 =>
    if bits ref 10 20 = 0 ∧ n < 256 ∧ ref < 2 ^ 32 then
      some { die := 4 + n / 128, page := 2070, off := 0x200 + n % 128 * 8, num := n, kind := 2 } else none
  | _ => none

/-- References of the three sets. -/
def scRef (c n : Nat) : Nat := c * 65536 + n
def dcRef (d n : Nat) : Nat := 2 ^ 30 + d * 65536 + n
def mcRef (n : Nat) : Nat := 2 ^ 31 + n

/-- The reference a short number names for its issuer (R230); none for a number that raises ILLEGAL SUB 0. -/
def shortRef (c n : Nat) : Option Nat :=
  let d := dieOf c
  if n < 32 then (if isStw c then none else some (scRef c n))
  else if n < 1056 then (if isStw c && decide (4 ≤ d) then none else some (dcRef d (n - 32)))
  else if n < 1312 then some (mcRef (n - 1056))
  else none

def Cnt.mpa (x : Cnt) : Nat := regMpa x.die x.page x.off

def Mod.cntVal (m : Mod) (x : Cnt) : Nat := m.reg x.die x.page x.off

/-- The owner of a counter admits a core of a partition (R231). -/
def Mod.cntOwned (m : Mod) (x : Cnt) (c : Nat) : Bool :=
  match x.kind with
  | 0 => m.partition c == m.partition (x.die * 256 + x.page / 8) && c / 256 == x.die
  | 1 => m.partition c == m.fld x.die 2312 (0x600 + x.num / 16 * 8) (4 * (x.num % 16)) 4 && c / 256 == x.die
  | _ =>
    let o := 0x600 + x.num % 128 / 8 * 8
    let b := 8 * (x.num % 8)
    m.fld x.die 2070 o (b + 4) 4 == 0xF ||
      (m.fld x.die 2070 o (b + 4) 4 == c / 256 && m.fld x.die 2070 o b 4 == m.partition c)

/-- An increment by requester `q` is admitted (R231): stewards, the host and cadence slots always. -/
def Mod.incAllowed (m : Mod) (x : Cnt) (q : Nat) : Bool := decide (0xF00 ≤ q) || m.cntOwned x q

/-- A wait by core or steward `c` is admitted (R228, R231, R73). -/
def Mod.waitAllowed (m : Mod) (x : Cnt) (c : Nat) : Bool :=
  if isStw c then x.kind == 2 || (x.kind == 1 && x.die == dieOf c)
  else m.cntOwned x c && (x.kind != 0 || x.page == corePage c 6)

/-- A core counter whose core is under CR or PR, or retired, takes no increment (R420). -/
def Mod.cntGone (m : Mod) (x : Cnt) : Bool :=
  x.kind == 0 && (m.coreSweep (x.die * 256 + x.page / 8) || m.retired (x.die * 256 + x.page / 8))

/-- Apply an increment at its home (R229): it saturates, and records SATURATED. -/
def Mod.applyInc (m : Mod) (x : Cnt) (amount q : Nat) : Mod :=
  let v := m.cntVal x
  if v + amount < 2 ^ 64 then m.setReg x.die x.page x.off (v + amount)
  else (m.setReg x.die x.page x.off (2 ^ 64 - 1)).err x.die x.page 8 q x.num 0

/-- Record a refusal under R231 in the counter's page. -/
def Mod.cntDenied (m : Mod) (x : Cnt) (q : Nat) : Mod := m.err x.die x.page 9 q x.num 0

/-- Decoded operands of SIG and WAIT (R232): scope, and the reference. -/
def sigRef (c : Nat) (f : SysF) (k : Core) : Nat :=
  if bits f.imm.toNat 16 1 = 1 then (k.gr f.b.toNat).toNat else (shortRef c (bits f.imm.toNat 0 11)).getD 0

def sigIlls (c : Nat) (f : SysF) (isWait : Bool) : List Nat :=
  let i := f.imm.toNat
  let r := bits i 16 1
  (if bits i 17 2 = 3 ∨ (r = 0 ∧ (shortRef c (bits i 0 11)).isNone) then [0] else []) ++
    marked [bits i 11 4, if r = 0 then f.b.toNat else bits i 0 11,
      if isWait then (if bits i 15 1 = 1 then 0 else f.c.toNat) else f.c.toNat + bits i 15 1]

/-- The instruction at issue of `c` completes after having been held. -/
def Mod.finish (m : Mod) (c : Nat) : Mod :=
  m.retires c (fun k => ({ k with hold := none } : Core).retire (k.pc + 3) (k.pc + 3))

/-- Put an increment on its way from a die to its counter's home (R229, R322). -/
def Mod.putInc (m : Mod) (x : Cnt) (ref amount q die : Nat) (sig : Option Nat) (vc : Vc) (wain : Option (Nat × Nat) := none)
    (slot : Option Nat := none) : Mod :=
  { m with
    incs := m.incs ++ [{ ref := ref, amount := amount, q := q, sig := sig, die := die, wain := wain, slot := slot
                         path := m.way vc (reqSite q die) (pageSite x.die x.page) none false false }]
    nextId := m.nextId + 1 }

/-- Send an increment that no instruction waits for; none where the reference is malformed, names no counter, or its route is cut. -/
def Mod.sendInc (m : Mod) (ref amount q die : Nat) (vc : Vc) (slot : Option Nat := none) : Option Mod :=
  match cntOf ref with
  | none => none
  | some x => if m.routeCut die x.die x.mpa then none else some (m.putInc x ref amount q die none vc none slot)

/-- SIG sends its increment, or completes refused or cut off (R231, R233). -/
def sigSend (c ref amount : Nat) (m : Mod) : Res :=
  let rep := fun (m : Mod) (cause mpa : Nat) => Res.ok (m.onCore c (fun k => ({ k with hold := none } : Core).report cause 1 (mpa % 2 ^ 48)))
  match cntOf ref with
  | none => rep m 7 0
  | some x =>
    if !m.incAllowed x (reqCode c) then rep (m.cntDenied x (reqCode c)) 7 x.mpa
    else if m.cntGone x then rep m 7 x.mpa
    else if m.routeCut (dieOf c) x.die x.mpa then rep m 8 x.mpa
    else .stay ((m.putInc x ref amount (reqCode c) (dieOf c) (some c) .msg).onCore c
      (fun k => { k with hold := some (Hold.mk .sig true (ref) (amount) (0) (none) ([]) (x.mpa)) }))

/-- SIG: a release at its scope, then the increment; issue is held until the home has applied it (R233). -/
def execSig (c : Nat) (f : SysF) (s : State) : Ans :=
  onCpu c s (issueHeld .sig c (sigIlls c f false) (if bits f.imm.toNat 16 1 = 1 then [f.a.toNat, f.b.toNat] else [f.a.toNat])
    (fun m k =>
      if (k.hold.map (fun h => h.sent)).getD false then .stay m
      else
        let scope := bits f.imm.toNat 17 2
        let ref := sigRef c f k
        let amount := (k.gr f.a.toNat).toNat
        let m1 := m.beginRelease c scope
        if m1.releaseDone c scope then sigSend c ref amount m1
        else .stay (m1.onCore c (fun k => { k with hold := some (Hold.mk .sig false (ref) (amount) (scope) none [] 0) }))))

/-- COUNTER_INCREMENT: the `i`-th increment in flight, having made its way, reaches its counter's home; a SIG that waits for it
completes. One that a cut route (R10, R233) or a flit error (R330) has poisoned is not applied, and its SIG reports poison; a Wain's
program ends (R279), and a cadence slot sets SLOT_FAIL (R381). -/
def execCounterIncrement (i : Nat) (s : State) : Ans :=
  .next { s with mod :=
    match s.mod.incs[i]? with
    | none => s.mod
    | some x =>
      if !x.path.arrived then s.mod
      else
      let m := ({ s.mod with incs := s.mod.incs.eraseIdx i } : Mod).flitSeen x.path.flit x.path.lastStop x.q 0
      match cntOf x.ref with
      | none => m
      | some n =>
        let cut := x.cut || decide (x.path.flit = .uncorrectable)
        let m1 := if cut || m.cntGone n then m else m.applyInc n x.amount x.q
        match x.sig with
        | none =>
          (match x.wain, x.slot with
          | some w, _ => m1.wainNoteAt w.1 w.2 (if cut then some (14, n.mpa) else if m.cntGone n then some (15, n.mpa) else none)
          | none, some k => if cut then m1.err x.die (cadPage x.die) 9 x.q k 0 else m1
          | none, none => m1)
        | some c =>
          let m2 := if cut then m1.onCore c (fun k => k.report 8 1 (n.mpa % 2 ^ 48))
            else if m.cntGone n then m1.onCore c (fun k => k.report 7 1 (n.mpa % 2 ^ 48)) else m1
          if (m2.core c).hold.any (fun h => decide (h.kind = .sig) && h.sent) then m2.finish c else m2 }

/-- WAIT's comparison for a hold record: completes, stays, or ends with a report (R231, R234, R235). A record whose comparator's route has
been cut while it was armed is no longer marked sent (`Mod.cutWaits`). -/
def waitStep (c : Nat) (h : Hold) (m : Mod) : Option Mod :=
  let rep := fun (m : Mod) (cause mpa : Nat) => some (m.onCore c (fun k => ({ k with hold := none } : Core).report cause 0 (mpa % 2 ^ 48)))
  match cntOf h.obj with
  | none => rep m 7 0
  | some x =>
    if !m.waitAllowed x c then rep (m.cntDenied x (reqCode c)) 7 x.mpa
    else if !h.sent || m.routeCut (dieOf c) x.die x.mpa then rep m 8 x.mpa
    else
      let v := m.cntVal x
      if h.target ≤ v ∧ (m.core c).loadsBack then
        some (m.onCore c (fun k =>
          let k1 := { k.acquire h.scope with hold := none }
          match h.dest with | some d => k1.setG d (BitVec.ofNat 64 v) | none => k1))
      else none

/-- WAIT: held at issue while the counter is below its target (R234). -/
def execWait (c : Nat) (f : SysF) (s : State) : Ans :=
  onCpu c s (issueHeld .wait c (sigIlls c f true) (if bits f.imm.toNat 16 1 = 1 then [f.a.toNat, f.b.toNat] else [f.a.toNat])
    (fun m k =>
      let h : Hold := Hold.mk .wait true (sigRef c f k) ((k.gr f.a.toNat).toNat) (bits f.imm.toNat 17 2) (if bits f.imm.toNat 15 1 = 1 then some f.c.toNat else none) [] 0
      match waitStep c h m with
      | some m1 => .ok m1
      | none => .stay (m.onCore c (fun k => { k with hold := some h }))))

/-- WAIT_COMPLETE: a held WAIT whose condition holds now completes. -/
def execWaitComplete (c : Nat) (s : State) : Ans :=
  onCpu c s (fun m =>
    match (m.core c).hold with
    | some h => if h.kind = .wait then (match waitStep c h m with | some m1 => m1.finish c | none => m) else m
    | none => m)

/-- The counter that a counter WAIT of a Wain holds on, if it holds. -/
def Mod.wainWaits (m : Mod) (w : Nat) (x : Wain) : Option Cnt :=
  if m.wainState w = 2 then x.instr.bind (fun v => cntOf (bits v 208 32)) else none

/-- Held WAITs of cores and Wains whose route to their comparator is cut now (R235, R278). -/
def Mod.cutWaits (m0 : Mod) : Mod :=
  let m := m0.wains.foldl (fun (x : Mod) e =>
    if (m0.wainWaits e.1 e.2).any (fun n => m0.routeCut (wainDie e.1) n.die n.mpa) then x.setWain e.1 { e.2 with cut := true } else x) m0
  m.cores.foldl (fun (x : Mod) e =>
    match e.2.hold with
    | some h =>
      if h.kind = .wait ∧ (cntOf h.obj).any (fun n => m.routeCut (dieOf e.1) n.die n.mpa) = true then
        x.setCore e.1 { e.2 with hold := some { h with sent := false } }
      else x
    | none => x) m

/-- A die goes into DR or a link leaves data mode: what is on its way over it completes with poison (R10, R345). -/
def Mod.cutTraffic (m : Mod) : Mod := m.cutFlights.cutWaits

/-- The counter that a write to SHEAF_INC of a page names, if its set has it (R236). -/
def sheafIncRef (die page v : Nat) : Option Cnt :=
  let idx := bits v 32 10
  let ref := if page < 2048 then (if idx < 32 then some (scRef (die * 256 + page / 8) idx) else none)
    else if die < 4 then some (dcRef die idx)
    else (if idx < 256 then some (mcRef idx) else none)
  ref.bind cntOf

/-- SHEAF_INC (R236): adds to a counter of the page's set; a module counter of the other Barn is forwarded there; an
INDEX beyond the set sets DENIED; one to a counter of a core under CR or PR or retired is discarded (R420). -/
def Mod.sheafInc (m : Mod) (q die page v : Nat) : Mod :=
  match sheafIncRef die page v with
  | some x => if !m.incAllowed x q then m.cntDenied x q else if m.cntGone x then m else m.applyInc x (bits v 0 32) q
  | none => m.err die page 9 q (bits v 32 10) 0

/-- The counter's owner refuses a write to SHEAF_INC, or its core is under CR or PR or retired: an ACCESS_ERROR at the requester (R231,
R408, R420). -/
def Mod.incRefused (m : Mod) (q die page v : Nat) : Bool :=
  match sheafIncRef die page v with
  | some x => !m.incAllowed x q || m.cntGone x
  | none => false

/-! ### Stook lines -/

/-- The line's participation mask on a die as 256 bits, bit 255 the steward (R244); lines 8 to 11 are MST_0 to MST_3. -/
def Mod.stookMask (m : Mod) (die line : Nat) : Nat :=
  if die < 4 then
    let base := if line < 8 then 0x100 + line * 0x20 else 0x200 + (line - 8) * 0x20
    (List.range 4).foldl (fun v w => v + m.reg die 2313 (base + w * 8) * 2 ^ (64 * w)) 0
  else if 8 ≤ line ∧ m.fld die 2071 0x100 (line - 8) 1 = 1 then 2 ^ 255 else 0

/-- Bit of a core or steward in such a mask. -/
def stookBit (c : Nat) : Nat := if isStw c then 255 else c % 256

/-- Participants whose contribution counts: a retired core contributes 1 (R242). -/
def Mod.stookActive (m : Mod) (die mask : Nat) : Nat :=
  (List.range 256).foldl (fun v i =>
    if bits mask i 1 = 1 ∧ !(i != 255 && die < 4 && m.retired (die * 256 + i)) then v + 2 ^ i else v) 0

def Mod.stookFlags (m : Mod) (die line : Nat) : Nat := (SMap.get 0 m.flags (die * 16 + line)).toNat
def Mod.setFlags (m : Mod) (die line v : Nat) : Mod :=
  { m with flags := SMap.put 0 m.flags (die * 16 + line) (BitVec.ofNat 256 v) }

/-- The generation bit a core or steward on a die sees (R244). -/
def Mod.stookGen (m : Mod) (die line : Nat) : Nat :=
  if line < 8 then m.fld die 2313 0x288 line 1
  else if die < 4 then m.fld die 2313 0x288 line 1
  else m.fld 4 2071 0x128 (line - 8) 1

/-- A die's contribution to a module line: every named participant has arrived, and no DR holds it at 0 (R242). -/
def Mod.stookDieOk (m : Mod) (die line : Nat) : Bool :=
  let act := m.stookActive die (m.stookMask die line)
  !(m.dr.contains die) && !(bits (SMap.get 0 m.held (line - 8)) die 1 == 1) && (act &&& m.stookFlags die line) == act

/-- Evaluate the AND of a line (R240): when true, G toggles and every arrival flag clears; a line without participants never toggles.
The AND of a line whose participants are all retired is always true: the model toggles it once at each event that evaluates it, a write of
a mask or of STEWARD_RETIRE (DESIGN CHOICE, log entry 103). -/
def Mod.stookEval (m : Mod) (die line : Nat) : Mod :=
  if line < 8 then
    let act := m.stookActive die (m.stookMask die line)
    if m.stookMask die line ≠ 0 ∧ (act &&& m.stookFlags die line) = act then
      (m.setFld die 2313 0x288 line 1 (1 - m.fld die 2313 0x288 line 1)).setFlags die line 0
    else m
  else
    let n := line - 8
    let dies := (List.range 6).filter (fun d => m.fld 4 2071 (0x108 + n * 8) d 1 == 1)
    if dies.any (fun d => m.stookMask d line != 0) && dies.all (fun d => m.stookDieOk d line) then
      let g := 1 - m.fld 4 2071 0x128 n 1
      let m1 := m.setFld 4 2071 0x128 n 1 g
      let m2 := [0, 1, 2, 3].foldl (fun (x : Mod) d => if x.dr.contains d then x else x.setFld d 2313 0x288 line 1 g) m1
      dies.foldl (fun (x : Mod) d => x.setFlags d line 0) m2
    else m

/-- A core or steward takes part in a line: its mask names it, and the die mask of a module line its die (R240). -/
def Mod.stookNames (m : Mod) (c line : Nat) : Bool :=
  bits (m.stookMask (dieOf c) line) (stookBit c) 1 == 1 &&
    (decide (line < 8) || m.fld 4 2071 (0x108 + (line - 8) * 8) (dieOf c) 1 == 1)

/-- An arrival is counted (R241, R242): the module after it, and the generation it counted in. -/
def Mod.stookArrive (m : Mod) (c line : Nat) : Mod × Nat :=
  let die := dieOf c
  let g := m.stookGen die line
  let b := stookBit c
  if !m.stookNames c line then (m.err die (stookPage die) 9 (reqCode c) 0 0, g)
  else if bits (m.stookFlags die line) b 1 = 1 then (m.err die (stookPage die) 8 (reqCode c) 0 0, g)
  else ((m.setFlags die line (m.stookFlags die line + 2 ^ b)).stookEval die line, g)

/-- A die line that another partition owns, or a die line named on a Barn, admits no core or steward (R242). -/
def Mod.stookDenied (m : Mod) (c line : Nat) : Bool :=
  if isStw c then decide (line < 8) && decide (4 ≤ dieOf c)
  else decide (line < 8) && m.fld (c / 256) 2313 0x280 (4 * line) 4 != m.partition c

def stookLine (f : SysF) : Nat := if bits f.imm.toNat 16 1 = 1 then 8 + bits f.imm.toNat 0 3 else bits f.imm.toNat 0 3

/-- ILLEGAL conditions of R241. -/
def stookIlls (f : SysF) (waitg : Bool) : List Nat :=
  let i := f.imm.toNat
  (if bits i 16 1 = 1 ∧ 4 ≤ bits i 0 3 then [0] else []) ++
    marked [f.b.toNat, bits i 17 1, bits i 3 13, if waitg then f.c.toNat else f.a.toNat]

/-- A refused STOOK completes without effect and reports (R242). -/
def stookRefuse (c sub : Nat) (m : Mod) : Res :=
  let die := dieOf c
  .ok ((m.err die (stookPage die) 10 (reqCode c) 0 0).onCore c (fun k =>
    ({ k with hold := none } : Core).report 7 sub (regMpa die (stookPage die) 0x288 % 2 ^ 48)))

/-- STOOK.ARRIVE holds issue until the line's home has counted the arrival. -/
def execStookArrive (c : Nat) (f : SysF) (s : State) : Ans :=
  onCpu c s (issueHeld .arrive c (stookIlls f false) [] (fun m k =>
    let line := stookLine f
    if k.hold.isSome then .stay m
    else if m.stookDenied c line then stookRefuse c 1 m
    else .stay (({ m with arrivals := m.arrivals ++ [Arrival.mk c line] } : Mod).onCore c (fun k =>
      { k with hold := some (Hold.mk .arrive true (line) (0) (0) (some f.c.toNat) [] 0) }))))

/-- STOOK_ARRIVAL: the `i`-th arrival in flight reaches its line's home, and its ARRIVE completes. -/
def execStookArrival (i : Nat) (s : State) : Ans :=
  .next { s with mod :=
    match s.mod.arrivals[i]? with
    | none => s.mod
    | some x =>
      let r := { s.mod with arrivals := s.mod.arrivals.eraseIdx i }.stookArrive x.c x.line
      match (r.1.core x.c).hold with
      | some h =>
        if h.kind = .arrive then
          (r.1.onCore x.c (fun k => match h.dest with | some d => k.setG d (BitVec.ofNat 64 r.2) | none => k)).finish x.c
        else r.1
      | none => r.1 }

/-- STOOK.WAITG is held at issue until G differs from g[a][0]. -/
def execStookWaitg (c : Nat) (f : SysF) (s : State) : Ans :=
  onCpu c s (issueHeld .waitg c (stookIlls f true) [f.a.toNat] (fun m k =>
    let line := stookLine f
    let g := (k.gr f.a.toNat).toNat % 2
    if m.stookDenied c line then stookRefuse c 0 m
    else if m.stookGen (dieOf c) line ≠ g then .ok (m.onCore c (fun k => { k with hold := none }))
    else .stay (m.onCore c (fun k => { k with hold := some (Hold.mk .waitg true (line) (g) (0) none [] 0) }))))

/-- STOOK_WAITG_COMPLETE: a held WAITG sees the toggled generation. -/
def execStookWaitgComplete (c : Nat) (s : State) : Ans :=
  onCpu c s (fun m =>
    match (m.core c).hold with
    | some h => if h.kind = .waitg ∧ m.stookGen (dieOf c) h.obj ≠ h.target then m.finish c else m
    | none => m)

/-- The effects of a write to a mask register after its bits are stored (R242): flags of removed participants clear,
a DR hold ends, and the lines concerned are evaluated again. -/
def Mod.stookMaskEffects (m : Mod) (die off : Nat) : Mod :=
  if die < 4 then
    if 0x100 ≤ off ∧ off < 0x280 then
      let line := (off - 0x100) / 0x20
      let m1 := m.setFlags die line (m.stookFlags die line &&& m.stookMask die line)
      let m2 := if 8 ≤ line ∧ m1.stookMask die line ≠ 0 then
        { m1 with held := SMap.put 0 m1.held (line - 8) (setBits (SMap.get 0 m1.held (line - 8)) die 1 0) } else m1
      m2.stookEval die line
    else m
  else if off = 0x100 then
    [8, 9, 10, 11].foldl (fun (x : Mod) l =>
      (x.setFlags die l (x.stookFlags die l &&& x.stookMask die l)).stookEval die l) m
  else if die = 4 ∧ 0x108 ≤ off ∧ off < 0x128 then
    let n := (off - 0x108) / 8
    let dies := m.reg 4 2071 off
    let m1 := { m with held := SMap.put 0 m.held n (SMap.get 0 m.held n &&& dies) }
    let m2 := (List.range 6).foldl (fun (x : Mod) d => if bits dies d 1 = 0 then x.setFlags d (8 + n) 0 else x) m1
    m2.stookEval 4 (8 + n)
  else m

/-- A core under CR or PR loses its arrival flags (R242). -/
def Mod.stookReset (m : Mod) (c : Nat) : Mod :=
  (List.range 12).foldl (fun (x : Mod) l => x.setFlags (c / 256) l (setBits (x.stookFlags (c / 256) l) (c % 256) 1 0)) m

end Sys2Proof.Machine
end

