-- ==== Sys2Proof/Machine/Chute.lean ====
section
/-! DEFINITION. Chutes (R251 to R263): rings, placing a request, permission, SEND, TRYSEND, RECV and their responses. -/

namespace Sys2Proof.Machine

/-! ### Rings -/

/-- Where a chute's registers lie: die, page and the offset of CHUTE_c_CTRL, in a CHUTE page or a STEWARD page (R75). -/
def chuteAt (c ch : Nat) : Nat × Nat × Nat :=
  if isStw c then (dieOf c, stewardPage (dieOf c), 0x600 + ch * 0x20) else (c / 256, corePage c 5, 0x100 + ch * 0x20)

def Mod.chuteReg (m : Mod) (c ch i : Nat) : Nat :=
  let x := chuteAt c ch
  m.reg x.1 x.2.1 (x.2.2 + 8 * i)

def Mod.setChuteReg (m : Mod) (c ch i v : Nat) : Mod :=
  let x := chuteAt c ch
  m.setReg x.1 x.2.1 (x.2.2 + 8 * i) (v % 2 ^ 32)

def chuteMpa (c ch : Nat) : Nat := let x := chuteAt c ch; regMpa x.1 x.2.1 x.2.2

/-- Ring size in words, and Loft address of the word with a count (R251). -/
def Mod.chuteSize (m : Mod) (c ch : Nat) : Nat := 2 ^ bits (m.chuteReg c ch 0) 8 5
def Mod.chuteWord (m : Mod) (c ch x : Nat) : Nat := bits (m.chuteReg c ch 0) 16 22 + 16 * (x % m.chuteSize c ch)

/-- Word 0 as the chute writes it (R252): the sender's ADDR, LEN, TAG and USER with SENDER, WORDS and PAD replaced. -/
def headerWord (w0 sender words : Nat) : Nat :=
  bits w0 32 96 * 2 ^ 32 + sender % 65536 * 2 ^ 16 + words * 2 ^ 8 + w0 % 128

def padWord (sender words : Nat) : Nat := sender % 65536 * 2 ^ 16 + words * 2 ^ 8 + 128

/-- Write the words of a message from a ring count. -/
def Mod.writeWords (m : Mod) (c ch : Nat) : Nat → List Nat → Mod
  | _, [] => m
  | x, w :: t => Mod.writeWords (m.wr (loftKey c + m.chuteWord c ch x) 16 w) c ch (x + 1) t

/-- Place a request of `words` (R253, R254): none when the ring is full. -/
def Mod.chutePlace (m : Mod) (c ch sender : Nat) (words : List Nat) : Option Mod :=
  let s := m.chuteSize c ch
  let head := m.chuteReg c ch 1
  let tail := m.chuteReg c ch 3
  let n := words.length
  let free := s - (tail + 2 ^ 32 - head) % 2 ^ 32
  let t := tail % s
  let pad := if t + n ≤ s then 0 else s - t
  if free < pad + n then none
  else
    let msg := match words with | w :: r => headerWord w sender n :: r | [] => []
    let m1 := if pad = 0 then m else m.wr (loftKey c + m.chuteWord c ch tail) 16 (padWord sender pad)
    let m2 := (m1.writeWords c ch (tail + pad) msg).setChuteReg c ch 3 (tail + pad + n)
    if isStw c then some m2
    else
      let ctrl := m.chuteReg c ch 0
      let m3 := if bits ctrl 2 1 = 1 then
        (match cntOf (scRef c (bits ctrl 3 5)) with | some x => m2.applyInc x 1 sender | none => m2) else m2
      let m4 := (m3.irq (c / 256) (corePage c 5) ch).addReg (c / 256) (corePage c 5) 0x200 1
      some (if pad = 0 then m4 else m4.addReg (c / 256) (corePage c 5) 0x210 1)

/-! ### Permission -/

/-- The receiver a destination reference names (R256); none when it names no populated core. -/
def destOf (dest : Nat) : Option (Nat × Nat) :=
  let c := bits dest 16 10
  if isCore c ∨ isStw c then some (c, dest % 8) else none

/-- A destination reference with a reserved bit set. -/
def destBad (dest : Nat) : Bool := dest != bits dest 16 10 * 65536 + dest % 8

/-- A request from `q`, sent with partition tag `tag`, is refused (R255, R262, R407, R420). -/
def Mod.chuteRefuses (m : Mod) (c ch q tag : Nat) : Bool :=
  bits (m.chuteReg c ch 0) 0 1 == 0 || !m.enabled (chuteAt c ch).1 (chuteAt c ch).2.1 ||
  (isCore c && (m.retired c || m.coreSweep c ||
    (bits (m.chuteReg c ch 0) 1 1 == 0 && decide (q < 0xF00) && !(q / 256 == c / 256 && tag == m.partition c))))

/-- A sender's code for reservations: nonzero, and different for a core and its Wains. -/
def holderCode (q : Nat) (wain : Option Nat) : Nat := q + 1 + (match wain with | some w => 0x10000 * (w + 1) | none => 0)

/-- Present a request at a chute (R253, R255, R259): the module after it and the response. -/
def Mod.chutePresent (m : Mod) (c ch : Nat) (r : ChuteReq) : Mod × Nat :=
  let x := chuteAt c ch
  let key := c * 8 + ch
  let me := holderCode r.q r.wain
  let rsv := SMap.get 0 m.rsv key
  let full := fun (m : Mod) => if isStw c then m else m.addReg x.1 x.2.1 0x208 1
  if destBad r.dest || m.chuteRefuses c ch r.q r.tag then (m.err x.1 x.2.1 8 r.q 0 0, 2)
  else if rsv ≠ 0 ∧ (rsv ≠ me ∨ r.try_) then (full m, 0)
  else match m.chutePlace c ch r.q r.words with
    | some m1 => ({ m1 with rsv := SMap.put 0 m1.rsv key 0 }, 1)
    | none => if r.try_ then (full m, 0) else (full { m with rsv := SMap.put 0 m.rsv key me }, 0)

/-- The route between a die and the chute that a reference names is cut (R10, R262); steward chutes are reached over the sideband (R11). -/
def Mod.chuteCut (m : Mod) (die dest : Nat) : Bool :=
  match destOf dest with
  | some x => !isStw x.1 && m.routeCut die (dieOf x.1) (chuteMpa x.1 x.2)
  | none => false

/-- A chute request of requester `q` on a die sets out (R253): one that names no populated core is refused at once (R255), one whose
route is cut ends with poison (R262). -/
def Mod.newChuteReq (m : Mod) (q die : Nat) (wain core : Option Nat) (dest : Nat) (words : List Nat) (try_ : Bool) : ChuteReq :=
  let base : ChuteReq := { q := q, wain := wain, core := core, dest := dest, words := words, try_ := try_, resp := none, tag := m.tagOf q }
  match destOf dest with
  | none => { base with resp := some 2 }
  | some x =>
    if m.chuteCut die dest then { base with resp := some 3 }
    else { base with path := m.way .msg (reqSite q die) (if isStw x.1 then .unit (dieOf x.1) else .stop (x.1 / 256) (x.1 % 256)) none false (isStw x.1) }

def Mod.postChute (m : Mod) (r : ChuteReq) : Mod := { m with chuteReqs := m.chuteReqs ++ [r], nextId := m.nextId + 1 }

/-- CHUTE_REQUEST: the chute takes the oldest request that has reached it; one poisoned by a flit error on its way is not placed (R330). -/
def execChuteRequest (c ch : Nat) (s : State) : Ans :=
  onCpu c s (fun m =>
    match m.chuteReqs.findIdx? (fun r => r.resp.isNone && r.path.arrived && destOf r.dest == some (c, ch)) with
    | none => m
    | some i =>
      match m.chuteReqs[i]? with
      | none => m
      | some r =>
        let m0 := m.flitSeen r.path.flit r.path.lastStop r.q 0
        let p := if r.path.flit = .uncorrectable then (m0, 3) else m0.chutePresent c ch r
        { p.1 with chuteReqs := if r.core.isNone && r.wain.isNone then p.1.chuteReqs.eraseIdx i
                                else p.1.chuteReqs.set i { r with resp := some p.2, path := r.path.retrace } })

/-! ### SEND and TRYSEND -/

/-- Words of a message in own Loft. -/
def Mod.msgWords (m : Mod) (key : Nat) : Nat → List Nat
  | 0 => []
  | n + 1 => m.rd key 16 :: Mod.msgWords m (key + 16) n

/-- End of own Loft or local memory. -/
def ownTop (c : Nat) : Nat := if isStw c then 0x200000 else 0x400000

/-- SEND and TRYSEND up to the presentation of their request (R257). -/
def sendBody (try_ : Bool) (c : Nat) (f : SysF) (m : Mod) (k : Core) : Res :=
  let kind := if try_ then HoldKind.trysend else HoldKind.send
  if (k.hold.map (fun h => h.sent)).getD false then .stay m
  else
    let a := (k.gr f.a.toNat).toNat
    let n := f.imm.toNat % 8 + 1
    let dest := (k.gr f.b.toNat).toNat
    match (if a + 16 * n ≤ 0x400000 then k.kernelOnly a (16 * n) else if !k.cs.level ∧ a < 0x400000 ∧ k.kloft < 0x400000 then
        some (Nat.max a k.kloft) else none) with
    | some x => .trap m 3 1 x
    | none =>
      if a % 16 ≠ 0 ∨ ownTop c < a + 16 * n then .trap m 4 0 a
      else
        let m0 := m.beginRelease c 1
        if !m0.releaseDone c 1 || (m0.core c).rtBlocks c false a (16 * n) false then
          .stay (m0.onCore c (fun k => { k with hold := some (Hold.mk kind false dest n 0 none [] 0) }))
        else
          let m1 := m0.scrub (loftKey c + a) (16 * n)
          match m1.firstBad (loftKey c + a) (16 * n) with
          | some b => .ok (m1.onCore c (fun k => ({ k with hold := none } : Core).report 6 0 ((b - loftKey c) / 16 * 16)))
          | none =>
            let words := m1.msgWords (loftKey c + a) n
            .stay ((m1.postChute (m1.newChuteReq (reqCode c) (dieOf c) none (some c) dest words try_)).onCore c
              (fun k => { k with hold := some (Hold.mk kind true dest n 0 (if try_ then some f.c.toNat else none) words
                (match destOf dest with | some (d, ch) => chuteMpa d ch | none => 0)) }))

def execSend (c : Nat) (f : SysF) (s : State) : Ans :=
  onCpu c s (issueHeld .send c (marked [f.c.toNat, f.imm.toNat / 8]) [f.a.toNat, f.b.toNat] (sendBody false c f))
def execTrysend (c : Nat) (f : SysF) (s : State) : Ans :=
  onCpu c s (issueHeld .trysend c (marked [f.imm.toNat / 8]) [f.a.toNat, f.b.toNat] (sendBody true c f))

/-- CHUTE_RESPONSE: the response to core or steward `c`'s request reaches it (R258, R259): a TRYSEND writes g[c], a SEND
completes unless its ring was full, when it waits to present again. A route cut or a flit error meanwhile loses the response (R262,
R330). -/
def execChuteResponse (c : Nat) (s : State) : Ans :=
  onCpu c s (fun m =>
    match m.chuteReqs.find? (fun r => r.core == some c && r.resp.isSome && r.path.arrived && r.resp != some 9), (m.core c).hold with
    | some r0, some h =>
      let r := if r0.path.flit = .uncorrectable then { r0 with resp := some 3 } else r0
      let m1 := (m.flitSeen r0.path.flit r0.path.firstStop r0.q 0).coreEv c 0x17 (b2n (r.resp == some 1))
      let m0 := { m1 with chuteReqs := m1.chuteReqs.filter (fun x => x.core != some c) }
      let rep := fun (m : Mod) => match r.resp with
        | some 2 => m.onCore c (fun k => k.report 7 1 (h.mpa % 2 ^ 48))
        | some 3 => m.onCore c (fun k => k.report 8 1 (h.mpa % 2 ^ 48))
        | _ => m
      if r.try_ then
        (rep (m0.onCore c (fun k => match h.dest, r.resp with
          | some d, some v => k.setG d (BitVec.ofNat 64 v) | _, _ => k))).finish c
      else if r.resp = some 0 then { m with chuteReqs := m.chuteReqs.map (fun x => if x.core = some c then { x with resp := some 9 } else x) }
      else (rep m0).finish c
    | _, _ => m)

/-- SEND_RETRY: a SEND refused as full presents its request again. -/
def execSendRetry (c : Nat) (s : State) : Ans :=
  onCpu c s (fun m =>
    match m.chuteReqs.find? (fun r => r.core == some c && r.resp == some 9) with
    | some r =>
      ({ m with chuteReqs := m.chuteReqs.filter (fun x => x.core != some c) } : Mod).postChute
        (m.newChuteReq r.q (dieOf c) r.wain r.core r.dest r.words r.try_)
    | none => m)

/-- RESERVATION_TIMEOUT: the holder has not presented for 256 ac. -/
def execReservationTimeout (c ch : Nat) (s : State) : Ans :=
  onCpu c s (fun m => { m with rsv := SMap.put 0 m.rsv (c * 8 + ch % 8) 0 })

/-! ### RECV -/

/-- Words of the pad or message at a count (R260). -/
def Mod.chuteStep (m : Mod) (c ch x : Nat) : Nat :=
  let w := bits (m.rd (loftKey c + m.chuteWord c ch x) 16) 8 4
  Nat.min (if w = 0 then 1 else w) ((m.chuteReg c ch 3 + 2 ^ 32 - x) % 2 ^ 32)

/-- Skip pads; each pad takes at least one word, so the ring's size bounds them. -/
def Mod.skipPads (m : Mod) (c ch : Nat) : Nat → Nat → Nat
  | 0, x => x
  | n + 1, x =>
    if x ≠ m.chuteReg c ch 3 ∧ bits (m.rd (loftKey c + m.chuteWord c ch x) 16) 7 1 = 1 then
      Mod.skipPads m c ch n ((x + m.chuteStep c ch x) % 2 ^ 32)
    else x

/-- Take the next message into g[d], when one is there (R260): the acquire waits for earlier loads (R218). -/
def Mod.chuteTake (m : Mod) (c ch d : Nat) : Option Mod :=
  let take := m.skipPads c ch (m.chuteSize c ch) (m.chuteReg c ch 2)
  if take = m.chuteReg c ch 3 ∨ !(m.core c).loadsBack then none
  else
    let n := m.chuteStep c ch take
    let v := n * 2 ^ 48 + m.chuteWord c ch take
    some (((m.setChuteReg c ch 2 (take + n)).coreEv c 0x18 1).onCore c (fun k => ({ k.acquire 1 with hold := none } : Core).setG d (BitVec.ofNat 64 v)))

/-- RECV and RECV.TRY free, then take; RECV is held while the ring holds none. -/
def recvBody (try_ : Bool) (c : Nat) (f : SysF) (m : Mod) (_k : Core) : Res :=
  let ch := f.imm.toNat % 8
  let d := f.c.toNat
  if bits (m.chuteReg c ch 0) 0 1 = 0 then .ok (m.onCore c (fun k => ({ k with hold := none } : Core).setG d 0))
  else
    let m1 := m.setChuteReg c ch 1 (m.chuteReg c ch 2)
    let take := m1.skipPads c ch (m1.chuteSize c ch) (m1.chuteReg c ch 2)
    let held := fun (m : Mod) => Res.stay (m.onCore c (fun k => { k with hold := some (Hold.mk .recv true ch 0 1 (some d) [] 0) }))
    if take = m1.chuteReg c ch 3 then
      (if try_ then .ok ((m1.setChuteReg c ch 2 take).onCore c (fun k => k.setG d 0)) else held (m1.setChuteReg c ch 2 take))
    else match m1.chuteTake c ch d with
      | some m2 => .ok m2
      | none => .stay m1

/-- ILLEGAL conditions of R260. -/
def recvIlls (f : SysF) (free : Bool) : List Nat :=
  (if bits f.imm.toNat 17 2 = 3 then [0] else []) ++
    marked [f.a.toNat, f.b.toNat, bits f.imm.toNat 3 14, if free then f.c.toNat else 0]

def execRecv (c : Nat) (f : SysF) (s : State) : Ans := onCpu c s (issueHeld .recv c (recvIlls f false) [] (recvBody false c f))
def execRecvTry (c : Nat) (f : SysF) (s : State) : Ans := onCpu c s (issueHeld .recv c (recvIlls f false) [] (recvBody true c f))
/-- RECV.FREE frees the message taken last. -/
def execRecvFree (c : Nat) (f : SysF) (s : State) : Ans :=
  onCpu c s (issueHeld .recv c (recvIlls f true) [] (fun m _ =>
    .ok (m.setChuteReg c (f.imm.toNat % 8) 1 (m.chuteReg c (f.imm.toNat % 8) 2))))

/-- RECV_COMPLETE: a held RECV takes the message that has arrived, or gives 0 once its chute's ENABLE is 0. -/
def execRecvComplete (c : Nat) (s : State) : Ans :=
  onCpu c s (fun m =>
    match (m.core c).hold with
    | some h =>
      if h.kind = .recv then
        match h.dest with
        | some d =>
          if bits (m.chuteReg c h.obj 0) 0 1 = 0 then (m.onCore c (fun k => k.setG d 0)).finish c
          else (match m.chuteTake c h.obj d with | some m1 => m1.finish c | none => m)
        | none => m
      else m
    | none => m)

/-- A write of CHUTE_c_CTRL (R263): a write that would change BASE or SIZE_LOG2 while ENABLE is 1 leaves both; setting ENABLE
zeroes the counts, and a ring that would pass the end of Loft is refused with GEOMETRY; clearing it ends a reservation. -/
def Mod.chuteCtrl (m : Mod) (q c ch we wv : Nat) : Mod :=
  let x := chuteAt c ch
  let old := m.reg x.1 x.2.1 x.2.2
  let shape := spanMask 8 5 ||| spanMask 24 14
  if old % 2 = 1 then
    let m1 := m.commonWrite q x.1 x.2.1 x.2.2 (we &&& (2 ^ 64 - 1 - shape)) wv
    if m1.reg x.1 x.2.1 x.2.2 % 2 = 0 then { m1 with rsv := SMap.put 0 m1.rsv (c * 8 + ch) 0 } else m1
  else
    let m1 := m.commonWrite q x.1 x.2.1 x.2.2 (we &&& (2 ^ 64 - 2)) wv
    let new := m1.reg x.1 x.2.1 x.2.2
    if bits (we &&& wv) 0 1 = 0 then m1
    else if ownTop c < bits new 16 22 + 16 * 2 ^ bits new 8 5 then m1.err x.1 x.2.1 9 q ch 0
    else (((m1.commonWrite q x.1 x.2.1 x.2.2 1 1).setChuteReg c ch 1 0).setChuteReg c ch 2 0).setChuteReg c ch 3 0

end Sys2Proof.Machine
end

