-- ==== Sys2Proof/Machine/Lanes.lean ====
section
/-! DEFINITION. The furrow block's tables (R290 to R295, R301 to R303): tokens and rings, queues by selector, room and
availability, the rule table, and which rule is ready. -/

namespace Sys2Proof.Machine

/-! ### Rings and tokens (R290 to R293) -/

/-- The header of a token. -/
def Token.header (t : Token) : Nat := t.tag + t.len * 2 ^ 8 + b2n t.ctl * 2 ^ 17

/-- Bytes of a token that its slot holds. -/
def Token.size (t : Token) : Nat := if t.ctl then 8 else t.len

/-- Base and slots of a ring from its configuration register. -/
def ringBase (cfg : Nat) : Nat := bits cfg 8 14 * 256
def ringSlots (cfg : Nat) : Nat := 8 * bits cfg 24 5

/-- Bytes before the data area, and bytes of the whole ring. -/
def ringHead (s : Nat) : Nat := 256 * ((s + 31) / 32)
def ringBytes (cfg : Nat) : Nat := ringHead (ringSlots cfg) + 256 * ringSlots cfg

def slotHeader (cfg i : Nat) : Nat := ringBase cfg + 8 * i
def slotData (cfg i : Nat) : Nat := ringBase cfg + ringHead (ringSlots cfg) + 256 * i

/-- A token read from slot `i` of a ring in Loft, or the Loft offset of a bad word it met. -/
def Mod.readSlot (m : Mod) (c cfg i : Nat) : Token ⊕ Nat :=
  let hk := loftKey c + slotHeader cfg i
  match m.firstBad hk 8 with
  | some x => .inr (x - loftKey c)
  | none =>
    let h := m.rd hk 8
    let t : Token := { ctl := bits h 17 1 == 1, tag := bits h 0 8, len := bits h 8 9, data := 0 }
    let dk := loftKey c + slotData cfg i
    match (if t.size = 0 then none else m.firstBad dk t.size) with
    | some x => .inr (x - loftKey c)
    | none => .inl { t with data := m.rd dk t.size }

/-! ### Registers of the page and queues by selector (R291) -/

def furPage (c : Nat) : Nat := corePage c 4

def Mod.furReg (m : Mod) (c off : Nat) : Nat := m.reg (c / 256) (furPage c) off

/-- The configuration of the queue or injector that an input selector names; its index is the selector itself. -/
def Mod.inCfg (m : Mod) (c sel : Nat) : Nat :=
  if 16 ≤ sel ∧ sel < 20 then m.furReg c (0x300 + (sel - 16) * 0x20) else m.furReg c (0x200 + sel * 8)

def Mod.ejCfg (m : Mod) (c k : Nat) : Nat := m.furReg c (0x380 + k * 0x20)

def Mod.inEn (m : Mod) (c sel : Nat) : Bool := bits (m.inCfg c sel) 0 1 == 1
def Mod.inCtl (m : Mod) (c sel : Nat) : Bool := bits (m.inCfg c sel) 1 1 == 1

def isInSel (sel : Nat) : Bool := decide (sel < 0x18)
def isLocal (sel : Nat) : Bool := decide (0x14 ≤ sel) && decide (sel < 0x18)
def isLane (sel : Nat) : Bool := decide (0x20 ≤ sel) && decide (sel < 0x30)
def isEj (sel : Nat) : Bool := decide (0x30 ≤ sel) && decide (sel < 0x34)
def isOutSel (sel : Nat) : Bool := isLocal sel || isLane sel || isEj sel

/-- The neighbour of a core in a die-local direction. -/
def laneNeighbour (c d : Nat) : Option Nat :=
  let row := c / 16 % 16
  let col := c % 16
  match d with
  | 0 => if row = 0 then none else some (c - 16)
  | 1 => if col = 11 then none else some (c + 1)
  | 2 => if row = 11 then none else some (c + 16)
  | _ => if col = 0 then none else some (c - 1)

/-- Where an outbound lane selector leads: the neighbour and the index of its inbound queue. -/
def laneTarget (c sel : Nat) : Option (Nat × Nat) :=
  let d := (sel - 0x20) / 4
  (laneNeighbour c d).map (fun n => (n, (d + 2) % 4 * 4 + (sel - 0x20) % 4))

/-- Tokens a queue can hold (R292). -/
def Mod.queueCap (m : Mod) (c i : Nat) : Nat :=
  let cfg := m.furReg c (0x200 + i * 8)
  8 + (if bits cfg 2 1 = 1 then ringSlots cfg else 0)

/-- Entries reserved at a sender for an output (R295). -/
def Furrow.reserved (f : Furrow) (sel : Nat) : Nat :=
  (f.firings.flatMap (fun x => x.outs.filter (fun o => o.1 == sel))).length

/-- Room of a queue for a sender that has `res` entries reserved; a sink always has room (R292, R311). -/
def Mod.queueRoom (m : Mod) (c i res : Nat) : Nat :=
  let f := m.fur c
  if !f.stream || !m.inEn c i then 0
  else if f.sink then 2
  else m.queueCap c i - f.occ i - (f.arriving.filter (fun a => a.1 == i)).length - res

/-- An ejector's room by its counters (R303), modulo 2^64. -/
def Mod.ejRoom (m : Mod) (c k : Nat) : Nat :=
  let cfg := m.ejCfg c k
  let freed := (m.reg (c / 256) (corePage c 6) (0x200 + bits cfg 32 5 * 8) + 2 ^ 64 - m.furReg c (0x388 + k * 0x20)) % 2 ^ 64
  (ringSlots cfg + 2 ^ 64 - (m.furReg c (0x440 + k * 8) + 2 ^ 64 - freed) % 2 ^ 64) % 2 ^ 64

/-- Room of an output. -/
def Mod.outRoom (m : Mod) (c sel : Nat) : Nat :=
  let f := m.fur c
  if isLocal sel then m.queueRoom c sel (f.reserved sel)
  else if isLane sel then (match laneTarget c sel with | some t => m.queueRoom t.1 t.2 (f.reserved sel) | none => 0)
  else
    let k := sel - 0x30
    let r := m.ejRoom c k
    if ringSlots (m.ejCfg c k) < r ∨ bits (m.ejCfg c k) 0 1 = 0 then 0
    else r - f.reserved sel - (f.ejecting.filter (fun a => a.1 == k)).length

/-- The token at the head of an input. -/
def Furrow.head (f : Furrow) (sel : Nat) : Option Token :=
  if 16 ≤ sel ∧ sel < 20 then (SMap.get [] f.taken (sel - 16)).head? else (SMap.get [] f.queues sel).head?

/-! ### The rule table (R294) -/

/-- A rule's fields. -/
structure Rule where
  valid : Bool
  pri : Nat
  op : Nat
  nin : Nat
  nout : Nat
  /-- All four input and both output selectors, used or not. -/
  ins : List Nat
  outs : List Nat
  okind : Nat
  body : Nat

def ruleOf (w : Nat) : Rule :=
  { valid := bits w 111 1 == 1, pri := bits w 109 2, op := bits w 106 3, nin := bits w 103 3, nout := bits w 101 2
    ins := [bits w 95 6, bits w 89 6, bits w 83 6, bits w 77 6], outs := [bits w 71 6, bits w 65 6], okind := bits w 63 2
    body := bits w 0 63 }

/-- The word of `n` parcels from an address, the first most significant (R46). -/
def Mod.wordAt (m : Mod) (c a n : Nat) : Nat := (List.range n).foldl (fun v i => v * 2 ^ 14 + (m.parcel c (a + i)).toNat) 0

def Mod.rule (m : Mod) (c r : Nat) : Rule := ruleOf (m.wordAt c (0xEF80 + 8 * r) 8)

def Rule.inputs (x : Rule) : List Nat := x.ins.take x.nin
def Rule.outputs (x : Rule) : List Nat := x.outs.take x.nout

/-- RLEN and ENTRY of a ROUTINE; TB, FA and FB of a TMUL. -/
def Rule.rlen (x : Rule) : Nat := bits x.body 57 6 + 1
def Rule.entry (x : Rule) : Nat := bits x.body 41 16
def Rule.tb (x : Rule) : Nat := bits x.body 60 3
def Rule.fa (x : Rule) : Nat := bits x.body 56 4
def Rule.fb (x : Rule) : Nat := bits x.body 52 4

/-- Inputs that a dispatch takes: MERGE takes the control token and the data input it selects (R300). -/
def Rule.takes (x : Rule) (f : Furrow) : Option (List Nat) :=
  if x.op = 4 then
    match f.head (x.ins.getD 0 0) with
    | some t => some [x.ins.getD 0 0, x.ins.getD (1 + t.data % 2) 0]
    | none => none
  else some x.inputs

/-- A rule is ready (R295, R300). -/
def Mod.ruleReady (m : Mod) (c r : Nat) : Bool :=
  let f := m.fur c
  let x := m.rule c r
  f.stream && !f.sink && x.valid &&
    (match x.takes f with | some l => l.all (fun i => (f.head i).isSome) | none => false) &&
    x.outputs.all (fun o => decide ((x.outputs.filter (fun y => y == o)).length ≤ m.outRoom c o)) &&
    ((x.op != 0 && x.op != 2) || (m.core c).routine.isNone)

/-- The ready rule that is dispatched: lowest PRI, then the first after the rule last dispatched at that priority. -/
def Mod.pickRule (m : Mod) (c : Nat) : Option Nat :=
  let f := m.fur c
  ([0, 1, 2, 3] : List Nat).findSome? (fun p =>
    let start := SMap.get 0 f.last p
    ((List.range 16).map (fun i => (start + i) % 16)).find? (fun r => (m.rule c r).pri == p && m.ruleReady c r))

/-! ### Injectors (R301, R302) -/

/-- Tokens available to an injector. -/
def Mod.injAvail (m : Mod) (c k : Nat) : Nat :=
  let cfg := m.inCfg c (16 + k)
  (m.reg (c / 256) (corePage c 6) (0x200 + bits cfg 3 5 * 8) + 2 ^ 65 - m.furReg c (0x308 + k * 0x20) - m.furReg c (0x400 + k * 8)) % 2 ^ 64

/-- An injector may take a token: enabled, running, and permitted where it is gated. -/
def Mod.injOpen (m : Mod) (c k : Nat) : Bool :=
  let f := m.fur c
  f.stream && !f.sink && !f.drainReq && m.inEn c (16 + k) &&
    (bits (m.inCfg c (16 + k)) 2 1 == 0 || m.furReg c (0x420 + k * 8) != 0)

end Sys2Proof.Machine
end

