-- ==== Sys2Proof/Machine/Watch.lean ====
section
/-! DEFINITION. The stall watch (R245 to R249, R313): groups, quiet, snapshots and STALL_DETECTED. -/

namespace Sys2Proof.Machine

/-- The watch group of a core (R248). -/
def Mod.watchGroup (m : Mod) (c : Nat) : Nat := m.fld (c / 256) 2314 (0x200 + c % 256 / 16 * 8) (c % 16 * 4) 4

/-- The core is held at issue by WAIT, STOOK.WAITG, SEND or RECV (R245), with its reason code of R247. -/
def Core.blockedOn (k : Core) : Nat :=
  match k.hold with
  | some h => (match h.kind with | .wait => 1 | .waitg => 2 | .send => 3 | .recv => 4 | _ => 0)
  | none => 0

/-- An input of a stream-mode core has a token available: an injector's counts while it is permitted (R313). -/
def Mod.inAvail (m : Mod) (c sel : Nat) : Bool :=
  ((m.fur c).head sel).isSome || (decide (16 ≤ sel) && decide (sel < 20) && m.injOpen c (sel - 16) && m.injAvail c (sel - 16) != 0)

/-- What a rule of a stream-mode core waits for: its first empty input, else its first full output with bit 6 set; none where
it waits for nothing. MERGE waits for its control token and the input that selects. -/
def Mod.ruleWaits (m : Mod) (c r : Nat) : Option Nat :=
  let x := m.rule c r
  let ins := match x.takes (m.fur c) with | some l => l | none => x.inputs.take 1
  match ins.find? (fun i => !m.inAvail c i) with
  | some i => some i
  | none => (x.outputs.find? (fun o => m.outRoom c o == 0)).map (fun o => o + 64)

/-- Valid rules of a stream-mode core that have an input token available. -/
def Mod.rulesFed (m : Mod) (c : Nat) : List Nat :=
  (List.range 16).filter (fun r => (m.rule c r).valid && (m.rule c r).inputs.any (fun i => m.inAvail c i))

/-- A stream-mode core is blocked: nothing is in flight, and a fed rule waits (R313). -/
def Mod.furBlocked (m : Mod) (c : Nat) : Bool :=
  (m.fur c).firings.isEmpty && (m.rulesFed c).any (fun r => (m.ruleWaits c r).isSome)

/-- A core is blocked (R245, R313). -/
def Mod.coreBlocked (m : Mod) (c : Nat) : Bool := if (m.fur c).stream then m.furBlocked c else (m.core c).blockedOn != 0

/-- The core is excluded from its group: stopped, halted, idle, parked, retired, in a disabled group, or in stream mode with
no input token. -/
def Mod.watchExcluded (m : Mod) (c : Nat) : Bool :=
  let k := m.core c
  (if (m.fur c).stream then (m.rulesFed c).isEmpty else !k.running || k.halted || k.idle) ||
    m.parked c || m.retired c || m.fld (c / 256) 2314 0x100 (m.watchGroup c) 1 == 0

/-- Cores of a compute die. -/
def coresOf (die : Nat) : List Nat :=
  ((List.range 256).filter (fun x => decide (x / 16 < 12) && decide (x % 16 < 12))).map (fun x => die * 256 + x)

/-- An engine of the core is at work: a Wain runs, the Thresher walks or the array holds a TMUL, or a furrow token is on its way (R245). -/
def Mod.enginesBusy (m : Mod) (c : Nat) : Bool :=
  let k := m.core c
  let f := m.fur c
  m.fld (c / 256) (corePage c 2) 0x110 0 3 == 1 || m.fld (c / 256) (corePage c 3) 0x110 0 3 == 1 ||
    k.mxq.any (fun x => x.walk && !x.dropped) || !k.tmuls.isEmpty || !f.arriving.isEmpty || !f.firings.isEmpty || !f.ejecting.isEmpty

/-- A packet that still crosses a link of the die. -/
def Path.crosses (p : Path) (die : Nat) : Bool := p.todo.any (fun x => x.die == die || x.back.die == die)

/-- A link of the die has a flit to move. -/
def Mod.linkBusy (m : Mod) (die : Nat) : Bool :=
  m.net.any (fun r => r.path.crosses die) || m.incs.any (fun r => r.path.crosses die) || m.chuteReqs.any (fun r => r.path.crosses die)

/-- Every core of group `g` of a die that is not excluded is blocked, and there is one; no engine of a core of the group is at work (R245). -/
def Mod.groupStill (m : Mod) (die g : Nat) : Bool :=
  let all := (coresOf die).filter (fun c => m.watchGroup c == g)
  all.all (fun c => !m.enginesBusy c && (m.watchExcluded c || m.coreBlocked c))

/-- Group `g` of a die is quiet (R245). -/
def Mod.groupQuiet (m : Mod) (die g : Nat) : Bool :=
  m.groupStill die g && (coresOf die).any (fun c => m.watchGroup c == g && !m.watchExcluded c) && !m.linkBusy die

/-- The group has worked since the watch last looked: its quiet time has restarted (R245). -/
def Mod.groupStirred (m : Mod) (die g : Nat) : Bool :=
  m.stirred.any (fun x => x == 0x10000 + die || (isCore x && x / 256 == die && m.watchGroup x == g))

/-- The watch has looked at a group of a die. -/
def Mod.groupSeen (m : Mod) (die g : Nat) : Mod :=
  { m with stirred := m.stirred.filter (fun x => !(x == 0x10000 + die || (isCore x && x / 256 == die && m.watchGroup x == g))) }

/-- QUIET of a die's groups. -/
def Mod.quietBits (m : Mod) (die : Nat) : Nat := (List.range 16).foldl (fun v g => v + b2n (m.groupQuiet die g) * 2 ^ g) 0

/-- The two snapshot registers of a core (R247). -/
def Mod.snapOf (m : Mod) (c : Nat) : Nat × Nat :=
  let k := m.core c
  let fed := ((m.rulesFed c).filterMap (fun r => (m.ruleWaits c r).map (fun o => r + o * 256))).headD 0
  let stream := (m.fur c).stream
  let reason := if m.watchExcluded c then 15 else if stream then (if m.furBlocked c then 5 else 0) else k.blockedOn
  let h := k.hold
  let obj := match reason, h with
    | 1, some h => h.obj % 2 ^ 32
    | 2, some h => if 8 ≤ h.obj then 256 + (h.obj - 8) else h.obj
    | 3, some h => bits h.obj 16 10 * 65536 + h.obj % 8
    | 4, some h => h.obj % 8
    | 5, _ => fed
    | _, _ => 0
  let target := match reason, h with
    | 1, some h => h.target | 2, some h => h.target % 2 | 3, some h => h.target
    | 5, _ => (List.range 24).foldl (fun n i => n + (m.fur c).occ i) 0
    | _, _ => 0
  let pc := if reason = 0 ∨ reason = 15 ∨ reason = 5 then 0 else k.pc.toNat
  (reason * 2 ^ 60 + pc * 2 ^ 32 + obj, target)

/-- Capture the snapshot of every core of a die and the time (R246, R248). -/
def Mod.watchCapture (m : Mod) (time die : Nat) : Mod :=
  let m1 := m.setReg die (watchPage die) 0x118 time
  if die < 4 then
    (coresOf die).foldl (fun (x : Mod) c =>
      let o := c % 256 / 16 * 12 + c % 16
      let v := m.snapOf c
      (x.setReg die 2314 (0x400 + o * 16) v.1).setReg die 2314 (0x408 + o * 16) v.2) m1
  else m1

/-- Groups that the stewards' module watch names in MGRP_j, as (die, group) pairs (R249). -/
def Mod.moduleGroups (m : Mod) (j : Nat) : List (Nat × Nat) :=
  ((List.range 64).filter (fun i => bits (m.reg 4 2074 (0x200 + j * 8)) i 1 == 1)).map (fun i => (i / 16, i % 16))

/-- A die's group as the module watch judges it (R249): still, and its quiet time not restarted. -/
def Mod.moduleQuiet (m : Mod) (x : Nat × Nat) : Bool := m.groupStill x.1 x.2 && !m.linkBusy x.1 && !m.groupStirred x.1 x.2

/-- STALL_DETECTED: group `g` of compute die `die` has been quiet for the window (R246), or module group `g` of BW's module
watch has (R249): a capture unless a HELD bit stands, the HELD bit, and IRQ_STAT. A group that has worked since the watch last looked
is not reported: its quiet time starts anew from here. -/
def execStallDetected (die g : Nat) (s : State) : Ans :=
  let m := s.mod
  let time := s.aon.time / 2 ^ 32 % 2 ^ 64
  let held := m.fld die (watchPage die) 0x108 0 16
  if die < 4 then
    .next (if m.dr.contains die || !m.enabled die 2314 || !(decide (g < 16)) || !m.groupQuiet die g || bits held g 1 == 1 then s
      else if m.groupStirred die g then { s with mod := m.groupSeen die g }
      else
        let m1 := if held = 0 then m.watchCapture time die else m
        let m2 := (m1.orReg die 2314 0x108 (2 ^ g)).irq die 2314 0
        { s with mod := m2.notice die 6 0 (m2.fld die 2314 0x108 0 16) })
  else if die = 4 then
    let l := m.moduleGroups g
    .next (if !m.enabled 4 2074 || !(decide (g < 16)) || l.isEmpty || bits held g 1 == 1 then s
      else if !(l.all (fun x => m.moduleQuiet x)) then { s with mod := l.foldl (fun (y : Mod) x => y.groupSeen x.1 x.2) m }
      else
        let m1 := (l.map (fun x => x.1)).eraseDups.foldl (fun (x : Mod) d => if x.dr.contains d then x else x.watchCapture time d) m
        { s with mod := (m1.orReg 4 2074 0x108 (2 ^ g)).irq 4 2074 1 })
  else .fault (.noSuchAgent die)

end Sys2Proof.Machine
end

