-- ==== Sys2Proof/Machine/Peek.lean ====
section
/-! DEFINITION. Reading page registers: the fields that are composed (R19, R42, R331, R385, R428, R453, R470), counters
that depend on timing (R143), frozen pages (R22), access checks (R14, R18, R20, R409, R453); the Granary (R354, R355), and what a Barn and the host
window do with an access. -/

namespace Sys2Proof.Machine

/-- Edge attachment of a slot (R321): 1 W, 2 E, 3 N, 4 S. -/
def edgeOf (slot : Nat) : Nat :=
  let r := slot / 16
  let c := slot % 16
  if c = 0 then 1 else if c = 11 ∧ 2 ≤ r ∧ r ≤ 9 then 2 else if r = 0 ∧ 2 ≤ c ∧ c ≤ 9 then 3
  else if r = 11 ∧ 2 ≤ c ∧ c ≤ 9 then 4 else 0

/-- PAGE_CAP.BLOCK of a page, from its block's chapter. -/
def capBlock (die page : Nat) : Nat :=
  match blockAt die page with
  | some (.core, _) => 0x0344 | some (.thresh, _) => 0xF744 | some (.chute, _) => 0x0088 | some (.perf, _) => 0x0008
  | some (.wain, _) => if die < 4 then 0x0043 else 0x0143
  | some (.furrow, _) => 0x4434
  | some (.ringstop, slot) => edgeOf slot * 4096 + 4 * 256 + 2 * 16 + (if slot / 16 < 6 then 0 else 1)
  | some (.dielink, _) =>
    if die < 4 then (page - 2304) * 4096 + (if page = 2304 then 12 else 8) * 256 + 64 else 12 * 256 + 64
  | _ => 0

/-- PAGE_CAP (R19). -/
def capWord (die page : Nat) : Nat :=
  4 * 2 ^ 60 + 2 * 2 ^ 56 + 12 * 2 ^ 52 + 12 * 2 ^ 48 + 8 * 2 ^ 44 + 22 * 2 ^ 39 + 28 * 2 ^ 34 + 1 * 2 ^ 32 + 0x1FFF * 2 ^ 16 +
    capBlock die page

/-- The half of a slot is in spine mode: PWR_OP_STAT.SPINE (R460, R469). -/
def Mod.spine (m : Mod) (die half : Nat) : Bool := m.fld die (pwrPage die) 0x108 (12 + half) 1 == 1

/-- A page's owning reset is in progress: a CR or PR of its core, a DR of its die, or the hold of a module under EXTEST (R21, R411,
R412, R452). -/
def Mod.inOwnReset (m : Mod) (die page : Nat) : Bool :=
  m.dr.contains die || (decide (die < 4 ∧ page < 2048) && m.coreSweep (die * 256 + page / 8))

/-- PAGE_STAT (R19): ACTIVE reads 0 throughout the page's owning reset; a RINGSTOP page adds SPINE and EDGE_UP (R331). -/
def Mod.statWord (m : Mod) (die page : Nat) : Nat :=
  let ctrl := m.reg die page 0x010
  let dis := m.pageDisabled die page
  let parked := decide (die < 4) && decide (page < 2048) && m.parked (die * 256 + page / 8)
  let edge := match blockAt die page with
    | some (.ringstop, slot) =>
      let port := match edgeOf slot with | 1 => 2304 | 2 => 2305 | 3 => 2306 | 4 => 2307 | _ => 0
      b2n (m.spine die (if slot / 16 < 6 then 0 else 1)) * 256 +
        b2n (port != 0 && (m.linkState die port == 3 || m.linkState die port == 4)) * 512
    | _ => 0
  (m.reg die page 0x018 &&& 0xFFF0) + b2n (ctrl % 2 == 1 && !dis && !parked && !m.inOwnReset die page) + b2n (bits ctrl 1 1 == 1) * 2 +
    b2n (bits ctrl 2 1 == 1) * 4 + b2n dis * 8 + edge

/-- Rollback value: the highest blown fuse plus 1 (R439). -/
def AlwaysOn.rollback (a : AlwaysOn) : Nat := bitLen a.rollFuses

/-- Life-cycle state (R439): each bit reads 1 when either of its two fuses is blown. -/
def AlwaysOn.lc (a : AlwaysOn) : Nat :=
  if bits a.lcFuses 4 2 ≠ 0 then 3 else if bits a.lcFuses 2 2 ≠ 0 then 2 else if bits a.lcFuses 0 2 ≠ 0 then 1 else 0

/-- DIE_EPOCH of a die. -/
def AlwaysOn.epoch (a : AlwaysOn) (die : Nat) : Nat := a.dieEpoch.getD die 1

/-- Two's complement of a saturated integer. -/
def satInt (w : Nat) (i : Int) : Nat := ofInt w (max (-(2 ^ (w - 1) : Nat)) (min ((2 ^ (w - 1) : Nat) - 1) i))

/-- Registers of a CAD page that the always-on island holds (R385). -/
def AlwaysOn.cadReg (a : AlwaysOn) (die off stored : Nat) : Nat :=
  if off = 0x150 then setBits stored 32 3 (b2n (a.source == 0) * 4 + b2n a.holdover * 2 + b2n a.locked)
  else if die = 4 then
    match off with
    | 0x100 => a.time / 2 ^ 32 % 2 ^ 64
    | 0x120 => satInt 32 a.trim
    | 0x128 => a.ppsCapt
    | 0x130 => a.ppsSteps * 2 ^ 48 + b2n a.ppsLost * 2 ^ 33 + b2n a.ppsLocked * 2 ^ 32 + satInt 32 a.ppsErr
    | 0x158 => a.period / 2 ^ 32 % 2 ^ 32
    | 0x160 => a.lastEdge / 2 ^ 32 % 2 ^ 64
    | 0x180 => a.cntPpsGlitch % 2 ^ 64
    | 0x188 => a.cntFrameGlitch % 2 ^ 64
    | 0x190 => a.cntHold % 2 ^ 64
    | _ => stored
  else stored

/-- The live value of a register. -/
def peekLive (a : AlwaysOn) (m : Mod) (die page off : Nat) : Nat :=
  let stored := m.reg die page off
  match off with
  | 0x000 => idWord die page
  | 0x008 => capWord die page
  | 0x018 => if a.powered && !a.poDue then m.statWord die page else m.statWord die page / 2 * 2
  | 0x030 => 0
  | 0x050 => m.cfgSum die page
  | _ =>
    match blockAt die page with
    | some (.core, slot) =>
      let k := m.core (die * 256 + slot)
      if off = 0x108 then k.pc.toNat * 65536 + b2n k.idle * 4 + b2n k.halted * 2 + b2n k.running
      else if off = 0x180 then
        setBits stored 16 1 (b2n (m.warned.contains (die * 256 + slot)))
      else stored
    | some (.thresh, slot) =>
      if off = 0x100 then
        let q := (m.core (die * 256 + slot)).mxq
        let s := match q.filter (fun x => x.walk && !x.dropped) with | [] => 0 | x :: t => (t.foldl (fun _ y => y) x).s
        stored + s * 256 + b2n (q.any (fun x => x.walk && !x.dropped)) * 8 + q.length
      else stored
    | some (.furrow, slot) =>
      let f := m.fur (die * 256 + slot)
      if off = 0x108 then f.stat
      else if 0x640 ≤ off ∧ off < 0x700 then f.occ ((off - 0x640) / 8) % 512
      else stored
    | some (.watch, _) => if off = 0x108 ∧ die < 4 then setBits stored 16 16 (m.quietBits die) else stored
    | some (.cad, _) => a.cadReg die off stored
    | some (.dielink, _) => if off = 0x110 then stored + a.epoch die else stored
    | some (.therm, _) =>
      if off = 0x110 ∧ die = 4 then
        stored + (match a.trip with | some x => 8 + x * 16 | none => 0)
      else stored
    | some (.sweep, _) =>
      if off = 0x108 then a.cause.getD die 0
      else if off = 0x110 then setBits stored 17 1 (b2n (m.warned.contains (0x3F0 + die)))
      else stored
    | some (.pwr, _) =>
      if off = 0x218 ∧ die = 4 then b2n (decide (a.vin < 4000)) + 2 * b2n (decide (4800 < a.vin))
      else if off = 0x210 ∧ die = 4 then setBits stored 0 16 a.vin
      else stored
    | some (.keeper, _) =>
      if die = 4 then
        (if off = 0x100 then stored + a.lc * 16 + a.rollback * 2 ^ 16 + b2n (m.keeper.debug != 0) * 2 ^ 23
         else if off = 0x110 then stored
         else if off = 0x118 then a.serial
         else if 0x140 ≤ off ∧ off < 0x160 then
           (match m.keeper.chal with | some c => bits c ((off - 0x140) / 8 * 64) 64 | none => 0)
         else stored)
      else stored
    | _ => stored

/-- The offsets of counters that count clock cycles, energy or flits, which the model does not follow, with their widths: a
read finds them advanced by an open amount (R143, log entry 10). A ring stop without a bundle counts none at its edge, and one outside rows 5
and 6 no wait for the seam (R331). -/
def timed (die page off : Nat) : Option Nat :=
  match blockAt die page with
  | some (.core, _) => if 0x158 ≤ off ∧ off ≤ 0x168 then some 64 else none
  | some (.thresh, _) => if off = 0x140 ∨ off = 0x148 then some 64 else none
  | some (.ringstop, slot) =>
    let edge := edgeOf slot
    if off = 0x140 ∨ off = 0x148 ∨ off = 0x158 ∨ off = 0x160 then some 64
    else if 0x168 ≤ off ∧ off ≤ 0x178 then (if edge = 0 ∨ unusedPort die (2303 + edge) then none else some 64)
    else if off = 0x180 then (if slot / 16 = 5 ∨ slot / 16 = 6 then some 64 else none)
    else none
  | some (.pwr, _) => if off = 0x140 ∨ off = 0x150 then some 64 else if off = 0x210 ∧ die = 4 then some 48 else none
  | some (.therm, _) => if off = 0x140 then some 64 else none
  | _ => none

/-- Events that count clock cycles, flits on tracks or port requests; the other events of R28 are counted when they happen. -/
def perfTimed (ev : Nat) : Bool :=
  [0x00, 0x02, 0x03, 0x04, 0x08, 0x09, 0x0D, 0x0E, 0x13, 0x14, 0x15, 0x16, 0x1B, 0x40, 0x41, 0x45, 0x46, 0x48, 0x4B].contains ev

/-- Counter `k` of a PERF page counts, and what it counts depends on timing. -/
def Mod.perfRuns (m : Mod) (die page k : Nat) : Bool := m.perfCounts die page k && perfTimed (bits (m.reg die page (0x140 + 8 * k)) 0 8)

/-- The Wain of a WAIN page. -/
def pageWain (die page : Nat) : Nat := if die < 4 then (die * 256 + page / 8) * 2 + page % 8 - 2 else 2048 + (die - 4) * 16 + (page - 2048)

/-- WAIN_CNT_HOLD counts (R286): the program waits on a counter, a cadence or a full chute, or has a MOVE fetched, which may wait under R274. -/
def Mod.wainHolds (m : Mod) (die page : Nat) : Bool :=
  let st := m.fld die page 0x110 0 3
  decide (2 ≤ st ∧ st ≤ 4) || (st == 1 && (m.wain (pageWain die page)).instr.any (fun v => bits v 252 4 == 1))

/-- Bring a register whose value depends on timing up to date by an open amount. A PERF counter does not pass its wrap, which is
a command of its own. PRIO_MAX keeps the longest transit so far. -/
def Mod.settleTimed (m : Mod) (die page off : Nat) : Mod :=
  match timed die page off with
  | some w =>
    let x := m.free
    x.2.setReg die page off ((m.reg die page off + x.1) % 2 ^ w)
  | none =>
    match blockAt die page with
    | some (.perf, _) =>
      if 0x180 ≤ off ∧ off < 0x1C0 ∧ m.perfRuns die page ((off - 0x180) / 8) then
        let x := m.free
        x.2.setReg die page off (Nat.min (m.reg die page off + x.1) (2 ^ 48 - 1))
      else m
    | some (.furrow, slot) =>
      if 0x500 ≤ off ∧ off < 0x640 ∧ (m.fur (die * 256 + slot)).stream = true then
        let x := m.free
        let y := x.2.free
        let half := fun (lo add : Nat) => Nat.min (m.fld die page off lo 32 + add) 0xFFFFFFFF
        y.2.setReg die page off (half 0 x.1 + half 32 y.1 * 2 ^ 32)
      else m
    | some (.digest, _) => if off = 0x108 then m.digestStep die else m
    | some (.wain, _) =>
      if off = 0x150 ∧ m.wainHolds die page = true then
        let x := m.free
        x.2.setReg die page off ((m.reg die page off + x.1) % 2 ^ 64)
      else m
    | some (.ringstop, _) =>
      if off = 0x188 then
        let x := m.free
        x.2.setReg die page off (Nat.max (m.reg die page off) (Nat.min x.1 0xFFFF))
      else m
    | _ => m

/-- Bring every such register of a page up to date. -/
def Mod.settlePage (m : Mod) (die page : Nat) : Mod := (List.range 512).foldl (fun (x : Mod) i => x.settleTimed die page (8 * i)) m

/-- FREEZE is set in a page. -/
def Mod.isFrozen (m : Mod) (die page : Nat) : Bool := m.fld die page 0x010 1 1 == 1

/-- The value a read returns: frozen S and V fields, live C fields (R22). -/
def peek (a : AlwaysOn) (m : Mod) (die page off : Nat) : Nat :=
  let live := peekLive a m die page off
  if m.isFrozen die page then
    let c := cMask (regFields die page off)
    (live &&& c) ||| ((SMap.get 0 m.frozen (regKey die page off)).toNat &&& (2 ^ 64 - 1 - c))
  else live

/-- Snapshot a page for FREEZE, or forget the snapshot (R22). Its counters are those of this moment. -/
def freezePage (a : AlwaysOn) (m0 : Mod) (die page : Nat) : Mod :=
  let m := m0.settlePage die page
  (List.range 512).foldl (fun (x : Mod) i =>
    { x with frozen := SMap.put 0 x.frozen (regKey die page (8 * i)) (BitVec.ofNat 64 (peekLive a m die page (8 * i))) }) m

def unfreezePage (m : Mod) (die page : Nat) : Mod :=
  { m with frozen := SMap.dropRange m.frozen (regKey die page 0) (regKey die page 0 + 512) }

/-- Mask of the RC fields of a register. -/
def rcMask (die page off : Nat) : Nat :=
  (regFields die page off).foldl (fun v f => if f.acc = .rc then v ||| spanMask f.lo f.width else v) 0

/-- Clear the RC fields that a read covers (R20). The spec does not say whether a read of an RC field of a frozen page, which returns the
snapshot (R22), clears the live field: the model clears it (DESIGN CHOICE, log entry 102). -/
def Mod.readClear (m : Mod) (die page off rmask : Nat) : Mod :=
  let c := rcMask die page off &&& rmask
  if c = 0 then m else m.setReg die page off (m.reg die page off &&& (2 ^ 64 - 1 - c))

/-- Where an access to register space is refused (R14, R18, R20, R453): the die, page and ERR_STAT bit that record it. -/
def Mod.regRefused (m : Mod) (q die page off size : Nat) : Option (Nat × Nat × Nat) :=
  let bad := (blockAt die page).isNone || !((size == 4 || size == 8) && off % size == 0)
  let kept := die == 4 && page == keeperPage && isCore q
  let recov := q == hostCode && (m.fld 4 keeperPage 0x100 0 4 == 2 || m.fld 4 keeperPage 0x100 0 4 == 5) &&
    !(die == 4 && (page == hostportPage || page == keeperPage))
  if q = hostCode then (if bad || recov then some (4, hostportPage, 8) else none)
  else if (blockAt die page).isNone then some (die, stewardPage die, 0)
  else if bad || kept then some (die, page, 0)
  else none

/-- A read of `size` bytes of register space by `q`: the data, or none for an access error (R14, R20). -/
def readReg (a : AlwaysOn) (m : Mod) (q die page off size : Nat) : Option Nat × Mod :=
  match m.regRefused q die page off size with
  | some (d, p, b) => (none, m.err d p b q 0 (regMpa die page off))
  | none =>
    let base := off / 8 * 8
    let lo := if size = 4 ∧ off % 8 = 4 then 32 else 0
    let m1 := m.settleTimed die page base
    if die = 4 ∧ page = 2072 ∧ base = 0x100 ∧ size = 4 then
      if lo = 0 then (some (bits (peek a m1 4 2072 0x100) 0 32), { m1 with timeLatch := some (bits (peek a m1 4 2072 0x100) 32 32) })
      else match m1.timeLatch with
        | some t => (some t, { m1 with timeLatch := none })
        | none => (some (bits (peek a m1 4 2072 0x100) 32 32), m1)
    else
      match blockAt die page with
      | some (.core, slot) =>
        if base = 0x120 then
          let c := die * 256 + slot
          let ad := m1.reg die page 0x118
          let v := (List.range 4).foldl (fun v i => v + (m1.parcel c (ad + i)).toNat * 2 ^ (14 * i)) 0
          (some (bits v lo (8 * size)), m1.setReg die page 0x118 ((ad + 4) % 65536))
        else (some (bits (peek a m1 die page base) lo (8 * size)), m1.readClear die page base (spanMask lo (8 * size)))
      | _ => (some (bits (peek a m1 die page base) lo (8 * size)), m1.readClear die page base (spanMask lo (8 * size)))

/-! ### HBM behind a Barn (R350 to R356) -/

/-- The stack (0 to 7) of a Barn-local address (R352). -/
def stackOf (barn l : Nat) : Nat := barn * 4 + l / 1024 % 4

/-- Where in its stack a Barn-local address lies (R352). -/
structure HbmPlace where
  channel : Nat
  pseudo : Nat
  /-- L[37:23], L[21:17] and L[9:0], which select the bank, the row and the column. -/
  cell : Nat × Nat × Nat
  deriving DecidableEq, Repr

def hbmPlace (l : Nat) : HbmPlace :=
  { channel := bits l 12 5 ^^^ bits l 17 5, pseudo := bits l 22 1, cell := (bits l 23 15, bits l 17 5, bits l 0 10) }

/-- A controller reads a granule of its stack: a correctable error is corrected and written back, and MEMCTL_CE counts it (R355, R350). -/
def Mod.stackCorrect (m : Mod) (barn l : Nat) : Mod :=
  let w := hbmKey barn l / 64 * 8
  let hit := m.ce.filter (fun b => decide (w ≤ b) && decide (b < w + 8))
  if hit.isEmpty then m
  else ({ m with ce := m.ce.filter (fun b => !(decide (w ≤ b) && decide (b < w + 8))) } : Mod).addReg (4 + barn) (2064 + l / 1024 % 4) 0x140 hit.length

/-- An uncorrectable HBM error is found: the granule is marked poisoned, and its controller records it (R355). -/
def Mod.hbmUe (m : Mod) (q barn l mpa : Nat) : Mod :=
  let page := 2064 + l / 1024 % 4
  let g := hbmKey barn l / 64
  (({ m with poisoned := if m.poisoned.contains g then m.poisoned else m.poisoned ++ [g]
             bad := m.bad.filter (fun b => !(decide (g * 8 ≤ b) && decide (b < g * 8 + 8))) } : Mod).err (4 + barn) page 8 q 0 mpa).addReg
    (4 + barn) page 0x148 1

/-- A read or write that the Barn's own table gives to the other Barn (R15); HOSTPORT records those of the host (R14). -/
def Mod.wrongBarn (m : Mod) (q barn mpa : Nat) : Mod := if q = hostCode then m else m.err (4 + barn) placePage 8 q 0 mpa

/-- The MPA of a Barn-local address. -/
def Mod.mpaOf (m : Mod) (b l : Nat) : Nat := if m.homeBarn (4 + b) l = b then l else l + 2 ^ 38

/-! #### The Granary (R354)

The spec leaves open which line a replacement takes ("pseudo-LRU"): each is an open choice. That dirt and presence are held by granule, and
what else the model settles, is log entry 11. -/

/-- The key of a Barn-local address's set, its tag, and its granule in the line. -/
def gSet (barn l : Nat) : Nat := barn * 2 ^ 17 + bits l 7 17
def gTag (l : Nat) : Nat := bits l 24 14
def gHalf (l : Nat) : Nat := bits l 6 1

def Mod.gLines (m : Mod) (set : Nat) : List GLine := SMap.get [] m.granary set
def Mod.setGLines (m : Mod) (set : Nat) (ls : List GLine) : Mod := { m with granary := SMap.put [] m.granary set ls }

/-- The line that holds a Barn-local address's 128 bytes, if any. -/
def Mod.gLine (m : Mod) (barn l : Nat) : Option GLine := (m.gLines (gSet barn l)).find? (fun x => x.tag == gTag l)

/-- The line that holds the granule of a Barn-local address: a hit. -/
def Mod.gHit (m : Mod) (barn l : Nat) : Option GLine := (m.gLine barn l).filter (fun x => bits x.valid (gHalf l) 1 == 1)

/-- Write a line in place of the set's line of the same tag. -/
def Mod.putGLine (m : Mod) (barn l : Nat) (x : GLine) : Mod :=
  m.setGLines (gSet barn l) ((m.gLines (gSet barn l)).map (fun y => if y.tag = x.tag then x else y))

def Mod.poisonHbm (m : Mod) (g : Nat) (p : Bool) : Mod :=
  { m with poisoned := if p then (if m.poisoned.contains g then m.poisoned else m.poisoned ++ [g]) else m.poisoned.filter (fun x => x != g) }

/-- The granule at key `k` is written in HBM: its words' errors end, and it is poisoned or not. -/
def Mod.writeHbm (m : Mod) (barn l : Nat) (p : Bool) : Mod :=
  let g := hbmKey barn l / 64
  let keep := fun (b : Nat) => !(decide (g * 8 ≤ b) && decide (b < g * 8 + 8))
  (({ m with bad := m.bad.filter keep, ce := m.ce.filter keep } : Mod).poisonHbm g p).dieEv (4 + barn) 0x81 (l / 1024 % 4) 1

/-- GRANARY ERR_STAT.UE: an uncorrectable error in a dirty line, found by `q` (R355). -/
def Mod.granaryUe (m : Mod) (q barn l : Nat) : Mod := m.err (4 + barn) granaryPage 8 q 0 (m.mpaOf barn l)

/-- The dirty granules of a line go back to HBM (R354); one with an uncorrectable error becomes poisoned (R355). -/
def Mod.gWriteBack (m : Mod) (barn set : Nat) (x : GLine) : Mod :=
  if x.dirty % 4 = 0 then m
  else
    let m1 := (List.range 2).foldl (fun (y : Mod) h =>
      if bits x.dirty h 1 = 1 then
        let l := x.tag * 2 ^ 24 + set % 2 ^ 17 * 128 + h * 64
        let bad := decide (bits x.bad (8 * h) 8 ≠ 0)
        let z := if bad then y.free.2.granaryUe y.free.1 barn l else y
        z.writeHbm barn l (bad || bits x.poison h 1 == 1)
      else y) m
    (m1.addReg (4 + barn) granaryPage 0x150 1).dieEv (4 + barn) 0x84 0 1

/-- Every dirty line of a Granary is written back and stays (R354, before self-refresh). -/
def Mod.gFlush (m : Mod) : Mod :=
  m.granary.foldl (fun (x : Mod) e =>
    (e.2.foldl (fun (y : Mod) g => y.gWriteBack (e.1 / 2 ^ 17) e.1 g) x).setGLines e.1 (e.2.map (fun g =>
      { g with dirty := 0, poison := (List.range 2).foldl (fun p h =>
          if bits g.dirty h 1 = 1 ∧ bits g.bad (8 * h) 8 ≠ 0 then setBits p h 1 1 else p) g.poison
               bad := (List.range 2).foldl (fun b h => if bits g.dirty h 1 = 1 then setBits b (8 * h) 8 0 else b) g.bad }))) m

/-- The lines of the first `n` ways of a Granary leave it: its exact bins take those ways (R354, R362). -/
def Mod.gTake (m : Mod) (barn n : Nat) : Mod :=
  (m.granary.filter (fun e => e.1 / 2 ^ 17 == barn)).foldl (fun (x : Mod) e =>
    ((e.2.filter (fun g => decide (g.way < n))).foldl (fun (y : Mod) g => y.gWriteBack barn e.1 g) x).setGLines e.1
      (e.2.filter (fun g => decide (n ≤ g.way)))) m

/-- An access that reads finds the errors of a granule that the Granary holds (R355): a correctable one is corrected; a line that is clean is
invalidated, so that HBM is read again; in a dirty line the granule becomes poisoned. -/
def Mod.gScan (m : Mod) (q barn l : Nat) : Mod :=
  match m.gHit barn l with
  | none => m
  | some x =>
    let h := gHalf l
    let n := popc 8 (bits x.ce (8 * h) 8)
    let m1 := if n = 0 then m
      else (m.putGLine barn l { x with ce := setBits x.ce (8 * h) 8 0 }).satFld (4 + barn) granaryPage 0x168 0 32 n
    if bits x.bad (8 * h) 8 = 0 then m1
    else if x.dirty % 4 = 0 then
      (m1.setGLines (gSet barn l) ((m1.gLines (gSet barn l)).filter (fun y => y.tag != x.tag))).satFld (4 + barn) granaryPage 0x168 0 32 1
    else
      (m1.putGLine barn l { x with ce := setBits x.ce (8 * h) 8 0, bad := setBits x.bad (8 * h) 8 0, poison := setBits x.poison h 1 1 }).granaryUe q barn l

/-- A granule is read from its stack: correctable errors are corrected, and an uncorrectable one poisons it (R355). -/
def Mod.gFetch (m : Mod) (q barn l mpa : Nat) : Mod :=
  let k := hbmKey barn l / 64 * 64
  let m1 := (m.dieEv (4 + barn) 0x80 (l / 1024 % 4) 1).stackCorrect barn l
  if m1.wordsOk k 64 then m1 else m1.hbmUe q barn l mpa

/-- PLACE_ENT.NOALLOC of the entry of an MPA. -/
def Mod.noAlloc (m : Mod) (barn mpa : Nat) : Bool :=
  let g := mpa / 2 ^ 30 % 512
  m.fld (4 + barn) placePage (0x200 + g / 8 * 8) (8 * (g % 8) + 1) 1 == 1

/-- The granule of a Barn-local address comes into the Granary: into its line where the set has one, else into a caching way that is free, or
in place of an open choice of line (R354). -/
def Mod.gPlace (m : Mod) (barn l : Nat) : Mod :=
  let set := gSet barn l
  let h := gHalf l
  let p := b2n (m.poisoned.contains (hbmKey barn l / 64))
  let fill := fun (x : GLine) => { x with valid := setBits x.valid h 1 1, poison := setBits x.poison h 1 p, bad := setBits x.bad (8 * h) 8 0, ce := setBits x.ce (8 * h) 8 0 }
  match m.gLine barn l with
  | some x => m.putGLine barn l (fill x)
  | none =>
    let n := m.fld (4 + barn) granaryPage 0x100 0 4
    let free := ((List.range 16).filter (fun w => decide (n ≤ w))).filter (fun w => (m.gLines set).all (fun x => x.way != w))
    let x := m.free
    let way := if free.isEmpty then n + x.1 % (16 - n) else free.getD (x.1 % free.length) 0
    let old := (m.gLines set).filter (fun y => y.way == way)
    let m1 := old.foldl (fun (y : Mod) g => y.gWriteBack barn set g) x.2
    m1.setGLines set (fill { way := way, tag := gTag l } :: (m.gLines set).filter (fun y => y.way != way))

/-- A request for a granule passes through the Granary (R354): a hit, or a miss that reads HBM unless the request writes the whole granule, and
that comes into the Granary unless the entry says NOALLOC. -/
def Mod.gTouch (m : Mod) (q barn l mpa : Nat) (whole : Bool) : Mod :=
  let m0 := if whole then m else m.gScan q barn l
  match m0.gHit barn l with
  | some _ => (m0.addReg (4 + barn) granaryPage 0x140 1).dieEv (4 + barn) 0x82 0 1
  | none =>
    let m1 := (m0.addReg (4 + barn) granaryPage 0x148 1).dieEv (4 + barn) 0x83 0 1
    let m2 := if whole then m1 else m1.gFetch q barn l mpa
    if m2.noAlloc barn mpa then m2 else m2.gPlace barn l

/-- The granule reads as poisoned (R355): the Granary's mark where it holds it, else that of HBM. -/
def Mod.gPoison (m : Mod) (barn l : Nat) : Bool :=
  match m.gHit barn l with
  | some x => bits x.poison (gHalf l) 1 == 1
  | none => m.poisoned.contains (hbmKey barn l / 64)

/-- Bytes of a granule have been written (R354, R355): the line that holds it is dirty, or HBM is written; a write of all of it clears poison and
errors, and one that does not finds none. -/
def Mod.gStore (m : Mod) (barn l : Nat) (whole : Bool) : Mod :=
  let h := gHalf l
  match m.gHit barn l with
  | some x =>
    let y := { x with dirty := setBits x.dirty h 1 1 }
    m.putGLine barn l (if whole then { y with poison := setBits y.poison h 1 0, bad := setBits y.bad (8 * h) 8 0, ce := setBits y.ce (8 * h) 8 0 } else y)
  | none => m.writeHbm barn l (!whole && m.poisoned.contains (hbmKey barn l / 64))

/-- A granule becomes poisoned where it is held (R360). -/
def Mod.gMark (m : Mod) (barn l : Nat) : Mod :=
  match m.gHit barn l with
  | some x => m.putGLine barn l { x with poison := setBits x.poison (gHalf l) 1 1 }
  | none => m.poisonHbm (hbmKey barn l / 64) true

/-- A read at its home Barn (R354, R355). `owned` says that the Barn's own table gave it the granule when the request was issued, so that a
change of the entry meanwhile sends it nowhere else (R16). -/
def Mod.barnRead (m : Mod) (q barn mpa len : Nat) (owned : Bool) : Resp × Mod :=
  if owned = false ∧ m.homeBarn (4 + barn) mpa ≠ barn then (.err, m.wrongBarn q barn mpa)
  else
    let l := mpa % 2 ^ 38
    if m.deadStacks.contains (stackOf barn l) then (.poison, m)
    else
      let m1 := m.gTouch q barn l mpa false
      if m1.gPoison barn l then (.poison, m1) else (.data (m1.rd (hbmKey barn l) len), m1)

/-- A plain write of the masked bytes at its home Barn (R354, R355): a whole granule clears poison, a narrower write to
a poisoned granule is acknowledged with poison. -/
def Mod.barnWrite (m : Mod) (q barn mpa len mask data : Nat) (owned : Bool) : Resp × Mod :=
  if owned = false ∧ m.homeBarn (4 + barn) mpa ≠ barn then (.err, m.wrongBarn q barn mpa)
  else
    let l := mpa % 2 ^ 38
    let k := hbmKey barn l
    let whole := decide (len = 64 ∧ mask = 2 ^ 64 - 1)
    if m.deadStacks.contains (stackOf barn l) then (.poison, m)
    else
      let m1 := m.gTouch q barn l mpa whole
      if whole then (.ok, (m1.wr k 64 data).gStore barn l true)
      else if m1.gPoison barn l then (.poison, m1)
      else (.ok, (m1.wrMask k len mask data).gStore barn l false)

/-! ### The host window (R392) -/

/-- PCIe address of a host-window MPA and its No Snoop bit; none when the entry refuses it. -/
def Mod.hostAddr (m : Mod) (mpa : Nat) : Option (Nat × Bool) :=
  let o := mpa - 0x60000000000
  let e := m.reg 4 hostportPage (0x800 + o / 2 ^ 32 % 256 * 8)
  let a := bits e 0 52 * 4096 + o % 2 ^ 32
  if bits e 63 1 = 1 ∧ a < 2 ^ 64 then some (a, bits e 62 1 == 1) else none

/-- The link takes requests: it is up and the function is not in D3hot (R393). -/
def Mod.hostUp (m : Mod) : Bool := m.fld 4 hostportPage 0x100 0 1 == 1 && !m.d3

/-- A host-window access that ends as an access error (R392, R393). -/
def Mod.hostErr (m : Mod) (q mpa : Nat) : Mod := m.err 4 hostportPage 8 q 0 mpa

/-- Host-window reads that wait for a completion end as access errors (R393). -/
def Mod.failReads (m : Mod) : Mod :=
  (m.net.filter (fun r => r.resp.isNone && r.sent && (match decodeMpa r.mpa with | .host _ => true | _ => false))).foldl
    (fun (x : Mod) r => (x.hostErr r.q r.mpa).respond r.id .err) m

/-! ### Sweeps -/

/-- The Granary or the HBM of a Barn (0 BW, 1 BE) is being swept (R414, R428). -/
def Mod.barnSweep (m : Mod) (b : Nat) : Bool := m.fld (4 + b) (sweepPage (4 + b)) 0x100 8 2 != 0

/-- The memory that a far read from a die reaches is being swept: the read waits (R330, R415). -/
def Mod.farWaits (m : Mod) (mpa : Nat) : Bool :=
  match decodeMpa mpa with
  | .loft c _ => m.coreSweep c
  | .hbm _ => m.barnSweep 0 || m.barnSweep 1
  | _ => false

end Sys2Proof.Machine
end

