-- ==== Sys2Proof/Machine/Barn.lean ====
section
/-! DEFINITION. The home of far requests (R329, R349 to R363): Loft window accesses, Granary reads and writes, FAST and EXACT
accumulating writes, buffer descriptors, FINALISE and ZERO, patrol, stack temperature and ECS counts, placement writes. -/

namespace Sys2Proof.Machine

/-! ### Requests at their home -/

/-- Serve request `id` where it leads to HBM, has reached its home, and nothing must be performed before it (R214, R324): the Barn that held
the granule's home when it was issued (R16). -/
def serveHbm (id : Nat) (m : Mod) (f : Req → Nat → Mod → Option (Resp × Mod)) : Mod :=
  match m.findReq id with
  | none => m
  | some r =>
    match decodeMpa r.mpa with
    | .hbm _ =>
      if !r.waiting || m.mustFollow r || m.farWaits r.mpa then m
      else
        let e := m.ejected r
        if e.2 then e.1
        else match f r (r.home - 4) e.1 with
          | some x => x.2.respond id x.1
          | none => m
    | _ => m

/-- BARN_READ: read request `id` reaches its home Barn (R354). -/
def execBarnRead (id : Nat) (s : State) : Ans :=
  .next { s with mod := serveHbm id s.mod (fun r b m =>
    match r.op with | .read => some (m.barnRead r.q b r.mpa r.len r.owned) | _ => none) }

/-- BARN_WRITE: write request `id` reaches its home Barn (R354, R355). -/
def execBarnWrite (id : Nat) (s : State) : Ans :=
  .next { s with mod := serveHbm id s.mod (fun r b m =>
    match r.op with | .write mask data => some (m.barnWrite r.q b r.mpa r.len mask data r.owned) | _ => none) }

/-- LOFT_WINDOW_ACCESS: request `id` reaches the ring stop of the core whose Loft window it names, waits while that Loft is
swept, and is admitted or refused (R329, R330). -/
def execLoftWindowAccess (id : Nat) (s : State) : Ans :=
  let m := s.mod
  .next (match m.findReq id with
    | none => s
    | some r =>
      match decodeMpa r.mpa with
      | .loft c off =>
        if !r.waiting || m.mustFollow r || m.coreSweep c then s
        else
          let e := m.ejected r
          { s with mod := if e.2 then e.1 else e.1.windowAccess r c off }
      | _ => s)

/-- A read by firmware in BW (the Keeper's, or that of BW's steward for the rings) of bytes of one granule, from their home as it stands: its
commands read all they need at once, so such a read is no request of its own (DESIGN CHOICE, log entry 118). -/
def fetchFar (a : AlwaysOn) (m : Mod) (q mpa len : Nat) : Resp × Mod :=
  if decodeMpa mpa = .none then (.err, m.errUnpopulated q 4 mpa)
  else if !(decide (0xF00 ≤ q) && isRegSpace mpa) && m.routeCut 4 (m.homeDie 4 mpa) mpa then (.poison, m)
  else match decodeMpa mpa with
    | .hbm _ => let b := m.homeBarn 4 mpa; m.barnRead q b mpa len (m.homeBarn (4 + b) mpa == b)
    | .loft c off =>
      (match m.windowDenied (m.tagOf q) 4 c with
        | some b => (.err, m.err (c / 256) (2048 + c % 256) b q 0 mpa)
        | none =>
          let k := loftKey c + off
          (match m.badWords k len with
            | b :: _ => (.poison, (m.scrub k len).err (c / 256) (corePage c 0) 10 q 0 (mpa / 8 * 8 + b - k / 8 * 8))
            | [] => (.data (m.rd k len), m.scrub k len)))
    | .reg d p o =>
      (match readReg a m q d p o len with
        | (some v, m1) => (.data v, m1)
        | (none, m1) => (.err, m1))
    | _ => (.err, m)

/-- A write of 8 bytes by such firmware. -/
def Mod.putFar (m : Mod) (q mpa v : Nat) : Mod :=
  match decodeMpa mpa with
  | .hbm _ => let b := m.homeBarn 4 mpa; if m.routeCut 4 (4 + b) mpa then m else (m.barnWrite q b mpa 8 0xFF v (m.homeBarn (4 + b) mpa == b)).2
  | .loft c off => if m.routeCut 4 (c / 256) mpa || (m.windowDenied (m.tagOf q) 4 c).isSome then m else (m.loftWrite (loftKey c + off) 8 0xFF v).1
  | _ => m

/-! ### Accumulation buffers (R358) -/

/-- Offset of register `i` of descriptor `n`: 0 BASE, 1 SIZE, 2 ANCH, 3 CMD, 4 DONE, 5 STAT. -/
def accOffset (n i : Nat) : Nat := 0x400 + n * 0x40 + 8 * i

def Mod.accReg (m : Mod) (die n i : Nat) : Nat := m.reg die granaryPage (accOffset n i)
def Mod.accEn (m : Mod) (die n : Nat) : Bool := bits (m.accReg die n 0) 0 1 == 1
def Mod.accBusy (m : Mod) (die n : Nat) : Bool := bits (m.accReg die n 5) 0 1 == 1
def Mod.accBase (m : Mod) (die n : Nat) : Nat := bits (m.accReg die n 0) 6 38 * 64
def Mod.accCount (m : Mod) (die n : Nat) : Nat := bits (m.accReg die n 1) 0 24
def Mod.accBin (m : Mod) (die n : Nat) : Nat := bits (m.accReg die n 1) 24 24
def Mod.accInt (m : Mod) (die n : Nat) : Bool := bits (m.accReg die n 1) 48 1 == 1
def Mod.accAnchor (m : Mod) (die n : Nat) : Int := sext 9 (m.accReg die n 2)

/-- Key of the bin of element `e`. -/
def Mod.binKey (m : Mod) (die n e : Nat) : Nat := die * 2 ^ 24 + m.accBin die n + e

/-- The enabled descriptor whose buffer holds an address. -/
def Mod.accAt (m : Mod) (die a : Nat) : Option Nat :=
  (List.range 16).find? (fun n => m.accEn die n && decide (m.accBase die n ≤ a) && decide (a < m.accBase die n + 4 * m.accCount die n))

/-- Discard or zero the bins of a buffer, errors included. -/
def Mod.zeroBins (m : Mod) (die n : Nat) : Mod :=
  let lo := m.binKey die n 0
  let hi := lo + m.accCount die n
  { m with bins := SMap.dropRange m.bins lo hi, badBins := m.badBins.filter (fun b => !(decide (lo ≤ b) && decide (b < hi))) }

def Mod.setAccStat (m : Mod) (die n lo w v : Nat) : Mod := m.setFld die granaryPage (accOffset n 5) lo w v

/-- Record ACC_CFG with its reason (R358, R360, R361). -/
def Mod.accCfg (m : Mod) (q die n reason : Nat) : Mod := m.err die granaryPage 9 q (n + reason * 2 ^ 8) 0

/-- The first failing check of R358. -/
def Mod.accCheck (m : Mod) (die n : Nat) : Option Nat :=
  let base := m.accBase die n
  let cnt := m.accCount die n
  let fin := base + 4 * cnt
  let bin := m.accBin die n
  let entries := (List.range 512).filter (fun g => decide (g * 2 ^ 30 < fin) && decide (base < (g + 1) * 2 ^ 30))
  let others := (List.range 16).filter (fun i => i != n && m.accEn die i)
  if cnt = 0 ∨ 2 ^ 39 < fin then some 1
  else if entries.any (fun g => m.spread die g || g / 256 != die - 4) then some 2
  else if m.fld die granaryPage 0x100 0 4 * 2 ^ 20 < bin + cnt then some 3
  else if others.any (fun i =>
      (decide (base < m.accBase die i + 4 * m.accCount die i) && decide (m.accBase die i < fin)) ||
      (decide (bin < m.accBin die i + m.accCount die i) && decide (m.accBin die i < bin + cnt))) then some 4
  else none

/-- EN of a buffer becomes 0: its bins are discarded. -/
def Mod.accClose (m : Mod) (die n : Nat) : Mod :=
  let m1 := (m.zeroBins die n).setFld die granaryPage (accOffset n 0) 0 1 0
  let k := die * 16 + n
  { m1 with accOff := m1.accOff.filter (fun x => x != k), accMoved := m1.accMoved.filter (fun x => x != k) }

/-- A write of ACC_n_BASE (R358). -/
def Mod.accBaseWrite (m : Mod) (q die n we wv : Nat) : Mod :=
  let o := accOffset n 0
  let want := bits wv 0 1 == 1
  if m.accEn die n then
    if bits we 0 1 = 0 ∨ want then m
    else if m.accBusy die n then { m with accOff := (die * 16 + n) :: m.accOff.filter (fun x => x != die * 16 + n) }
    else m.accClose die n
  else
    let m1 := m.commonWrite q die granaryPage o (we &&& (2 ^ 64 - 2)) wv
    if bits we 0 1 = 0 ∨ !want then m1
    else match m1.accCheck die n with
      | some r => m1.accCfg q die n r
      | none => ((m1.zeroBins die n).setFld die granaryPage o 0 1 1).setAccStat die n 1 3 0

/-- A write of GRANARY_CTRL (R362): the ways that become exact hold no lines (R354). -/
def Mod.granaryCtrl (m : Mod) (q die we wv : Nat) : Mod :=
  if (List.range 16).any (fun n => m.accEn die n) then m.err die granaryPage 11 q 0 0
  else
    let m1 := m.commonWrite q die granaryPage 0x100 we wv
    m1.gTake (die - 4) (m1.fld die granaryPage 0x100 0 4)

/-! ### Accumulating writes (R357, R359) -/

/-- An accumulating unit that is refused. -/
def Mod.accRefuse (m : Mod) (q die mpa : Nat) : Resp × Mod := (.err, m.err die granaryPage 10 q 0 mpa)

/-- The sum of a FAST contribution: 0 FP32, 1 BF16, 2 INT32. -/
def fastSum (fmt old x : Nat) : Nat :=
  match fmt with
  | 0 => fadd old x
  | 1 => bf16.encode .rne false ((bf16.decode old).add (bf16.decode x))
  | _ => (old + x) % 2 ^ 32

/-- A FAST unit of `len` bytes at its home Barn; elements with a byte outside the mask contribute nothing. -/
def Mod.accFast (m : Mod) (q b mpa len mask data fmt : Nat) (owned : Bool) : Resp × Mod :=
  let die := 4 + b
  if owned = false ∧ m.homeBarn die mpa ≠ b then (.err, m.wrongBarn q b mpa)
  else if (m.accAt die mpa).isSome || (m.accAt die (mpa + len - 1)).isSome then m.accRefuse q die mpa
  else
    let k := hbmKey b (mpa % 2 ^ 38)
    let l := mpa % 2 ^ 38
    if m.deadStacks.contains (stackOf b l) then (.poison, m)
    else
    let m1 := m.gTouch q b l mpa false
    if m1.gPoison b l then (.poison, m1)
    else
      let w := if fmt = 1 then 2 else 4
      let m2 := (List.range (len / w)).foldl (fun (x : Mod) i =>
        if bits mask (w * i) w = 2 ^ w - 1 then x.wr (k + w * i) w (fastSum fmt (x.rd (k + w * i) w) (bits data (8 * w * i) (8 * w))) else x) m1
      (.ok, ((m2.gStore b l false).addReg die granaryPage 0x158 1).dieEv die 0x85 0 1)

/-- What a contribution does to a bin: its integer, or the STAT flag it sets instead (1 RANGE, 2 NONFIN). -/
def contribution (int : Bool) (anchor : Int) (x : Nat) : Int ⊕ Nat :=
  if int then .inl (sext 32 x)
  else match ofF32 x with
    | .num s m e =>
      let sh := e - (anchor - 60)
      let mag := if 0 ≤ sh then m * 2 ^ sh.toNat else m / 2 ^ (-sh).toNat
      if m ≠ 0 ∧ anchor + 67 ≤ ilog2 m e then .inr 1
      else .inl (if s then -(mag : Int) else mag)
    | _ => .inr 2

/-- An EXACT unit at its home Barn (R359). -/
def Mod.accExact (m : Mod) (q b mpa len mask data fmt : Nat) (owned : Bool) : Resp × Mod :=
  let die := 4 + b
  if owned = false ∧ m.homeBarn die mpa ≠ b then (.err, m.wrongBarn q b mpa)
  else match m.accAt die mpa with
    | none => m.accRefuse q die mpa
    | some n =>
      let base := m.accBase die n
      let int := m.accInt die n
      if base + 4 * m.accCount die n < mpa + len ∨ m.accMoved.contains (die * 16 + n) = true ∨ int ≠ (fmt == 2) then m.accRefuse q die mpa
      else
        let m1 := (List.range (len / 4)).foldl (fun (x : Mod) i =>
          if bits mask (4 * i) 4 ≠ 15 then x
          else
            let key := x.binKey die n ((mpa - base) / 4 + i)
            match contribution int (x.accAnchor die n) (bits data (32 * i) 32) with
            | .inl v => { x with bins := SMap.put 0 x.bins key (SMap.get 0 x.bins key + BitVec.ofInt 128 v) }
            | .inr f => x.setAccStat die n f 1 1) m
        (.ok, (m1.addReg die granaryPage 0x160 1).dieEv die 0x86 0 1)

/-- ACCUMULATING_WRITE_FAST: FAST unit `id` reaches its home Barn. -/
def execAccFast (id : Nat) (s : State) : Ans :=
  .next { s with mod := serveHbm id s.mod (fun r b m =>
    match r.op with | .accFast mask data fmt => some (m.accFast r.q b r.mpa r.len mask data fmt r.owned) | _ => none) }

/-- ACCUMULATING_WRITE_EXACT: EXACT unit `id` reaches its home Barn. -/
def execAccExact (id : Nat) (s : State) : Ans :=
  .next { s with mod := serveHbm id s.mod (fun r b m =>
    match r.op with | .accExact mask data fmt => some (m.accExact r.q b r.mpa r.len mask data fmt r.owned) | _ => none) }

/-! ### FINALISE and ZERO (R360, R361) -/

/-- The value that FINALISE writes for element `e`. -/
def Mod.binValue (m : Mod) (die n e : Nat) : Nat :=
  let b := (SMap.get 0 m.bins (m.binKey die n e)).toInt
  if m.accInt die n then ofInt 32 b
  else toF32 (.num (decide (b < 0)) b.natAbs (m.accAnchor die n - 60))

/-- FINALISE writes granule `g` (an MPA divided by 64) of a buffer: its elements' values, poisoned where one's bin is. -/
def Mod.finGranule (m : Mod) (die n g : Nat) : Mod :=
  let base := m.accBase die n
  let fin := base + 4 * m.accCount die n
  let els := (List.range 16).filter (fun i => decide (base ≤ g * 64 + 4 * i) && decide (g * 64 + 4 * i < fin))
  let elem := fun (i : Nat) => (g * 64 + 4 * i - base) / 4
  let mask := els.foldl (fun v i => v + 15 * 2 ^ (4 * i)) 0
  let data := els.foldl (fun v i => v + m.binValue die n (elem i) * 2 ^ (32 * i)) 0
  let b := die - 4
  let l := g * 64 % 2 ^ 38
  let k := hbmKey b l
  if m.deadStacks.contains (stackOf b l) then m
  else
    let whole := decide (mask = 2 ^ 64 - 1)
    let x := m.free
    let m0 := x.2.gTouch x.1 b l (g * 64) whole
    let m1 := if whole then (m0.wr k 64 data).gStore b l true
      else if m0.gPoison b l then m0
      else (m0.wrMask k 64 mask data).gStore b l false
    if els.any (fun i => m.badBins.contains (m.binKey die n (elem i))) then (m1.gMark b l).setAccStat die n 3 1 1
    else m1

/-- The effect of FINALISE on HBM and the bins. -/
def Mod.finalise (m : Mod) (q die n : Nat) (keep : Bool) : Mod :=
  if m.accMoved.contains (die * 16 + n) then m.accCfg q die n 2
  else
    let base := m.accBase die n
    let m1 := (List.range (m.accCount die n / 16 + 1)).foldl (fun (x : Mod) i =>
      if base / 64 * 64 + 64 * i < base + 4 * m.accCount die n then x.finGranule die n (base / 64 + i) else x) m
    (if keep then m1 else m1.zeroBins die n).dieEv die 0x87 0 (m.accCount die n)

/-- The effect of ZERO. -/
def Mod.zeroBuffer (m : Mod) (die n : Nat) : Mod := (m.zeroBins die n).setAccStat die n 1 3 0

/-- A write of ACC_n_CMD (R360): the command begins, and BUSY reads 1 until its completion. -/
def Mod.accCmd (m : Mod) (q die n v : Nat) : Mod :=
  let fin := bits v 1 1 == 1
  let zero := bits v 0 1 == 1
  if !fin && !zero then m
  else if m.accBusy die n || !m.accEn die n then m.err die granaryPage 11 q 0 0
  else
    let m1 := if fin then m.finalise q die n (bits v 2 1 == 1) else m
    let m2 := (if zero then m1.zeroBuffer die n else m1).setAccStat die n 0 1 1
    { m2 with accOps := m2.accOps ++ [{ die := die, n := n, fin := fin, keep := bits v 2 1 == 1, zero := zero }] }

/-- End an operation: BUSY clears, and a write that cleared EN meanwhile takes effect. -/
def Mod.accEnd (m : Mod) (o : AccOp) : Mod :=
  let m1 := ({ m with accOps := m.accOps.erase o } : Mod).setAccStat o.die o.n 0 1 0
  if m1.accOff.contains (o.die * 16 + o.n) then m1.accClose o.die o.n else m1

/-- The operation in progress on a descriptor, with a FINALISE or without. -/
def Mod.accOp (m : Mod) (die n : Nat) (fin : Bool) : Option AccOp := m.accOps.find? (fun o => o.die == die && o.n == n && o.fin == fin)

/-- FINALISE_COMPLETE: the completion actions of R360, in order. -/
def execFinaliseComplete (die n : Nat) (s : State) : Ans :=
  if die = 4 ∨ die = 5 then
    let m := s.mod
    .next (match m.accOp die n true with
      | none => s
      | some o =>
        let d := m.accReg die n 4
        let m1 := if bits d 32 1 = 1 then
            (match m.sendInc (bits d 0 32) 1 (0xF00 + die) die .msg with | some x => x | none => m.errOpen die granaryPage 9 (n + 5 * 2 ^ 8) 0) else m
        let m2 := m1.setAccStat die n 32 32 (bits (m1.accReg die n 5) 32 32 + 1)
        let m3 := if bits d 33 1 = 1 then m2.irq die granaryPage 1 else m2
        { s with mod := m3.accEnd o })
  else .fault (.noSuchAgent die)

/-- ZERO_COMPLETE: a ZERO alone has ended. -/
def execZeroComplete (die n : Nat) (s : State) : Ans :=
  if die = 4 ∨ die = 5 then
    .next (match s.mod.accOp die n false with | none => s | some o => { s with mod := s.mod.accEnd o })
  else .fault (.noSuchAgent die)

/-! ### Controllers (R350, R356) -/

/-- PATROL_READ: the controller of stack `k` (0 to 7) reads and checks a granule of its stack; PERIOD 0 stops the patrol. -/
def execPatrolRead (k l : Nat) (s : State) : Ans :=
  if k < 8 then
    let m := s.mod
    let b := k / 4
    let a := l / 64 * 64 % 2 ^ 38
    .next (if s.aon.powered = false ∨ m.fld (4 + b) (2064 + k % 4) 0x108 0 16 = 0 ∨ stackOf b a ≠ k ∨ m.deadStacks.contains k ∨ m.poisoned.contains (hbmKey b a / 64) then s
      else if m.wordsOk (hbmKey b a) 64 then { s with mod := m.stackCorrect b a }
      else { s with mod := m.free.2.hbmUe m.free.1 b a (m.mpaOf b a) })
  else .fault (.noSuchAgent k)

/-- DOUBLED_REFRESH: stack `k` reports a temperature in °C; above 85 its controller doubles the refresh rate. -/
def execDoubledRefresh (k temp : Nat) (s : State) : Ans :=
  if k < 8 then
    let die := 4 + k / 4
    let page := 2064 + k % 4
    .next (if s.aon.powered then { s with mod := (s.mod.setFld die page 0x100 8 8 temp).setFld die page 0x100 1 1 (b2n (decide (85 < temp % 256))) } else s)
  else .fault (.noSuchAgent k)

/-- ECS_READ: the controller of stack `k` reads the stack's count of ECS errors. -/
def execEcsRead (k count : Nat) (s : State) : Ans :=
  if k < 8 then .next (if s.aon.powered then { s with mod := s.mod.setReg (4 + k / 4) (2064 + k % 4) 0x150 (count % 2 ^ 32) } else s)
  else .fault (.noSuchAgent k)

/-! ### Placement (R353, R361) -/

/-- A write of PLACE_ENT_k of Barn die `die`: the pair's SPREAD bits stay equal; a mode that changes under an enabled EXACT
buffer sets EXACT_PLACE. -/
def Mod.placeWrite (m : Mod) (q die off we wv : Nat) : Mod :=
  let k := (off - 0x200) / 8
  let m1 := m.commonWrite q die placePage off we wv
  let spr := 0x0101010101010101
  let m2 := m1.commonWrite q die placePage (0x200 + (k ^^^ 32) * 8) (we &&& spr) wv
  let moved := (List.range 16).filter (fun n => m.accEn die n && (List.range 512).any (fun g =>
    m.spread die g != m2.spread die g && decide (g * 2 ^ 30 < m.accBase die n + 4 * m.accCount die n) && decide (m.accBase die n < (g + 1) * 2 ^ 30)))
  if moved.isEmpty then m2
  else ({ m2 with accMoved := (m2.accMoved ++ moved.map (fun n => die * 16 + n)).eraseDups } : Mod).err die placePage 9 q 0 (regMpa die placePage off)

end Sys2Proof.Machine
end

