-- ==== Sys2Proof/Machine/Special.lean ====
section
/-! DEFINITION. The special functions of R109, correctly rounded: each is computed in 256-bit fixed point, and an inexact
result carries a sticky bit below every bit that rounding looks at. -/

namespace Sys2Proof.Machine

/-- One, and ln 2, in fixed point with 256 fraction bits. -/
def fxOne : Nat := 2 ^ 256
def fxLn2 : Nat := 80260960185991308862233904206310070533990667611589946606122867505419956976171

/-- exp(y) for 0 ≤ y < 1 in fixed point: terms `n` of the series, from term `k` with value `t`. -/
def expSeries (y : Nat) : Nat → Nat → Nat → Nat → Nat
  | 0, _, _, acc => acc
  | n + 1, k, t, acc => expSeries y n (k + 1) (t * y / fxOne / k) (acc + t)

/-- 2^f for a fixed-point fraction 0 ≤ f < 1. -/
def exp2Frac (f : Nat) : Nat := expSeries (f * fxLn2 / fxOne) 70 1 fxOne 0

/-- atanh series: sum of w^(2k+1)/(2k+1). -/
def atanhSeries (w2 : Nat) : Nat → Nat → Nat → Nat → Nat
  | 0, _, _, acc => acc
  | n + 1, k, t, acc => atanhSeries w2 n (k + 2) (t * w2 / fxOne) (acc + t / k)

/-- ln z for a fixed-point 1 ≤ z < 2. -/
def lnFrac (z : Nat) : Nat :=
  let w := (z - fxOne) * fxOne / (z + fxOne)
  2 * atanhSeries (w * w / fxOne) 90 1 w 0

/-- A truncated positive result with sticky: not exact, so a set bit stands below the last one computed. -/
def sticky (s : Bool) (m : Nat) (e : Int) : FV := .num s (2 * m + 1) (e - 1)

/-- m * 2^e in fixed point, truncated; exact for every F32 and BF16 value of magnitude at least 2^-150. -/
def toFx (m : Nat) (e : Int) : Nat := if 0 ≤ e + 256 then m * 2 ^ (e + 256).toNat else m / 2 ^ (-(e + 256)).toNat

/-- exp2 of a finite value, exact or sticky. -/
def exp2V (s : Bool) (m : Nat) (e : Int) : FV :=
  if m = 0 then .num false 1 0
  else if 12 ≤ ilog2 m e then (if s then sticky false 1 (-2000) else .num false 1 4096)
  else
    let x := toFx m e
    let i := x / fxOne
    let f := x % fxOne
    if f = 0 then .num false 1 (if s then -(i : Int) else i)
    else if s then sticky false (exp2Frac (fxOne - f)) (-(i : Int) - 1 - 256)
    else sticky false (exp2Frac f) ((i : Int) - 256)

/-- log2 of a positive finite value. -/
def log2V (m : Nat) (e : Int) : FV :=
  let k := ilog2 m e
  let z := m * 2 ^ 256 / 2 ^ (bitLen m - 1)
  if m = 2 ^ (bitLen m - 1) then ofIntFV k
  else
    let fr := lnFrac z * fxOne / fxLn2
    let t := k * (fxOne : Int) + fr
    if 0 ≤ t then sticky false t.toNat (-256) else sticky true (-t - 1).toNat (-256)

/-- Reciprocal of a nonzero finite value. -/
def rcpV (s : Bool) (m : Nat) (e : Int) : FV :=
  let q := 2 ^ 256 / m
  if 2 ^ 256 % m = 0 then .num s q (-256 - e) else sticky s q (-256 - e)

/-- Integer square root by bits, highest first. -/
def isqrtBits : Nat → Nat → Nat → Nat
  | 0, _, r => r
  | n + 1, v, r => if (r + 2 ^ n) * (r + 2 ^ n) ≤ v then isqrtBits n v (r + 2 ^ n) else isqrtBits n v r

/-- Reciprocal square root of a positive finite value: 2^256 / sqrt(m') with an even exponent. -/
def rsqrtV (m : Nat) (e : Int) : FV :=
  let m' := if e % 2 = 0 then m else 2 * m
  let e' := if e % 2 = 0 then e else e - 1
  let v := 2 ^ 512 / m'
  let r := isqrtBits 257 v 0
  if r * r * m' = 2 ^ 512 then .num false r (-256 - e' / 2) else sticky false r (-256 - e' / 2)

/-- tanh of a nonzero finite value with |x| < 9 (R109); tiny magnitudes lie just below x. -/
def tanhV (s : Bool) (m : Nat) (e : Int) : FV :=
  if ilog2 m e < -40 then .num s (m * 2 ^ 72 - 1) (e - 72)
  else
    let y := 2 * toFx m e * fxOne / fxLn2
    let i := y / fxOne
    let f := y % fxOne
    let t := (if f = 0 then fxOne else exp2Frac (fxOne - f) / 2) / 2 ^ i
    sticky s ((fxOne - t) * fxOne / (fxOne + t)) (-256)

/-- VSF function `fn` on an input, before rounding (R109); none for a code that is not listed. -/
def vsf (fn : Nat) (x : FV) : Option FV :=
  match fn with
  | 0 => some (match x with
      | .nan => .nan
      | .inf s => if s then .num false 0 0 else .inf false
      | .num s m e => exp2V s m e)
  | 1 => some (match x with
      | .nan => .nan
      | .inf s => if s then .nan else .inf false
      | .num s m e => if m = 0 then .inf true else if s then .nan else log2V m e)
  | 2 => some (match x with
      | .nan => .nan
      | .inf s => .num s 0 0
      | .num s m e => if m = 0 then .inf s else rcpV s m e)
  | 3 => some (match x with
      | .nan => .nan
      | .inf s => if s then .nan else .num false 0 0
      | .num s m e => if m = 0 then .inf s else if s then .nan else rsqrtV m e)
  | 4 => some (match x with
      | .nan => .nan
      | .inf s => .num s 1 0
      | .num s m e =>
        if m = 0 then .num s 0 0
        else if !(x.abs.lt (.num false 9 0)) then .num s 1 0
        else tanhV s m e)
  | _ => none

/-- VSF in F32, as the epilogue uses it (R118). -/
def exp2F32 (a : Nat) : Nat := toF32 ((vsf 0 (ofF32 a)).getD .nan)
def rcpF32 (a : Nat) : Nat := toF32 ((vsf 2 (ofF32 a)).getD .nan)
def tanhF32 (a : Nat) : Nat := toF32 ((vsf 4 (ofF32 a)).getD .nan)

end Sys2Proof.Machine
end

