-- ==== Sys2Proof/Machine/Translate.lean ====
section
/-! DEFINITION. Far reads of vector and tile loads and the return of load data (R58, R111, R206), translation walks and the TLB (R200 to
R204), Crib fills (R205, R206), write-out of the write-combining buffer (R207) and release of range tracker entries (R197). -/

namespace Sys2Proof.Machine

/-! ### Crib -/

/-- Allocate a line: its set holds eight ways, and the pseudo-LRU victim of a full set is an open choice (log entry 13). -/
def Mod.cribPut (m : Mod) (c line data : Nat) : Mod :=
  let k := m.core c
  let rest := k.crib.filter (fun l => l.line != line)
  let set := rest.filter (fun l => decide (l.line % 64 = line % 64))
  if set.length < 8 then m.setCore c { k with crib := rest ++ [{ line := line, data := data }] }
  else
    let x := m.free
    match set[x.1 % set.length]? with
    | some v => x.2.setCore c { k with crib := rest.filter (fun l => l.line != v.line) ++ [{ line := line, data := data }] }
    | none => x.2

/-- Deliver one granule of a fill to a load that waits for it, or its error. -/
def Load.filled (l : Load) (line : Nat) (r0 r1 : Resp) : Load :=
  if l.line = some line then
    match (if l.off < 64 then r0 else r1) with
    | .data v =>
      let raw := v / 2 ^ (8 * (l.off % 64)) % 2 ^ (8 * 2 ^ l.size)
      { l with val := some (extend l.size l.sx (patchBytes (2 ^ l.size) raw l.patchMask l.patch)), line := none }
    | _ => { l with val := some 0, line := none }
  else l

/-- Reports of the loads that a failed granule serves: ACCESS_ERROR or POISON with SUB 0 (R87). -/
def fillReports (ls : List Load) (line : Nat) (r0 r1 : Resp) : List Report :=
  ls.filterMap (fun l => if l.line = some line then
    (match (if l.off < 64 then r0 else r1) with
      | .err => some { cause := 7, sub := 0, addr := l.ea }
      | .poison => some { cause := 8, sub := 0, addr := l.ea }
      | _ => none) else none)

/-! ### Far reads of vector loads and of instructions at issue -/

/-- The bytes of a piece within the granule or line that `v` holds from byte `at_` of its line, with the store bytes that precede it. -/
def Piece.take (p : Piece) (at_ v : Nat) : Resp :=
  .data (patchBytes p.len (bits v (8 * (p.mpa % 128 - at_)) (8 * p.len)) p.patchMask p.patch)

/-- Begin a far read that has not begun, where its turn has come: from the Crib, by joining a fill or starting one (R206), or as a request;
register-space accesses are made one after the other (R226). -/
def Mod.beginPiece (m0 : Mod) (c : Nat) (p : Piece) : Mod × Piece :=
  if p.begun then (m0, p)
  else if p.crib then
    let line := p.mpa / 128
    let m := m0.cribCheck c line
    let k := m.core c
    match k.cribHit line with
    | some x => (m.cribCount c true, { p with begun := true, ans := some (p.take 0 x.data) })
    | none =>
      match k.fills.find? (fun f => f.line == line) with
      | some f =>
        if f.alloc then (m.cribCount c false, { p with begun := true, patchMask := bits f.mask (p.mpa % 128) p.len, patch := bits f.bytes (8 * (p.mpa % 128)) (8 * p.len) })
        else (m, p)
      | none => if 8 ≤ k.fills.length then (m, p) else ((m.cribCount c false).startFill c line, { p with begun := true })
  else if isRegSpace p.mpa && m0.regBusy c then (m0, p)
  else (m0.post (.piece c p.own p.lane) (reqCode c) (dieOf c) p.mpa p.len .read, { p with begun := true, req := m0.nextId })

/-- Begin what can begin, in order. -/
def pumpList (c : Nat) : List Piece → Mod → List Piece × Mod
  | [], m => ([], m)
  | p :: t, m =>
    let x := m.beginPiece c p
    let r := pumpList c t x.1
    (x.2 :: r.1, r.2)

/-- One lane of a vector load takes its answer (R115): an access error gives zero, poison leaves the whole register unchanged, and the
lowest lane that failed is reported. -/
def VLoad.lane (ps : List Piece) (l : VLoad) (x : Nat × Nat × Nat) : VLoad :=
  let fail := fun (l : VLoad) (cause : Nat) =>
    if x.1 < l.repLane then { l with rep := some { cause := cause, sub := 2, addr := x.2.1 }, repLane := x.1 } else l
  match (ps.find? (fun p => decide (p.mpa ≤ x.2.2) && decide (x.2.2 + 4 ≤ p.mpa + p.len) && (p.lane == 64 || p.lane == x.1))).bind (fun p => p.ans.map (fun r => (p, r))) with
  | some (p, .data v) => { l with data := l.data + BitVec.ofNat 2048 (bits v (8 * (x.2.2 - p.mpa)) 32 * 2 ^ (32 * x.1)) }
  | some (_, .poison) => { fail l 8 with hurt := true }
  | _ => fail l 7

/-- A vector load all of whose far reads have been answered takes them. -/
def VLoad.settle (l : VLoad) (ps : List Piece) : VLoad :=
  let mine := ps.filter (fun p => p.own == l.id)
  if mine.all (fun p => p.ans.isSome) then { l.far.foldl (VLoad.lane mine) l with far := [] } else l

/-- Vector loads take their answers, and write when that is due. -/
def Core.settleV (k : Core) : Core :=
  let vs := k.vloads.map (fun l => l.settle k.pieces)
  let k1 := { k with vloads := [], pieces := k.pieces.filter (fun p => p.own == 0 || vs.any (fun l => l.id == p.own && !l.done)) }
  matureVLoads vs [] k1

/-- Far reads of a core that wait begin where they can, vector loads take their answers, and the next register-space write goes out. -/
def Mod.pump (m : Mod) (c : Nat) : Mod :=
  let r := pumpList c (m.core c).pieces m
  (r.2.onCore c (fun k => ({ k with pieces := r.1 } : Core).settleV)).regPump c

/-- The answer of a far read reaches the piece that asked for it. -/
def Core.pieceBack (k : Core) (id : Nat) (x : Resp) : Core :=
  { k with pieces := k.pieces.map (fun (p : Piece) =>
      if p.crib = false ∧ p.begun = true ∧ p.req = id ∧ p.ans = none then { p with ans := some x } else p) }

/-- LOAD_DATA_RETURN: the response to request `id` of core or steward `c` reaches it (R58, R111, R155). -/
def execLoadDataReturn (c id : Nat) (s : State) : Ans :=
  onCpu c s (fun m =>
    match m.findReq id with
    | some r =>
      match r.use, r.answer with
      | .load c' i, some x => if c' = c then ((m.retireReq id).onCore c (fun k => k.loadBack i x)).pump c else m
      | .piece c' _ _, some x => if c' = c then ((m.retireReq id).onCore c (fun k => k.pieceBack id x)).pump c else m
      | _, _ => m
    | none => m)

/-! ### Fills -/

/-- A piece that waits for the fill of a line takes its granule. -/
def Piece.filled (p : Piece) (line : Nat) (r0 r1 : Resp) : Piece :=
  if p.crib && p.begun && p.ans.isNone && p.mpa / 128 == line then
    let lo := p.mpa % 128 < 64
    match (if lo then r0 else r1) with
    | .data v => { p with ans := some (p.take (if lo then 0 else 64) v) }
    | r => { p with ans := some r }
  else p

/-- CRIB_FILL: both granules of a line have returned; waiting loads and pieces take their data, and the line is allocated unless an
acquire (R208) or the release of a far write entry (R197) came between, or a granule failed. -/
def execCribFill (c line : Nat) (s : State) : Ans :=
  onCpu c s (fun m =>
    let find := fun (h : Nat) => m.net.find? (fun r => decide (r.use = .fill c line h) && r.answer.isSome)
    match find 0, find 1, (m.core c).fills.find? (fun f => f.line == line) with
    | some a, some b, some f =>
      let r0 := a.answer.getD .err
      let r1 := b.answer.getD .err
      let k := m.core c
      let keep := fun (l : Load) => !(decide (l.line = some line) && (match (if l.off < 64 then r0 else r1) with | .poison => true | _ => false))
      let k1 := ({ k with
        fills := k.fills.filter (fun g => g.line != line)
        loads := (k.loads.filter keep).map (fun l => l.filled line r0 r1)
        pieces := k.pieces.map (fun p => p.filled line r0 r1)
        reports := k.reports ++ fillReports k.loads line r0 r1 } : Core).mature
      let m1 := ((m.retireReq a.id).retireReq b.id).setCore c k1
      (match r0, r1 with
      | .data x, .data y => if f.alloc then m1.cribPut c line (patchBytes 128 (x + y * 2 ^ 512) f.mask f.bytes) else m1
      | _, _ => m1).pump c
    | _, _, _ => m)

/-! ### Walks -/

/-- One check of R201 on an entry, in the order of its table: the reason that fails. -/
def entryFault (level e : Nat) (leaf store task : Bool) : Option Nat :=
  let ctx := level == 0
  let reserved := bits e 44 20 != 0 || bits e 5 7 != 0 || (ctx && bits e 1 4 != 0) || (level == 1 && bits e 1 1 == 1) ||
    (level == 2 && leaf && bits e 12 18 != 0) || (level == 3 && bits e 12 9 != 0)
  if reserved then some 3 else if bits e 0 1 = 0 then some 0
  else if leaf && task && bits e 3 1 == 0 then some 2 else if leaf && store && bits e 2 1 == 0 then some 1 else none

/-- The key of the walker's reads for a core. -/
def walkKey (c : Nat) : Nat := 0x30000 + c

/-- The walk reads the entry at `addr` for a level next: it is requested, or the walk has failed with reason 4. -/
def Mod.walkRead (m : Mod) (c level addr : Nat) : Mod :=
  m.onCore c (fun k => { k with walk := k.walk.map (fun (w : Walk) =>
      { w with running := true, level := level, addr := addr, result := if 0x8000000000 ≤ addr then some (.inr (level, 4)) else none }) })
    |> fun m1 => if 0x8000000000 ≤ addr then m1 else m1.post (.fetch (walkKey c)) (reqCode c) (dieOf c) addr 8 .read

/-- What the entry read for a walk's level leads to: the address of the next level's entry, or the walk's result. -/
def Walk.next (w : Walk) (x : Resp) : Nat ⊕ (TlbEntry ⊕ (Nat × Nat)) :=
  match x with
  | .data e =>
    let leaf := w.level == 3 || (w.level == 2 && bits e 1 1 == 1)
    match entryFault w.level e leaf w.store w.task with
    | some r => .inr (.inr (w.level, r))
    | none =>
      if leaf then
        .inr (.inl (TlbEntry.mk w.asid (w.level == 2) (if w.level = 2 then w.va / 2 ^ 30 else w.va / 2 ^ 21)
          (if w.level = 2 then bits e 30 14 else bits e 21 23) (bits e 2 1 == 1) (bits e 3 1 == 1) (bits e 4 1 == 1)))
      else
        let idx := match w.level with | 0 => bits w.va 39 9 | 1 => bits w.va 30 9 | _ => bits w.va 21 9
        .inl (bits e 12 32 * 4096 + idx * 8)
  | _ => .inr (.inr (w.level, 5))

/-- The walker of the core's die serves the core's walk: it is among the first 16 in arrival order (R203). -/
def Mod.walkServed (m : Mod) (c : Nat) : Bool := ((m.walkers.filter (fun x => dieOf x == dieOf c)).take 16).contains c

/-- TRANSLATION_WALK: the die walker goes on with core `c`'s walk: it starts it, or takes the entry that has been read and reads the next
level's (R200, R201, R203). -/
def execTranslationWalk (c : Nat) (s : State) : Ans :=
  onCpu c s (fun m =>
    match (m.core c).walk with
    | some w =>
      if w.result.isSome || !m.walkServed c then m
      else if !w.running then (m.walkRead c 0 (w.cbase + w.asid * 8)).dieEv (dieOf c) 0x47 0 1
      else match m.fetched (walkKey c) w.addr 8 with
        | some r =>
          (match r.answer with
            | some x =>
              let m1 := m.retireReq r.id
              (match w.next x with
                | .inl a => m1.walkRead c (w.level + 1) a
                | .inr y => m1.onCore c (fun k => { k with walk := some { w with result := some y } }))
            | none => m)
        | none => m
    | none => m)

/-- Fill the TLB (R202): overlapping entries of the address space go first, the least recently used of 64 is replaced. -/
def Core.tlbFill (k : Core) (e : TlbEntry) : Core :=
  let overlap := fun (x : TlbEntry) => x.asid == e.asid &&
    (if e.big then (if x.big then x.vpage == e.vpage else x.vpage / 512 == e.vpage)
     else (if x.big then x.vpage == e.vpage / 512 else x.vpage == e.vpage))
  { k with tlb := e :: (k.tlb.filter (fun x => !overlap x)).take 63 }

/-- WALK_COMPLETE: the walk fills the TLB, or raises TRANSLATION at the instruction that waits (R55, R201); its walker is free. -/
def execWalkComplete (c : Nat) (s : State) : Ans :=
  onCpu c s (fun m =>
    match (m.core c).walk with
    | some w =>
      match w.result with
      | some x =>
        ({ m with walkers := m.walkers.erase c } : Mod).onCore c (fun k =>
          match x with
          | .inl e =>
            let k1 := { k with walk := none }
            if w.noFill then k1 else k1.tlbFill e
          | .inr (level, reason) =>
            ({ k with walk := none, tfinfo := tfWord w.asid level reason } : Core).raise 5 w.sub w.va (w.sub == 3 && !w.store))
      | none => m
    | none => m)

/-- TLBINV: an MTS of special register 0x061; a steward has none (R73). -/
def execTlbinv (c : Nat) (f : SysF) (s : State) : Ans :=
  onCpu c s (issue c 3 ((if isStw c then [0] else []) ++ marked [f.imm.toNat / 1024]) false false [f.a.toNat] (doTlbinv c f))

/-! ### Write-combining buffer and range tracker -/

/-- WCB_WRITEOUT: a line of the buffer is written out: untouched for 64 ac, or forced. -/
def execWcbWriteout (c line : Nat) (s : State) : Ans :=
  onCpu c s (fun m =>
    match (m.core c).wcb.find? (fun (l : WcbLine) => l.line == line) with
    | some l => m.writeOut c l
    | none => m)

/-- The owner of a range tracker entry still works on it (R196). -/
def Mod.rtLive (m : Mod) (c : Nat) (o : RtOwner) : Bool :=
  match o with
  | .tst n => m.tstOut c n
  | .wain w n =>
    m.net.any (fun r => match r.use with | .wain w2 _ n2 => w2 == c * 2 + w && n2 == n | _ => false) ||
      (let x := SMap.get {} m.wains (c * 2 + w); x.sent && x.move == n)
  | .matx n => (m.core c).mxq.any (fun x => x.id == n)

/-- RANGE_ENTRY_RELEASE: the `i`-th entry of core `c`'s tracker is released once its owner is done with it, and far write
entries invalidate the Crib lines they overlap (R197). -/
def execRangeEntryRelease (c i : Nat) (s : State) : Ans :=
  onCpu c s (fun m =>
    match (m.core c).rt[i]? with
    | some e => if m.rtLive c e.owner then m else m.onCore c (fun k => k.rtRelease e.owner)
    | none => m)

end Sys2Proof.Machine
end

