-- ==== Sys2Proof/Machine/Vector.lean ====
section
/-! DEFINITION. The vector unit (R102 to R116): predicates, element types, arithmetic, conversion, special functions,
reductions, permutes and memory access. -/

namespace Sys2Proof.Machine

/-! ### Registers and predicates -/

def Core.vr (k : Core) (i : Nat) : Nat := (SMap.get 0 k.v i).toNat
def Core.qr (k : Core) (i : Nat) : Nat := (SMap.get 0 k.q i).toNat

/-- An instruction that is not a load writes a vector register: the pending writes of loads to it are cancelled (R59, R111). The loads
stay under way, with what they report (R87, R115). -/
def Core.setV (k : Core) (i : Nat) (v : Nat) : Core :=
  { k with v := SMap.put 0 k.v i (BitVec.ofNat 2048 v), vloads := k.vloads.map (fun (l : VLoad) => if l.dest = i then { l with live := false } else l) }

def Core.setQ (k : Core) (i : Nat) (v : Nat) : Core := { k with q := SMap.put 0 k.q i (BitVec.ofNat 64 v) }

def lane (v i : Nat) : Nat := bits v (32 * i) 32

/-- A register from its 64 lanes. -/
def ofLanes (f : Nat → Nat) : Nat := (List.range 64).foldl (fun v i => v + f i % 2 ^ 32 * 2 ^ (32 * i)) 0

/-- Active lanes of a predicate field (R104). -/
def Core.active (k : Core) (pred : BitVec 4) : Nat := if pred = 0 then 2 ^ 64 - 1 else k.qr (pred.toNat % 8)

/-- Predicated write: inactive lanes keep their value, or receive zero when Z is 1 (R104). -/
def Core.setVp (k : Core) (f : VFields) (g : Nat → Nat) : Core :=
  let act := k.active f.pred
  let old := k.vr f.vd.toNat
  k.setV f.vd.toNat (ofLanes (fun i => if bits act i 1 = 1 then g i else if f.z = 1 then 0 else lane old i))

/-! ### Forms -/

/-- Which bits of each field a form uses; the others are marked 0 (R105, R106). -/
structure VForm where
  ty : List Nat := []
  pred : Bool := false
  z : Bool := false
  vd : Nat := 0
  va : Nat := 0
  vb : Nat := 0
  aux : Nat := 0
  /-- vb names no vector register; the parts of vd that are not written keep their value. -/
  gb : Bool := false
  keep : Bool := false

/-- The vector registers that a form reads: its sources, and vd where lanes or parts of it keep their value. -/
def VForm.reads (fm : VForm) (f : VFields) : List Nat :=
  (if fm.va = 31 then [f.va.toNat] else []) ++ (if fm.vb = 31 ∧ fm.gb = false then [f.vb.toNat] else []) ++
    (if fm.aux = 31 then [f.aux.toNat % 32] else []) ++
    (if fm.keep || (fm.z && f.z == 0 && f.pred != 0) then [f.vd.toNat] else [])

/-- ILLEGAL conditions of a form: a type or predicate code that no row gives is SUB 0, a blank field that holds a value
is SUB 1 (R106; a predicate 0b0nnn other than 0 is read as no code, log entry 14). -/
def vIlls (fm : VForm) (f : VFields) (extra : List Nat) : List Nat :=
  extra ++
  (if !fm.ty.isEmpty && !fm.ty.contains f.ty.toNat then [0] else []) ++
  (if fm.pred && decide (f.pred ≠ 0) && decide (f.pred.toNat < 8) then [0] else []) ++
  marked [if fm.ty.isEmpty then f.ty.toNat else 0, if fm.pred then 0 else f.pred.toNat, if fm.z then 0 else f.z.toNat,
    f.vd.toNat &&& (31 - fm.vd), f.va.toNat &&& (31 - fm.va), f.vb.toNat &&& (31 - fm.vb), f.aux.toNat &&& (255 - fm.aux)]

def allTypes : List Nat := [0, 1, 2, 3, 4, 5, 6, 7]

/-- Issue a vector instruction that completes with a change of the core: it waits for a pending load of a vector register that it reads
(R111). -/
def vOp (c : Nat) (fm : VForm) (f : VFields) (extra rs : List Nat) (g : Core → Core) (s : State) : Ans :=
  onCoreOnly c 3 s (issue c 3 (vIlls fm f extra) false false rs (fun m k =>
    if k.vhazard (fm.reads f) then .stay m else .ok ((m.setCore c (g k)).coreEv c 0x05 1)))

/-! ### Elements -/

/-- Elements per lane of a type code (R103). -/
def perLane (ty : Nat) : Nat := match ty with | 0 => 1 | 1 => 1 | 2 => 1 | 3 => 2 | 4 => 2 | _ => 4

def eWidth (ty : Nat) : Nat := 32 / perLane ty

/-- Format code (R124) of a floating-point type; none for an integer type. -/
def typeCode (ty : Nat) : Option Nat :=
  match ty with | 2 => some 0 | 3 => some 1 | 4 => some 2 | 5 => some 3 | 6 => some 4 | _ => none

/-- An integer element's value: U32 is unsigned, I32 and I8 are signed. -/
def intElem (ty v : Nat) : Int := if ty = 1 then ((v % 2 ^ 32 : Nat) : Int) else sext (eWidth ty) v

/-- The value of an element of any type. -/
def elemOf (ty v : Nat) : FV :=
  match typeCode ty with
  | some code => elemVal code v
  | none => ofIntFV (intElem ty v)

/-- Apply an element operation to each element of one lane of up to three operands. -/
def mapLane (ty : Nat) (op : Nat → Nat → Nat → Nat) (a b c : Nat) : Nat :=
  let w := eWidth ty
  (List.range (perLane ty)).foldl (fun v j => v + op (bits a (w * j) w) (bits b (w * j) w) (bits c (w * j) w) % 2 ^ w * 2 ^ (w * j)) 0

/-- An arithmetic element operation: on integers modulo the width, on floats rounded once to nearest even (R107). -/
def arith (ty : Nat) (fi : Int → Int → Int → Int) (ff : FV → FV → FV → FV) (a b c : Nat) : Nat :=
  match typeCode ty with
  | some code => convTo code .rne false (ff (elemVal code a) (elemVal code b) (elemVal code c))
  | none => ofInt (eWidth ty) (fi (intElem ty a) (intElem ty b) (intElem ty c))

/-- A predicated elementwise operation of va and vb. -/
def vArith (c : Nat) (f : VFields) (types : List Nat) (vb aux : Nat) (op : Nat → Nat → Nat → Nat → Nat) (s : State) : Ans :=
  vOp c { ty := types, pred := true, z := true, vd := 31, va := 31, vb := vb, aux := aux } f [] [] (fun k =>
    k.setVp f (fun i => mapLane f.ty.toNat (op f.ty.toNat) (lane (k.vr f.va.toNat) i) (lane (k.vr f.vb.toNat) i)
      (lane (k.vr (f.aux.toNat % 32)) i))) s

def execVadd (c : Nat) (f : VFields) (s : State) : Ans :=
  vArith c f allTypes 31 0 (fun ty => arith ty (fun a b _ => a + b) (fun a b _ => a.add b)) s
def execVsub (c : Nat) (f : VFields) (s : State) : Ans :=
  vArith c f allTypes 31 0 (fun ty => arith ty (fun a b _ => a - b) (fun a b _ => a.add b.neg)) s
def execVmul (c : Nat) (f : VFields) (s : State) : Ans :=
  vArith c f allTypes 31 0 (fun ty => arith ty (fun a b _ => a * b) (fun a b _ => a.mul b)) s
def execVfma (c : Nat) (f : VFields) (s : State) : Ans :=
  vArith c f allTypes 31 31 (fun ty => arith ty (fun a b d => a * b + d) (fun a b d => (a.mul b).add d)) s
def execVmin (c : Nat) (f : VFields) (s : State) : Ans :=
  vArith c f allTypes 31 0 (fun ty => arith ty (fun a b _ => min a b) (fun a b _ => a.min b)) s
def execVmax (c : Nat) (f : VFields) (s : State) : Ans :=
  vArith c f allTypes 31 0 (fun ty => arith ty (fun a b _ => max a b) (fun a b _ => a.max b)) s
def execVabs (c : Nat) (f : VFields) (s : State) : Ans :=
  vArith c f allTypes 0 0 (fun ty => arith ty (fun a _ _ => (a.natAbs : Int)) (fun a _ _ => a.abs)) s
def execVneg (c : Nat) (f : VFields) (s : State) : Ans :=
  vArith c f allTypes 0 0 (fun ty => arith ty (fun a _ _ => -a) (fun a _ _ => a.neg)) s

/-- A predicated bitwise operation of lanes. -/
def vBits (c : Nat) (f : VFields) (op : Nat → Nat → Nat) (s : State) : Ans :=
  vOp c { pred := true, z := true, vd := 31, va := 31, vb := 31 } f [] [] (fun k =>
    k.setVp f (fun i => op (lane (k.vr f.va.toNat) i) (lane (k.vr f.vb.toNat) i))) s

def execVand (c : Nat) (f : VFields) (s : State) : Ans := vBits c f (fun a b => a &&& b) s
def execVor (c : Nat) (f : VFields) (s : State) : Ans := vBits c f (fun a b => a ||| b) s
def execVxor (c : Nat) (f : VFields) (s : State) : Ans := vBits c f (fun a b => a ^^^ b) s

/-- Shifts exist for I32, U32 and I8, by vb's matching element modulo the width (R106). -/
def shiftTypes : List Nat := [0, 1, 7]
def execVshl (c : Nat) (f : VFields) (s : State) : Ans :=
  vArith c f shiftTypes 31 0 (fun ty a b _ => a * 2 ^ (b % eWidth ty)) s
/-- VSHR is logical for every type. R107 says that U32 makes it unsigned, and no rule says what it is for I32 and I8, where VSAR is the
arithmetic shift (DESIGN CHOICE, log entry 105). -/
def execVshr (c : Nat) (f : VFields) (s : State) : Ans :=
  vArith c f shiftTypes 31 0 (fun ty a b _ => a / 2 ^ (b % eWidth ty)) s
def execVsar (c : Nat) (f : VFields) (s : State) : Ans :=
  vArith c f shiftTypes 31 0 (fun ty a b _ => ofInt (eWidth ty) (sext (eWidth ty) a / ((2 ^ (b % eWidth ty) : Nat) : Int))) s

/-! ### Conversion -/

/-- One draw of the generator (R132). -/
def drawNext (x : Nat) : Nat :=
  let a := x ^^^ (x * 2 ^ 13 % 2 ^ 32)
  let b := a ^^^ (a / 2 ^ 17)
  b ^^^ (b * 2 ^ 5 % 2 ^ 32)

/-- Convert a value to a vector type (R108, R127 to R129); U32 saturates to its own range. -/
def toType (ty : Nat) (mode : Rnd) (ns : Bool) (v : FV) : Nat :=
  match typeCode ty with
  | some code => convTo code mode ns v
  | none =>
    match ty with
    | 0 => ofInt 32 (toIntSat mode (-2147483648) 2147483647 v)
    | 1 => ofInt 32 (toIntSat mode 0 4294967295 v)
    | _ => ofInt 8 (toIntSat mode (-128) 127 v)

/-- Convert a list of values in order: each stochastic conversion takes one draw (R134). -/
def convList (conv : Rnd → FV → Nat) (rm : Nat) : List FV → Nat → List Nat × Nat
  | [], g => ([], g)
  | v :: t, g =>
    let g1 := if rm = 2 then drawNext g else g
    let mode := if rm = 2 then Rnd.sto g1 else if rm = 1 then Rnd.rtz else Rnd.rne
    let r := convList conv rm t g1
    (conv mode v :: r.1, r.2)

/-- Place a list of elements of width w into a number from element `e`. -/
def placeElems (w : Nat) : List Nat → Nat → Nat → Nat
  | [], _, v => v
  | x :: t, e, v => placeElems w t (e + 1) (setBits v (w * e) w x)

/-- VCVT (R108). With more elements a lane on the source side, part P holds elements 64 k P onward for a target of k
elements a lane: R108's words give elements 64 P to 64 P + 63 for 64 lanes, which leaves half of them open where the target has two elements a
lane and the source four (DESIGN CHOICE, log entry 106). I32 to F32 rounds to nearest even whatever RM says (R129), and so takes no
draw. -/
def execVcvt (c : Nat) (f : VFields) (s : State) : Ans :=
  let src := f.ty.toNat
  let dst := bits f.aux.toNat 5 3
  let p := bits f.aux.toNat 3 2
  let rm := bits f.aux.toNat 1 2
  let ns := bits f.aux.toNat 0 1 == 1
  let ks := perLane src
  let kd := perLane dst
  let parts := if ks < kd then kd / ks else ks / kd
  vOp c { ty := allTypes, vd := 31, va := 31, aux := 255, keep := decide (ks < kd) } f ((if rm = 3 then [0] else []) ++ (if parts ≤ p then [1] else [])) []
    (fun k =>
      let n := 64 * Nat.min ks kd
      let from_ := if kd < ks then p * n else 0
      let vs := (List.range n).map (fun e => elemOf src (bits (k.vr f.va.toNat) ((from_ + e) * eWidth src) (eWidth src)))
      let r := convList (fun mode v => toType dst mode ns v) (if src = 0 ∧ dst = 2 then 0 else rm) vs k.srng.toNat
      let base := if ks < kd then p * n else 0
      { k.setV f.vd.toNat (placeElems (eWidth dst) r.1 base (k.vr f.vd.toNat)) with srng := BitVec.ofNat 32 r.2 }) s

/-! ### Moves, predicates, permutes -/

def execVsplat (c : Nat) (f : VFields) (s : State) : Ans :=
  let imm := bits f.vb.toNat 4 1 == 1
  vOp c { pred := true, z := true, vd := 31, vb := 31, aux := 255, gb := true } f [] (if imm then [] else [f.vb.toNat % 16]) (fun k =>
    k.setVp f (fun _ => if imm then ofInt 32 (sext 8 f.aux.toNat) else (k.gr (f.vb.toNat % 16)).toNat)) s

/-- A VCMP condition on two elements (R107). -/
def cmpElem (ty cond a b : Nat) : Bool :=
  let r := match typeCode ty with
    | some code =>
      let x := elemVal code a
      let y := elemVal code b
      (x.eq y, x.lt y, y.lt x, x.isNan || y.isNan)
    | none =>
      let x := intElem ty a
      let y := intElem ty b
      (decide (x = y), decide (x < y), decide (y < x), false)
  match cond with
  | 0 => r.1 | 1 => !r.1 | 2 => r.2.1 | 3 => r.2.1 || r.1 | 4 => r.2.2.1 | 5 => r.2.2.1 || r.1 | _ => r.2.2.2

def execVcmp (c : Nat) (f : VFields) (s : State) : Ans :=
  let ty := f.ty.toNat
  let cond := f.aux.toNat % 8
  let any := bits f.aux.toNat 3 1 == 1
  let w := eWidth ty
  vOp c { ty := allTypes, pred := true, vd := 7, va := 31, vb := 31, aux := 15 } f (if cond = 7 then [0] else []) [] (fun k =>
    let act := k.active f.pred
    let one := fun (i : Nat) =>
      let a := lane (k.vr f.va.toNat) i
      let b := lane (k.vr f.vb.toNat) i
      let l := (List.range (perLane ty)).map (fun j => cmpElem ty cond (bits a (w * j) w) (bits b (w * j) w))
      if any then l.any (fun x => x) else l.all (fun x => x)
    k.setQ (f.vd.toNat % 8) ((List.range 64).foldl (fun v i => v + b2n (bits act i 1 == 1 && one i) * 2 ^ i) 0)) s

def execQop (c : Nat) (f : VFields) (s : State) : Ans :=
  let fn := f.aux.toNat % 8
  vOp c { vd := 7, va := 7, vb := 7, aux := 7 } f (if fn = 7 then [0] else []) [] (fun k =>
    let a := k.qr (f.va.toNat % 8)
    let b := k.qr (f.vb.toNat % 8)
    let n := fun (x : Nat) => 2 ^ 64 - 1 - x
    k.setQ (f.vd.toNat % 8) (match fn with
      | 0 => a &&& b | 1 => a ||| b | 2 => a ^^^ b | 3 => a &&& n b | 4 => n a | 5 => 2 ^ 64 - 1 | _ => 0)) s

def execMtq (c : Nat) (f : VFields) (s : State) : Ans :=
  vOp c { vd := 7, vb := 15 } f [] [f.vb.toNat % 16] (fun k => k.setQ (f.vd.toNat % 8) (k.gr (f.vb.toNat % 16)).toNat) s

def execMfq (c : Nat) (f : VFields) (s : State) : Ans :=
  vOp c { vd := 15, va := 7 } f [] [] (fun k => k.setG (f.vd.toNat % 16) (BitVec.ofNat 64 (k.qr (f.va.toNat % 8)))) s

/-- VSEL: the predicate field names qn; 0b0000 raises ILLEGAL with SUB 0. -/
def execVsel (c : Nat) (f : VFields) (s : State) : Ans :=
  vOp c { pred := true, vd := 31, va := 31, vb := 31 } f (if f.pred = 0 then [0] else []) [] (fun k =>
    let q := k.qr (f.pred.toNat % 8)
    k.setV f.vd.toNat (ofLanes (fun i => lane (k.vr (if bits q i 1 = 1 then f.va.toNat else f.vb.toNat)) i))) s

/-- VSF on F32 and BF16 (R109). -/
def execVsf (c : Nat) (f : VFields) (s : State) : Ans :=
  let fn := f.aux.toNat % 8
  vOp c { ty := [2, 3], pred := true, z := true, vd := 31, va := 31, aux := 7 } f (if 5 ≤ fn then [0] else []) [] (fun k =>
    let code := (typeCode f.ty.toNat).getD 0
    k.setVp f (fun i => mapLane f.ty.toNat (fun a _ _ => convTo code .rne false ((vsf fn (elemVal code a)).getD .nan))
      (lane (k.vr f.va.toNat) i) 0 0)) s

/-- Pairwise tree of R110 on F32 bit patterns: one level. -/
def treeLevel (op : Nat → Nat → Nat) : List Nat → List Nat
  | a :: b :: t => op a b :: treeLevel op t
  | l => l

/-- Reduce a list through `n` levels. -/
def treeReduce (op : Nat → Nat → Nat) : Nat → List Nat → Nat
  | 0, l => l.headD 0
  | n + 1, l => treeReduce op n (treeLevel op l)

/-- VRED on floating-point elements, as F32 (R110). -/
def redFloat (fn : Nat) (l : List (Option Nat)) : Nat :=
  let ident := match fn with | 1 => 0xFF800000 | 2 => 0x7F800000 | 3 => 0xFFFFFFFF | _ => 0
  let op := match fn with
    | 0 => fadd | 1 => fmax | 2 => fmin | 3 => (fun a b => a &&& b) | 4 => (fun a b => a ||| b) | _ => (fun a b => a ^^^ b)
  treeReduce op 8 (l.map (fun x => x.getD ident))

/-- VRED on integer elements, modulo 2^64 (R110). For AND, OR and XOR, of which R110 gives neither identity nor extension, elements are extended as
for SUM and the identities are those of 64 bits, so that AND with no active lane gives 64 ones (DESIGN CHOICE, log entry 107). -/
def redInt (ty fn : Nat) (l : List (Option Nat)) : Nat :=
  let vs := l.filterMap (fun x => x.map (intElem ty))
  let lo : Int := if ty = 1 then 0 else -(2 ^ (eWidth ty - 1) : Nat)
  let hi : Int := if ty = 1 then 4294967295 else (2 ^ (eWidth ty - 1) : Nat) - 1
  let u := fun (i : Int) => ofInt 64 i
  match fn with
  | 0 => u (vs.foldl (fun a b => a + b) 0)
  | 1 => u (vs.foldl max lo)
  | 2 => u (vs.foldl min hi)
  | 3 => vs.foldl (fun a b => a &&& u b) (2 ^ 64 - 1)
  | 4 => vs.foldl (fun a b => a ||| u b) 0
  | _ => vs.foldl (fun a b => a ^^^ u b) 0

/-- VRED of va into g[d]. -/
def execVred (c : Nat) (f : VFields) (s : State) : Ans :=
  let ty := f.ty.toNat
  let fn := f.aux.toNat % 8
  let w := eWidth ty
  vOp c { ty := allTypes, pred := true, vd := 15, va := 31, aux := 7 } f (if 6 ≤ fn then [0] else []) [] (fun k =>
    let act := k.active f.pred
    let v := k.vr f.va.toNat
    let els := (List.range (64 * perLane ty)).map (fun e =>
      if bits act (e / perLane ty) 1 = 1 then some (bits v (w * e) w) else none)
    let r := match typeCode ty with
      | some code => redFloat fn (els.map (fun x => x.map (fun y => toF32 (elemVal code y))))
      | none => redInt ty fn els
    k.setG (f.vd.toNat % 16) (BitVec.ofNat 64 r)) s

def execVperm (c : Nat) (f : VFields) (s : State) : Ans :=
  vOp c { pred := true, z := true, vd := 31, va := 31, vb := 31 } f [] [] (fun k =>
    k.setVp f (fun i => lane (k.vr f.va.toNat) (lane (k.vr f.vb.toNat) i % 64))) s

def execVrot (c : Nat) (f : VFields) (s : State) : Ans :=
  vOp c { pred := true, z := true, vd := 31, va := 31, aux := 63 } f [] [] (fun k =>
    k.setVp f (fun i => lane (k.vr f.va.toNat) ((i + f.aux.toNat % 64) % 64))) s

def execVins (c : Nat) (f : VFields) (s : State) : Ans :=
  vOp c { vd := 31, vb := 15, aux := 63, keep := true } f [] [f.vb.toNat % 16] (fun k =>
    k.setV f.vd.toNat (setBits (k.vr f.vd.toNat) (32 * (f.aux.toNat % 64)) 32 (k.gr (f.vb.toNat % 16)).toNat)) s

def execVext (c : Nat) (f : VFields) (s : State) : Ans :=
  vOp c { vd := 15, va := 31, aux := 63 } f [] [] (fun k =>
    k.setG (f.vd.toNat % 16) (BitVec.ofNat 64 (lane (k.vr f.va.toNat) (f.aux.toNat % 64)))) s

/-! ### Memory access -/

/-- What the checks of R112 answer for a list of lanes: their places, or the first thing that stops them. -/
inductive LaneCheck where
  | places (k : Core) (l : List (Nat × Nat × Place))
  | stop (m : Mod → Res)

/-- Translate the lanes in order (R112, R113): each is (lane, address). A hit renews its entry (R202). -/
def placeLanes (c : Nat) (store : Bool) : List (Nat × Nat) → Core → List (Nat × Nat × Place) → LaneCheck
  | [], k, acc => .places k acc.reverse
  | (i, ea) :: t, k, acc =>
    match k.decodeEa c ea store 2 with
    | .miss => .stop (fun m => .stay ((m.setCore c k).startWalk c ea store 2))
    | .fault cause sub addr tf => .stop (fun m => trapPlace m c cause sub addr tf)
    | .own off => placeLanes c store t k ((i, ea, .own off) :: acc)
    | p => placeLanes c store t (k.touch ea) ((i, ea, p) :: acc)

/-- The checks on lanes in their order. VLD, VST, VLDS and VSTS: alignment, kernel-only Loft, translation (R112). VGATH and VSCAT, to
which R113 gives no order: that of R86, `priv`. Alignment is that of each active lane's address: R112 asks it of ea and g[b] too, and the
model raises nothing for a misaligned one that no active lane shows (DESIGN CHOICE, log entry 104). -/
def checkLanes (c : Nat) (k : Core) (store priv : Bool) (l : List (Nat × Nat)) : LaneCheck :=
  let kern := (l.find? (fun x => (k.kernelOnly x.2 4).isSome)).map (fun x => LaneCheck.stop (fun m => .trap m 3 1 x.2))
  let align := (l.find? (fun x => x.2 % 4 != 0)).map (fun x => LaneCheck.stop (fun m => .trap m 4 1 x.2))
  match (if priv then kern <|> align else align <|> kern) with
  | some x => x
  | none => placeLanes c store l k []

/-- A lane must wait: the range tracker (R196), store bytes of its own core (R207), an earlier register-space access (R226), an earlier
far read of its granule that has not begun (R215). -/
def laneWaits (c : Nat) (m : Mod) (k : Core) (store : Bool) (p : Place) : Bool :=
  match p with
  | .own off => k.rtBlocks c false off 4 store
  | .far mpa _ => k.rtBlocks c true mpa 4 store || (!store && m.wcbBusy k c mpa 4) || (store && k.pieceAhead mpa 4) ||
      (isRegSpace mpa && m.regOut c)
  | _ => false

/-- Lanes in the core's own Loft: lane, core address, key; and far lanes: lane, core address, MPA, NC. -/
def ownLanes (c : Nat) (ps : List (Nat × Nat × Place)) : List (Nat × Nat × Nat) :=
  ps.filterMap (fun p => match p.2.2 with | .own off => some (p.1, p.2.1, loftKey c + off) | _ => none)

def farLanes (ps : List (Nat × Nat × Place)) : List (Nat × Nat × Nat × Bool) :=
  ps.filterMap (fun p => match p.2.2 with | .far mpa nc => some (p.1, p.2.1, mpa, nc) | _ => none)

/-- The far reads of a vector load numbered `id`: a lane in register space reads its four bytes, the others their granules, each once and
through the Crib where R205 lets it allocate. -/
def lanePieces (id : Nat) (u : Bool) (l : List (Nat × Nat × Nat × Bool)) : List Piece :=
  (l.map (fun (i, _, mpa, nc) =>
    if isRegSpace mpa then { own := id, mpa := mpa, len := 4, crib := false, lane := i }
    else ({ own := id, mpa := mpa / 64 * 64, len := 64, crib := !(u || nc || !cribRange mpa) } : Piece))).eraseDups

/-- A vector load enters flight, cancelling the write of an earlier load within its shadow (R59, R111). -/
def Core.addVLoad (k : Core) (l : VLoad) : Core :=
  { k with vloads := k.vloads.map (fun (x : VLoad) => if x.dest = l.dest ∧ x.age < 3 then { x with live := false } else x) ++ [l] }

/-- The lanes of a vector load that lie in the core's own Loft, read at once (R63, R115): the load numbered `id` without its far lanes. -/
def Mod.ownLoad (m : Mod) (id d mask : Nat) (own : List (Nat × Nat × Nat)) : VLoad :=
  let bad := own.find? (fun p => !m.wordsOk p.2.2 4)
  { id := id, dest := d, age := 0, mask := BitVec.ofNat 64 mask
    data := BitVec.ofNat 2048 (own.foldl (fun v p => v + m.rd p.2.2 4 * 2 ^ (32 * p.1)) 0)
    rep := bad.map (fun p => { cause := 6, sub := 1, addr := p.2.1 })
    repLane := (match bad with | some p => p.1 | none => 64)
    hurt := bad.isSome }

/-- Perform a vector load of lanes (lane, address) into v[d]: own Loft at once, far lanes by reads that are answered one by one (R112,
R213, R216). -/
def doVload (c d : Nat) (z u priv : Bool) (act : Nat) (lanes : List (Nat × Nat)) (post : Core → Core) (m : Mod) (k : Core) : Res :=
  match checkLanes c k false priv lanes with
  | .stop r => r m
  | .places k1 ps =>
    if ps.any (fun p => laneWaits c m k false p.2.2) then .stay (m.setCore c k1)
    else
      let far := farLanes ps
      let own := ownLanes c ps
      let l := { m.ownLoad m.nextId d (if z then 2 ^ 64 - 1 else act) own with far := far.map (fun p => (p.1, p.2.1, p.2.2.1)) }
      let m1 := own.foldl (fun (x : Mod) p => x.scrub p.2.2 4) { m with nextId := m.nextId + 1 }
      let m2 := (m1.setCore c (let k2 := (post k1).addVLoad l; { k2 with pieces := k2.pieces ++ lanePieces l.id u far })).pump c
      .ok ((if far.isEmpty then m2 else m2.coreEv c 0x10 1).coreEv c 0x05 1)

/-- Store the lanes of own Loft in ascending order; `keys` are all their keys. A four-byte store is a read-modify-write of its bank word
unless another lane writes the other half (R195); a lane whose word cannot be read stores nothing and fails (R115). -/
def storeOwn (c id data : Nat) (keys : List Nat) : List (Nat × Nat × Nat) → Mod → Mod
  | [], m => m
  | (i, ea, key) :: t, m =>
    let paired := keys.contains (if key % 8 = 0 then key + 4 else key - 4)
    if paired || m.wordsOk key 4 then
      storeOwn c id data keys t ((if paired then m else m.scrub key 4).wrMask key 4 15 (lane data i))
    else storeOwn c id data keys t (m.onCore c (fun k => k.noteFail id i { cause := 6, sub := 1, addr := ea }))

/-- Bank words that a store rewrites whole lose their error. -/
def healWords (keys : List Nat) (m : Mod) : Mod :=
  let whole := fun (b : Nat) => keys.contains (b * 8) && keys.contains (b * 8 + 4)
  { m with bad := m.bad.filter (fun b => !whole b), ce := m.ce.filter (fun b => !whole b) }

/-- The far lanes of a store that lie in one line, as one merge: mask, bytes and marks. The highest lane wins where several name one
address. -/
def lineOf (id data line : Nat) (l : List (Nat × Nat × Nat × Bool)) : Nat × Nat × List (Nat × StoreMark) :=
  (l.filter (fun (_, _, mpa, _) => mpa / 128 == line)).foldl (fun (r : Nat × Nat × List (Nat × StoreMark)) (i, ea, mpa, _) =>
    let off := mpa % 128
    (r.1 ||| 15 * 2 ^ off, setBits r.2.1 (8 * off) 32 (lane data i), r.2.2 ++ [(off, { sub := 2, ea := ea, vec := some id, lane := i })])) (0, 0, [])

/-- The far lanes of a vector store: those in register space wait their turn (R226), the others enter the write-combining buffer line by
line, so that no granule is torn (R207, R213). -/
def Mod.storeFar (m : Mod) (c id data : Nat) (l : List (Nat × Nat × Nat × Bool)) : Mod :=
  let regs := l.filter (fun (_, _, mpa, _) => isRegSpace mpa)
  let mem := l.filter (fun (_, _, mpa, _) => !isRegSpace mpa)
  let m1 := (mem.map (fun (_, _, mpa, _) => mpa / 128)).eraseDups.foldl (fun (x : Mod) line =>
    let y := lineOf id data line mem
    x.wcbLine c line y.1 y.2.1 y.2.2) m
  let q := regs.map (fun (i, ea, mpa, _) =>
    ({ tst := none, mpa := mpa, len := 4, data := lane data i, mark := { sub := 2, ea := ea, vec := some id, lane := i } } : RegStore))
  (m1.onCore c (fun k => { k with regQ := k.regQ ++ q })).regPump c

/-- Perform a vector store of v[d]. -/
def doVstore (c d : Nat) (priv : Bool) (lanes : List (Nat × Nat)) (post : Core → Core) (m : Mod) (k : Core) : Res :=
  match checkLanes c k true priv lanes with
  | .stop r => r m
  | .places k1 ps =>
    if ps.any (fun p => laneWaits c m k true p.2.2) then .stay (m.setCore c k1)
    else
      let own := ownLanes c ps
      let keys := own.map (fun p => p.2.2)
      let id := m.nextId
      let m0 := ({ m with nextId := id + 1 } : Mod).setCore c (post k1)
      let m1 := (healWords keys (storeOwn c id (k.vr d) keys own m0)).storeFar c id (k.vr d) (farLanes ps)
      .ok ((if m1.vstOut c id then m1 else m1.onCore c (fun k => k.storeEnd id)).coreEv c 0x05 1)

/-- The lanes of an instruction that are active, with their addresses. -/
def lanesOf (act : Nat) (f : Nat → Nat) : List (Nat × Nat) :=
  ((List.range 64).filter (fun i => bits act i 1 == 1)).map (fun i => (i, f i % 2 ^ 64))

/-- Pointer, post-modify flag and bypass flag of a vector memory form (R106). -/
def vPost (f : VFields) : Bool := bits f.va.toNat 4 1 == 1
def vU (f : VFields) : Bool := bits f.va.toNat 3 1 == 1
def vPtr (f : VFields) : Nat := f.va.toNat % 8

/-- ea of R111. -/
def vEa (k : Core) (f : VFields) (scale : Nat) : Nat :=
  let off := sext 8 f.aux.toNat
  (k.modify (vPtr f) (if k.bitrev (vPtr f) && scale != 0 then off else off * (scale : Int))).toNat

def vPostOf (f : VFields) (k0 k : Core) : Core := postOf (vPost f) (vPtr f) k0 k

def execVld (c : Nat) (f : VFields) (s : State) : Ans :=
  onCoreOnly c 3 s (issue c 3 (vIlls { pred := true, z := true, vd := 31, va := 31, aux := 255 } f []) false false [] (fun m k =>
    let act := k.active f.pred
    doVload c f.vd.toNat (f.z == 1) (vU f) false act (lanesOf act (fun i => vEa k f 256 + 4 * i)) (vPostOf f k) m k))

def execVst (c : Nat) (f : VFields) (s : State) : Ans :=
  onCoreOnly c 3 s (issue c 3 (vIlls { pred := true, z := true, vd := 31, va := 31, aux := 255 } f []) false false [] (fun m k =>
    if k.vhazard [f.vd.toNat] then .stay m
    else doVstore c f.vd.toNat false (lanesOf (k.active f.pred) (fun i => vEa k f 256 + 4 * i)) (vPostOf f k) m k))

/-- Lane i at ea + i * g[b]. -/
def strideEa (k : Core) (f : VFields) (i : Nat) : Nat := vEa k f 4 + i * (k.gr (f.vb.toNat % 16)).toNat

def execVlds (c : Nat) (f : VFields) (s : State) : Ans :=
  onCoreOnly c 3 s (issue c 3 (vIlls { pred := true, z := true, vd := 31, va := 31, vb := 15, aux := 255 } f []) false false
    [f.vb.toNat % 16] (fun m k =>
      let act := k.active f.pred
      doVload c f.vd.toNat (f.z == 1) (vU f) false act (lanesOf act (strideEa k f)) (vPostOf f k) m k))

def execVsts (c : Nat) (f : VFields) (s : State) : Ans :=
  onCoreOnly c 3 s (issue c 3 (vIlls { pred := true, z := true, vd := 31, va := 31, vb := 15, aux := 255 } f []) false false
    [f.vb.toNat % 16] (fun m k =>
      if k.vhazard [f.vd.toNat] then .stay m
      else doVstore c f.vd.toNat false (lanesOf (k.active f.pred) (strideEa k f)) (vPostOf f k) m k))

/-- (ea + vb[i]) & 0x3F_FFFF (R113). -/
def gatherEa (k : Core) (f : VFields) (i : Nat) : Nat := (vEa k f 0 + lane (k.vr f.vb.toNat) i) % 0x400000

def execVgath (c : Nat) (f : VFields) (s : State) : Ans :=
  onCoreOnly c 3 s (issue c 3 (vIlls { pred := true, z := true, vd := 31, va := 23, vb := 31 } f []) false false [] (fun m k =>
    let act := k.active f.pred
    if k.vhazard [f.vb.toNat] then .stay m
    else doVload c f.vd.toNat (f.z == 1) false true act (lanesOf act (gatherEa k f)) (vPostOf f k) m k))

def execVscat (c : Nat) (f : VFields) (s : State) : Ans :=
  onCoreOnly c 3 s (issue c 3 (vIlls { pred := true, z := true, vd := 31, va := 23, vb := 31 } f []) false false [] (fun m k =>
    if k.vhazard [f.vb.toNat, f.vd.toNat] then .stay m
    else doVstore c f.vd.toNat true (lanesOf (k.active f.pred) (gatherEa k f)) (vPostOf f k) m k))

end Sys2Proof.Machine
end

