-- ==== Sys2Proof/Machine/Tile.lean ====
section
/-! DEFINITION. Tile registers and the accumulator store (R144 to R166): geometry, storage and tags, the moves between
vector and tile registers (R114), TLD, TST, TMUL, TSAVE and TRESTORE. -/

namespace Sys2Proof.Machine

/-! ### Geometry (R144, R145) -/

def geoRows (geo : Nat) : Nat := match geo with | 0 => 64 | 1 => 128 | _ => 32

/-- K extent of a geometry and format. -/
def geoK (geo fmt : Nat) : Nat :=
  let k := match codeBits fmt with | 16 => 32 | 4 => 128 | _ => 64
  if geo = 0 then 2 * k else k

/-- Bytes of an element row. -/
def rowBytes (geo fmt : Nat) : Nat := geoK geo fmt * codeBits fmt / 8

/-- Storage row and first byte of element row `i`. -/
def rowAt (geo i : Nat) : Nat × Nat := if geo = 1 then (i / 2, 64 * (i % 2)) else (i, 0)

/-- A tile holds this format. -/
def tileFmt (fmt : Nat) : Bool := fmt != 0 && decide (fmt < 14)

def Core.tileRow (k : Core) (t r : Nat) : Nat := (SMap.get 0 k.tiles (64 * t + r)).toNat
def Core.setTileRow (k : Core) (t r v : Nat) : Core := { k with tiles := SMap.put 0 k.tiles (64 * t + r) (BitVec.ofNat 1024 v) }
def Core.sideByte (k : Core) (t i : Nat) : Nat := (SMap.get 0 k.side (512 * t + i)).toNat
def Core.setSide (k : Core) (t i v : Nat) : Core := { k with side := SMap.put 0 k.side (512 * t + i) (BitVec.ofNat 8 v) }
def Core.tagOf (k : Core) (t : Nat) : Nat := (SMap.get 0x0B k.tag t).toNat
def Core.setTag (k : Core) (t v : Nat) : Core := { k with tag := SMap.put 0x0B k.tag t (BitVec.ofNat 8 v) }
def Core.accEl (k : Core) (a e : Nat) : Nat := (SMap.get 0 k.acc (4096 * a + e)).toNat
def Core.setAccEl (k : Core) (a e v : Nat) : Core := { k with acc := SMap.put 0 k.acc (4096 * a + e) (BitVec.ofNat 32 v) }

/-- The tag is partial. -/
def Core.tagPartial (k : Core) (t : Nat) : Bool := bits (k.tagOf t) 5 1 == 1

/-- A tag's word (R146). -/
def tagWord (geo fmt : Nat) (part : Bool) : Nat := geo * 64 + b2n part * 32 + fmt

/-- The packed bits of element (i, x) of a tile. -/
def Core.tileRaw (k : Core) (t geo fmt i x : Nat) : Nat :=
  let p := rowAt geo i
  bits (k.tileRow t p.1) (8 * p.2 + x * codeBits fmt) (codeBits fmt)

def Core.setTileRaw (k : Core) (t geo fmt i x v : Nat) : Core :=
  let p := rowAt geo i
  k.setTileRow t p.1 (setBits (k.tileRow t p.1) (8 * p.2 + x * codeBits fmt) (codeBits fmt) v)

/-- Scale byte of block `b` of element row `i`. -/
def sideIdx (geo fmt i b : Nat) : Nat := i * (geoK geo fmt / 32) + b

/-- The exact value of element (i, x) of a tile, its MX scale included. -/
def Core.tileVal (k : Core) (t geo fmt i x : Nat) : FV :=
  let v := elemVal fmt (k.tileRaw t geo fmt i x)
  if codeMx fmt then mxScale (k.sideByte t (sideIdx geo fmt i (x / 32))) v else v

/-- Storage and side-store bytes that a geometry and format leave unused become zero (R145). -/
def Core.clearUnused (k : Core) (t geo fmt : Nat) : Core :=
  let n := rowBytes geo fmt
  let used := fun (r : Nat) =>
    match geo with
    | 0 => 2 ^ (8 * n) - 1
    | 1 => (2 ^ (8 * n) - 1) * (1 + 2 ^ 512)
    | _ => if r < 32 then 2 ^ (8 * n) - 1 else 0
  let k1 := (List.range 64).foldl (fun (k : Core) r => k.setTileRow t r (k.tileRow t r &&& used r)) k
  let s := if codeMx fmt then geoRows geo * (geoK geo fmt / 32) else 0
  { k1 with side := SMap.dropRange k1.side (512 * t + s) (512 * t + 512) }

/-! ### Waits -/

/-- A MATX in the Thresher queue holds accumulator `a` (R148, R180). -/
def Core.matxHolds (k : Core) (a : Nat) : Bool :=
  k.mxq.any (fun x =>
    if x.s = 0 then bits k.accpin a 1 == 0 && !x.dropped
    else (List.range x.s).any (fun q => bits x.accmap (4 * q) 4 == a))

/-- A TMUL in the array is still to read tile `t`, or to finish with accumulator `a` (R159). -/
def Core.tileBusy (k : Core) (t : Nat) : Bool := k.tmuls.any (fun x => x.ta == t || x.tb == t)
def Core.accBusy (k : Core) (a : Nat) : Bool := k.tmuls.any (fun x => x.acc == a) || k.matxHolds a

/-! ### Moves between vector and tile registers (R114) -/

/-- Two storage rows from row `r` as a vector's lanes. -/
def Core.tileRows (k : Core) (t r : Nat) : Nat := k.tileRow t r + k.tileRow t (r + 1) * 2 ^ 1024

/-- Predicated merge of a new register value into an old one. -/
def Core.mergeP (k : Core) (f : VFields) (old new : Nat) : Nat :=
  let act := k.active f.pred
  ofLanes (fun i => if bits act i 1 = 1 then lane new i else if f.z = 1 then 0 else lane old i)

def execVtrd (c : Nat) (f : VFields) (s : State) : Ans :=
  let t := f.va.toNat % 8
  let r := bits f.aux.toNat 2 6
  onCoreOnly c 3 s (issue c 3 (vIlls { pred := true, z := true, vd := 31, va := 7, aux := 248 } f []) false false [] (fun m k =>
    if k.tagPartial t then .trap m 10 t 0
    else if k.vhazard (VForm.reads { z := true } f) then .stay m
    else .ok ((m.setCore c (k.setVp f (lane (k.tileRows t r)))).coreEv c 0x05 1)))

def execVtwr (c : Nat) (f : VFields) (s : State) : Ans :=
  let t := f.va.toNat % 8
  let r := bits f.aux.toNat 2 6
  onCoreOnly c 3 s (issue c 3 (vIlls { pred := true, z := true, vd := 31, va := 7, aux := 248 } f []) false false [] (fun m k =>
    if k.tileBusy t || k.vhazard [f.vd.toNat] then .stay m
    else
      let v := k.mergeP f (k.tileRows t r) (k.vr f.vd.toNat)
      .ok ((m.setCore c ((k.setTileRow t r v).setTileRow t (r + 1) (v / 2 ^ 1024))).coreEv c 0x05 1)))

/-- Row `r` of an accumulator as a vector's lanes. -/
def Core.accRow (k : Core) (a r : Nat) : Nat := ofLanes (fun i => k.accEl a (64 * r + i))

def Core.setAccRow (k : Core) (a r v : Nat) : Core :=
  (List.range 64).foldl (fun (k : Core) i => k.setAccEl a (64 * r + i) (lane v i)) k

def execVard (c : Nat) (f : VFields) (s : State) : Ans :=
  let a := f.va.toNat % 16
  let r := bits f.aux.toNat 2 6
  onCoreOnly c 3 s (issue c 3 (vIlls { pred := true, z := true, vd := 31, va := 15, aux := 252 } f []) false false [] (fun m k =>
    if k.accBusy a || k.vhazard (VForm.reads { z := true } f) then .stay m
    else .ok ((m.setCore c (k.setVp f (lane (k.accRow a r)))).coreEv c 0x05 1)))

def execVawr (c : Nat) (f : VFields) (s : State) : Ans :=
  let a := f.va.toNat % 16
  let r := bits f.aux.toNat 2 6
  onCoreOnly c 3 s (issue c 3 (vIlls { pred := true, z := true, vd := 31, va := 15, aux := 252 } f []) false false [] (fun m k =>
    if k.accBusy a || k.vhazard [f.vd.toNat] then .stay m
    else .ok ((m.setCore c (k.setAccRow a r (k.mergeP f (k.accRow a r) (k.vr f.vd.toNat)))).coreEv c 0x05 1)))

/-! ### Spans of memory -/

/-- What stops the read of a span. -/
inductive SpanStop where
  | wait
  | miss (ea : Nat)
  | fault (cause sub addr : Nat) (tf : Option Nat)
  | err
  | poison

/-- The pieces of a span of core addresses that lie in one 64-byte granule each: address, length, offset in the span. -/
def pieces (ea n : Nat) : List (Nat × Nat × Nat) :=
  let first := ea / 64
  ((List.range ((ea % 64 + n + 63) / 64)).map (fun i =>
    let lo := Nat.max ea ((first + i) * 64)
    let hi := Nat.min (ea + n) ((first + i) * 64 + 64)
    (lo % 2 ^ 64, hi - lo, lo - ea))).filter (fun p => p.2.1 != 0)

/-- What the read of a span gives: its bytes (those of bad Loft words zero), the keys of bad Loft words, or a stop. -/
structure SpanRead where
  data : Nat := 0
  bad : List Nat := []
  stop : Option SpanStop := none

/-- The far read that the instruction at issue has asked for at a core address. -/
def Core.pieceAt (k : Core) (ea n : Nat) : Option Piece := k.pieces.find? (fun p => p.own == 0 && p.ea == ea && p.len == n)

/-- Ask for the far pieces of a span that have not been asked for, in order, up to the first that has to wait or cannot be
translated (R155, R197, R205, R215, R226). -/
def wantPieces (c : Nat) : List (Nat × Nat × Nat) → Mod → Option SpanStop × Mod
  | [], m => (none, m)
  | (ea, n, _) :: t, m =>
    let k := m.core c
    if (k.pieceAt ea n).isSome then wantPieces c t m
    else match k.place ea false 3 with
      | .own _ => wantPieces c t m
      | .far mpa nc =>
        let regs := isRegSpace mpa && !k.pieces.any (fun p => p.own == 0 && isRegSpace p.mpa) && m.regOut c
        if k.rtBlocks c true mpa n false || m.lineBusy k c mpa n || regs then (some .wait, m)
        else wantPieces c t (m.setCore c { k.touch ea with pieces := k.pieces ++ [{ own := 0, mpa := mpa, len := n, crib := !(nc || !cribRange mpa), ea := ea }] })
      | .miss => (some (.miss ea), m)
      | .fault cause sub addr tf => (some (.fault cause sub addr tf), m)

/-- Collect the pieces of a span, in order: own Loft is read now, far pieces from their answers, up to the first that is missing or has
failed (R156, R160). -/
def readPieces (c : Nat) : List (Nat × Nat × Nat) → Mod → SpanRead → SpanRead × Mod
  | [], m, r => (r, m)
  | (ea, n, off) :: t, m, r =>
    let k := m.core c
    match k.pieceAt ea n with
    | some p =>
      (match p.ans with
        | some (.data v) => readPieces c t m { r with data := r.data + v % 2 ^ (8 * n) * 2 ^ (8 * off) }
        | some .poison => ({ r with stop := some .poison }, m)
        | some _ => ({ r with stop := some .err }, m)
        | none => ({ r with stop := some .wait }, m))
    | none =>
      match k.place ea false 3 with
      | .own o =>
        if k.rtBlocks c false o n false then ({ r with stop := some .wait }, m)
        else
          let key := loftKey c + o
          readPieces c t (m.scrub key n) { r with data := r.data + m.rdClean key n * 2 ^ (8 * off), bad := r.bad ++ m.badWords key n }
      | _ => ({ r with stop := some .wait }, m)

/-- Read `n` bytes at core address `ea`: its far pieces are asked for together and answered one by one (R213, R216). -/
def readSpan (c ea n : Nat) (m : Mod) : SpanRead × Mod :=
  let ps := pieces (ea % 2 ^ 64) n
  let x := wantPieces c ps m
  let m1 := if (x.2.core c).pieces.any (fun p => !p.begun) then x.2.pump c else x.2
  match x.1 with
  | some stop => ({ stop := some stop }, m1)
  | none => readPieces c ps m1 {}

/-! ### Fields of TLD and TST -/

/-- Bits of a memory element (R152). -/
def memBits (mf : Nat) : Nat := if mf = 0x10 then 8 else if mf = 0x11 then 16 else codeBits mf

def isVideo (mf : Nat) : Bool := mf == 0x10 || mf == 0x11

/-- What one TLD or TST covers: element rows and K positions of its shape, and how many of each are in range (R154). -/
structure Shape where
  rows : Nat
  cols : Nat
  r : Nat
  k : Nat
  deriving DecidableEq, Repr

/-- Extents from g[e] clamped to the shape; nothing is in range when either is 0. -/
def shapeOf (rows cols : Nat) (ext : Bool) (g : Nat) : Shape :=
  if !ext then ⟨rows, cols, rows, cols⟩
  else
    let r := Nat.min rows (bits g 0 16)
    let k := Nat.min cols (bits g 16 16)
    if r = 0 ∨ k = 0 then ⟨rows, cols, 0, 0⟩ else ⟨rows, cols, r, k⟩

/-- The addresses of one TLD or TST (R155): base, row stride, scale base, scale stride, memory format, transposed. -/
structure Layout where
  base : Nat
  stride : Nat
  sbase : Nat
  ss : Nat
  mf : Nat
  tr : Bool
  deriving DecidableEq, Repr

def layoutOf (k : Core) (f : TileF) : Layout :=
  { base := (k.gr f.a.toNat).toNat, stride := (k.gr f.b.toNat).toNat, sbase := (k.gr f.c.toNat).toNat, ss := f.sstride.toNat
    mf := f.mfmt.toNat, tr := f.tr == 1 }

/-- Core address of memory row `i`. -/
def Layout.row (l : Layout) (i : Nat) : Nat := (l.base + i * l.stride) % 2 ^ 64

/-- Bytes that `n` elements occupy. -/
def spanBytes (mf n : Nat) : Nat := (n * memBits mf + 7) / 8

/-- Spans of memory rows in range: address and bytes. -/
def Layout.rowSpans (l : Layout) (s : Shape) : List (Nat × Nat) :=
  if l.tr then (List.range s.k).map (fun i => (l.row i, spanBytes l.mf s.r))
  else (List.range s.r).map (fun i => (l.row i, spanBytes l.mf s.k))

/-- Spans of scales in range, one per element row, or one per K block when transposed. -/
def Layout.scaleSpans (l : Layout) (s : Shape) : List (Nat × Nat) :=
  if !codeMx l.mf then []
  else if l.tr then (List.range ((s.k + 31) / 32)).map (fun i => ((l.sbase + i * l.ss) % 2 ^ 64, s.r))
  else (List.range s.r).map (fun i => ((l.sbase + i * l.ss) % 2 ^ 64, (s.k + 31) / 32))

/-- PRIVILEGE SUB 1 of R156: the lowest kernel-only Loft address that an in-range span reaches. -/
def kernelSpans (k : Core) (l : List (Nat × Nat)) : Option Nat :=
  l.foldl (fun o p =>
    match o, (if p.2 = 0 then none else k.kernelOnly p.1 p.2) with
    | some x, some y => some (Nat.min x y)
    | none, y => y
    | x, none => x) none

/-- ALIGNMENT SUB 2 of R156: the first row address that is not a multiple of 4. -/
def Layout.misaligned (l : Layout) : Option Nat :=
  if l.base % 4 ≠ 0 then some l.base else if l.stride % 4 ≠ 0 then some (l.row 1) else none

/-- Registers that TLD and TST read. -/
def tileRegs (f : TileF) : List Nat :=
  [f.a.toNat, f.b.toNat] ++ (if codeMx f.mfmt.toNat then [f.c.toNat] else []) ++ (if f.ext = 1 then [f.e.toNat] else [])

/-- A TCONV set: SCALE, OFFSET, ALIGN, BITS (R153). -/
structure Tconv where
  scale : Nat
  offset : Nat
  align : Bool
  bits : Nat

def Mod.tconv (m : Mod) (c sel mf : Nat) : Tconv :=
  let d := c / 256
  let p := corePage c 1
  let b := m.fld d p (0x608 + sel * 0x10) 0 5
  { scale := m.fld d p (0x600 + sel * 0x10) 0 32, offset := m.fld d p (0x600 + sel * 0x10) 32 32
    align := mf == 0x11 && m.fld d p (0x608 + sel * 0x10) 8 1 == 1, bits := if mf = 0x10 then 8 else b }

/-- Where the sample lies in its container. -/
def Tconv.shift (v : Tconv) : Nat := if v.align then 16 - v.bits else 0

/-! ### TLD -/

def tldIlls (f : TileF) : List Nat :=
  let mf := f.mfmt.toNat
  (if f.geo = 3 then [0] else []) ++ (if tileFmt f.tfmt.toNat then [] else [0]) ++
    (if mf < 15 ∨ isVideo mf then [] else [0]) ++ (if 8 ≤ f.idx.toNat then [1] else []) ++
    marked [f.src.toNat, f.rm.toNat, f.low.toNat]

/-- The value of a memory element (R154). -/
def loadVal (tc : Tconv) (mf raw scale : Nat) : FV :=
  if isVideo mf then ofF32 (fmul (fsub (toF32 (ofIntFV (bits raw tc.shift tc.bits : Nat))) tc.offset) tc.scale)
  else if codeMx mf then mxScale scale (elemVal mf raw) else elemVal mf raw

/-- One row of a source: its packed bits, and the scale byte of an element, none where that scale is bad. -/
structure SrcRow where
  data : Nat
  dead : Bool
  scale : Nat → Option Nat

/-- Write one element of a tile from its source: a copy, or a conversion to a format without blocks. -/
def Core.putElem (k : Core) (f : TileF) (tc : Tconv) (t i x raw : Nat) (scale : Option Nat) (live : Bool) : Core :=
  let mf := f.mfmt.toNat
  let fmt := f.tfmt.toNat
  let v := if !live || scale.isNone then 0
    else if mf = fmt then raw else convTo fmt .rne (f.ns == 1) (loadVal tc mf raw (scale.getD 0))
  k.setTileRaw t f.geo.toNat fmt i x v

/-- Write one MX block (R119, R130) from the values of its 32 elements. -/
def Core.putBlock (k : Core) (t geo fmt i b : Nat) (vs : List FV) : Core :=
  let x := mxExp fmt vs
  let es := match x with | some e => vs.map (mxElem fmt .rne e) | none => vs.map (fun _ => 0)
  let k1 := ((List.range 32).zip es).foldl (fun (k : Core) p => k.setTileRaw t geo fmt i (32 * b + p.1) p.2) k
  k1.setSide t (sideIdx geo fmt i b) (match x with | some e => (e + 127).toNat | none => 255)

/-- Element row `i` of a tile from one source row that runs along K. -/
def Core.putRow (k : Core) (f : TileF) (tc : Tconv) (s : Shape) (t i : Nat) (r : SrcRow) : Core :=
  let mf := f.mfmt.toNat
  let fmt := f.tfmt.toNat
  let geo := f.geo.toNat
  let w := memBits mf
  let live := fun (x : Nat) => decide (i < s.r) && decide (x < s.k) && !r.dead
  if codeMx fmt && mf != fmt then
    (List.range (s.cols / 32)).foldl (fun (k : Core) b =>
      k.putBlock t geo fmt i b ((List.range 32).map (fun j =>
        let x := 32 * b + j
        match r.scale b with
        | some sc => if live x then loadVal tc mf (bits r.data (x * w) w) sc else .num false 0 0
        | none => .num false 0 0))) k
  else
    let k1 := (List.range s.cols).foldl (fun (k : Core) x =>
      k.putElem f tc t i x (bits r.data (x * w) w) (r.scale (x / 32)) (live x)) k
    if codeMx fmt then (List.range (s.cols / 32)).foldl (fun (k : Core) b =>
      k.setSide t (sideIdx geo fmt i b) (if decide (i < s.r) && decide (32 * b < s.k) then (r.scale b).getD 0 else 0)) k1
    else k1

/-- K position `x` of every element row, from one source row that runs along M or N; scales are by element row, and a position out of
range leaves those that its block has taken. -/
def Core.putCol (k : Core) (f : TileF) (tc : Tconv) (s : Shape) (t x : Nat) (r : SrcRow) : Core :=
  let mf := f.mfmt.toNat
  let fmt := f.tfmt.toNat
  let w := memBits mf
  let k1 := (List.range s.rows).foldl (fun (k : Core) i =>
    k.putElem f tc t i x (bits r.data (i * w) w) (r.scale i) (decide (i < s.r) && decide (x < s.k) && !r.dead)) k
  if codeMx fmt && (decide (x < s.k) || x % 32 == 0) then (List.range s.rows).foldl (fun (k : Core) i =>
    k.setSide t (sideIdx f.geo.toNat fmt i (x / 32)) (if decide (i < s.r) && decide (x < s.k) then (r.scale i).getD 0 else 0)) k1
  else k1

/-- A whole K block of a transposed TLD that forms MX blocks. -/
def Core.putCols (k : Core) (f : TileF) (tc : Tconv) (s : Shape) (t b : Nat) (rs : List SrcRow) : Core :=
  let mf := f.mfmt.toNat
  let w := memBits mf
  (List.range s.rows).foldl (fun (k : Core) i =>
    k.putBlock t f.geo.toNat f.tfmt.toNat i b (((List.range 32).zip rs).map (fun p =>
      let x := 32 * b + p.1
      match p.2.scale i with
      | some sc => if decide (i < s.r) && decide (x < s.k) && !p.2.dead then loadVal tc mf (bits p.2.data (i * w) w) sc
                   else .num false 0 0
      | none => .num false 0 0))) k

/-- A scale byte whose bank word is bad is absent. -/
def scaleOf (c base : Nat) (r : SpanRead) (i : Nat) : Option Nat :=
  if r.bad.any (fun b => decide ((loftKey c + base + i) / 8 = b / 8)) then none else some (bits r.data (8 * i) 8)

/-- Read source row `i`, and its scales: the row, the bad Loft words met, or a stop with the row's address. -/
def readRow (c : Nat) (l : Layout) (s : Shape) (i : Nat) (m : Mod) :
    (SrcRow × List Nat ⊕ (SpanStop × Nat)) × Mod :=
  let inR := if l.tr then decide (i < s.k) else decide (i < s.r)
  let n := if !inR then 0 else spanBytes l.mf (if l.tr then s.r else s.k)
  let x := readSpan c (l.row i) n m
  match x.1.stop with
  | some st => (.inr (st, l.row i), x.2)
  | none =>
    let sa := (l.sbase + (if l.tr then i / 32 else i) * l.ss) % 2 ^ 64
    let sn := if !inR || !codeMx l.mf then 0 else if l.tr then s.r else (s.k + 31) / 32
    let y := readSpan c sa sn x.2
    match y.1.stop with
    | some st => (.inr (st, sa), y.2)
    | none => (.inl (SrcRow.mk x.1.data (!x.1.bad.isEmpty) (scaleOf c sa y.1), x.1.bad ++ y.1.bad), y.2)

/-- Read `n` source rows from row `i`. -/
def readRows (c : Nat) (l : Layout) (s : Shape) : Nat → Nat → Mod → (List SrcRow × List Nat ⊕ (SpanStop × Nat)) × Mod
  | 0, _, m => (.inl ([], []), m)
  | n + 1, i, m =>
    match readRow c l s i m with
    | (.inr x, m1) => (.inr x, m1)
    | (.inl (r, b), m1) =>
      match readRows c l s n (i + 1) m1 with
      | (.inr x, m2) => (.inr x, m2)
      | (.inl (rs, bs), m2) => (.inl (r :: rs, b ++ bs), m2)

/-- LOFT_ECC with SUB 2 for the first bad word an instruction has met, once (R160). -/
def tileEcc (c : Nat) (bad : List Nat) (m : Mod) : Mod :=
  match bad with
  | [] => m
  | b :: _ => m.onCore c (fun k =>
      match k.hold with
      | some h => if h.obj = 1 then k else ({ k with hold := some { h with obj := 1 } } : Core).report 6 2 (b - loftKey c)
      | none => k.report 6 2 (b - loftKey c))

/-- Source rows that TLD takes at a time: one, or a K block where it must form MX blocks of transposed rows (R160). -/
def tldUnit (f : TileF) : Nat := if f.tr = 1 ∧ codeMx f.tfmt.toNat ∧ f.mfmt.toNat ≠ f.tfmt.toNat then 32 else 1

/-- Move up to `n` units of a TLD from row `i`: what stopped it, the next row, and the module. -/
def tldRows (c : Nat) (f : TileF) (tc : Tconv) (l : Layout) (s : Shape) (t : Nat) :
    Nat → Nat → Mod → Option (SpanStop × Nat) × Nat × Mod
  | 0, i, m => (none, i, m)
  | n + 1, i, m =>
    let u := tldUnit f
    let total := if l.tr then s.cols else s.rows
    if total ≤ i then (none, i, m)
    else match readRows c l s u i m with
      | (.inr x, m1) => (some x, i, m1)
      | (.inl (rs, bad), m1) =>
        let m2 := m1.onCore c (fun k =>
          if u = 32 then k.putCols f tc s t (i / 32) rs
          else match rs with
            | r :: _ => if l.tr then k.putCol f tc s t i r else k.putRow f tc s t i r
            | [] => k)
        tldRows c f tc l s t n (i + u) (tileEcc c bad (m2.onCore c (fun k => k.dropPieces 0)))

/-- The row a TLD begins at (R163). One that takes K blocks of `u` rows begins at the first row of the block that TLDPOS names: it forms a
block from all its rows (R160; DEDUCED, log entry 108). -/
def Core.tldStart (k : Core) (t geo fmt total u : Nat) : Nat :=
  if k.tagOf t = tagWord geo fmt true ∧ k.tldpos / 256 = t ∧ k.tldpos % 256 < total then k.tldpos % 256 / u * u else 0

/-- TLD moves up to `n` source rows (R155 to R163): it stays at issue while rows remain, and a translation fault, an access
error or poison on a row stops it with ECS.RS set and TLDPOS at that row (R101). While it is held, the hold keeps its tile and next row. -/
def tldBody (c : Nat) (f : TileF) (n : Nat) (m : Mod) (k : Core) : Res :=
  let t := f.idx.toNat
  let geo := f.geo.toNat
  let fmt := f.tfmt.toNat
  let l := layoutOf k f
  let s := shapeOf (geoRows geo) (geoK geo fmt) (f.ext == 1) (k.gr f.e.toNat).toNat
  let total := if l.tr then s.cols else s.rows
  match kernelSpans k (l.rowSpans s ++ l.scaleSpans s) with
  | some x => .trap m 3 1 x
  | none =>
    match l.misaligned with
    | some x => .trap m 4 2 x
    | none =>
      if k.tileBusy t then .stay m
      else
        let row := match k.hold with | some h => h.target % 256 | none => k.tldStart t geo fmt total (tldUnit f)
        let m0 := match k.hold with
          | some _ => m
          | none => (m.setCore c { (k.clearUnused t geo fmt).setTag t (tagWord geo fmt true) with
              hold := some (Hold.mk .tld (k.cs.ie && k.quietBoundary) 0 (t * 256 + row) 0 none [] 0) }).coreEv c 0x06 1
        let r := tldRows c f (m.tconv c f.csel.toNat l.mf) l s t (n / tldUnit f) row m0
        let m1 := r.2.2.onCore c (fun k => { k with hold := k.hold.map (fun (h : Hold) => { h with target := t * 256 + r.2.1 % 256 }) })
        let stop := fun (cause sub addr : Nat) => Res.stay (m1.onCore c (fun k => k.raise cause sub addr true))
        match r.1 with
        | none =>
          if total ≤ r.2.1 then
            .ok (m1.onCore c (fun k => { k.setTag t (tagWord geo fmt false) with tldpos := 0, hold := none }))
          else .stay m1
        | some (.wait, _) => .stay m1
        | some (.miss ea, _) => .stay (m1.startWalk c ea false 3)
        | some (.fault cause sub addr tf, _) =>
          stop cause sub addr |> (fun x => match x, tf with
            | .stay m, some w => .stay (m.onCore c (fun k => { k with tfinfo := w }))
            | x, _ => x)
        | some (.err, ea) => stop 7 3 ea
        | some (.poison, ea) => stop 8 3 ea

/-- Issue of a six-parcel instruction that may be held. -/
def issueSix (kind : HoldKind) (c : Nat) (ills rs : List Nat) (body : Mod → Core → Res) (m : Mod) : Mod :=
  issueIf (fun k => match k.hold with | none => true | some h => decide (h.kind = kind)) c 6 ills false false rs body m

def execTld (c : Nat) (f : TileF) (n : Nat) (s : State) : Ans :=
  onCoreOnly c 6 s (issueSix .tld c (tldIlls f) (tileRegs f) (tldBody c f n))

/-! ### TST -/

/-- The pairs of R152 for an accumulator source. -/
def accPair (tf mf : Nat) : Bool :=
  if tf = 0 then decide (mf ≤ 13) || isVideo mf else decide (11 ≤ mf) && decide (mf ≤ 14)

def tstIlls (f : TileF) : List Nat :=
  let mf := f.mfmt.toNat
  let tf := f.tfmt.toNat
  (if f.geo = 3 ∨ f.rm = 3 then [0] else []) ++
    (if f.src = 0 then
      (if tileFmt tf then [] else [0]) ++ (if mf < 15 ∨ isVideo mf then [] else [0]) ++ (if 8 ≤ f.idx.toNat then [1] else [])
     else if (tf = 0 ∨ tf = 14) ∧ accPair tf mf then [] else [0]) ++ marked [f.low.toNat]

/-- Rows and columns of a C tile shape (R147). -/
def shapeRows (sh : Nat) : Nat := match sh with | 0 => 64 | 1 => 32 | _ => 128
def shapeCols (sh : Nat) : Nat := match sh with | 0 => 64 | 1 => 128 | _ => 32

/-- The packed bits and the exact value of element (i, x) of a TST's source. -/
def Core.srcRaw (k : Core) (f : TileF) (i x : Nat) : Nat :=
  if f.src = 1 then k.accEl f.idx.toNat (i * shapeCols f.geo.toNat + x)
  else k.tileRaw f.idx.toNat f.geo.toNat f.tfmt.toNat i x

def Core.srcVal (k : Core) (f : TileF) (i x : Nat) : FV :=
  if f.src = 1 then elemVal f.tfmt.toNat (k.srcRaw f i x) else k.tileVal f.idx.toNat f.geo.toNat f.tfmt.toNat i x

/-- Convert a value to a video sample in its container (R154). -/
def videoOut (tc : Tconv) (mode : Rnd) (v : FV) : Nat :=
  let y := fadd (fmul (toF32 v) tc.scale) tc.offset
  (toIntSat mode 0 ((2 ^ tc.bits : Nat) - 1) (ofF32 y)).toNat * 2 ^ tc.shift

/-- Draws for a list of elements, in order. -/
def draws : Nat → Nat → List Nat × Nat
  | 0, g => ([], g)
  | n + 1, g =>
    let r := draws n (drawNext g)
    (drawNext g :: r.1, r.2)

def rndOf (rm r : Nat) : Rnd := if rm = 2 then .sto r else if rm = 1 then .rtz else .rne

/-- One element row toward memory: the element codes, and the scale codes of its blocks (R154, R119). -/
def tstRow (k : Core) (f : TileF) (tc : Tconv) (s : Shape) (i : Nat) (ds : List Nat) : List Nat × List Nat :=
  let mf := f.mfmt.toNat
  let copy := mf == f.tfmt.toNat
  let mode := fun (x : Nat) => rndOf f.rm.toNat (ds.getD x 0)
  if copy then ((List.range s.cols).map (k.srcRaw f i),
    if codeMx mf then (List.range (s.cols / 32)).map (fun b => k.sideByte f.idx.toNat (sideIdx f.geo.toNat mf i b)) else [])
  else if codeMx mf then
    let val := fun (x : Nat) => if i < s.r ∧ x < s.k then k.srcVal f i x else .num false 0 0
    let blocks := (List.range (s.cols / 32)).map (fun b => mxExp mf ((List.range 32).map (fun j => val (32 * b + j))))
    ((List.range s.cols).map (fun x => match (blocks.getD (x / 32) none) with
      | some e => mxElem mf (mode x) e (val x) | none => 0),
     blocks.map (fun e => match e with | some e => (e + 127).toNat | none => 255))
  else ((List.range s.cols).map (fun x =>
    if isVideo mf then videoOut tc (mode x) (k.srcVal f i x) else convTo mf (mode x) (f.ns == 1) (k.srcVal f i x)), [])

/-- Every element row toward memory, taking its draws in order (R134, R157); a copy converts nothing and takes none. -/
def tstRows (k : Core) (f : TileF) (tc : Tconv) (s : Shape) : Nat → Nat → Nat → List (List Nat × List Nat) × Nat
  | 0, _, g => ([], g)
  | n + 1, i, g =>
    let d := if f.rm = 2 ∧ f.mfmt.toNat ≠ f.tfmt.toNat then draws s.cols g else ([], g)
    let rest := tstRows k f tc s n (i + 1) d.2
    (tstRow k f tc s i d.1 :: rest.1, rest.2)

/-- One write of a TST: core address, bytes, data, and the bits of the last byte that stay (none where it is whole). -/
structure TstWrite where
  ea : Nat
  n : Nat
  data : Nat
  keep : Nat

/-- The writes of a TST in ascending memory rows, then its scales. -/
def tstWrites (f : TileF) (l : Layout) (s : Shape) (rows : List (List Nat × List Nat)) : List TstWrite :=
  let w := memBits l.mf
  let pack := fun (g : Nat → Nat) (n : Nat) => (List.range n).foldl (fun v j => v + g j % 2 ^ w * 2 ^ (w * j)) 0
  let el := fun (i x : Nat) => (rows.getD i ([], [])).1.getD x 0
  let sc := fun (i b : Nat) => (rows.getD i ([], [])).2.getD b 0
  let one := fun (i n : Nat) (g : Nat → Nat) => TstWrite.mk (l.row i) (spanBytes l.mf n) (pack g n) ((8 - n * w % 8) % 8)
  let nb := (s.k + 31) / 32
  let byt := fun (g : Nat → Nat) (n : Nat) => (List.range n).foldl (fun v j => v + g j % 256 * 256 ^ j) 0
  (if f.tr = 1 then (List.range s.k).map (fun x => one x s.r (fun i => el i x))
   else (List.range s.r).map (fun i => one i s.k (el i))) ++
  (if !codeMx l.mf then []
   else if f.tr = 1 then (List.range nb).map (fun b => TstWrite.mk ((l.sbase + b * l.ss) % 2 ^ 64) s.r (byt (fun i => sc i b) s.r) 0)
   else (List.range s.r).map (fun i => TstWrite.mk ((l.sbase + i * l.ss) % 2 ^ 64) nb (byt (sc i) nb) 0))

/-- The places of every piece of every write, with the core whose finished translations they have joined, or the first thing that stops the
TST before any effect (R156). A translation stays finished while the TST is at issue, and a hit renews its entry (R202). -/
def tstPlaces : List (Nat × Nat × Nat) → Core → Core × (List (Nat × Nat × Nat × Place) ⊕ SpanStop)
  | [], k => (k, .inl [])
  | (ea, n, off) :: t, k =>
    match k.xlat.find? (fun x => x.1 == ea) with
    | some x =>
      (match tstPlaces t k with
        | (k1, .inl l) => (k1, .inl ((ea, n, off, .far x.2.1 x.2.2) :: l))
        | y => y)
    | none =>
      match k.place ea true 3 with
      | .miss => (k, .inr (.miss ea))
      | .fault cause sub addr tf => (k, .inr (.fault cause sub addr tf))
      | .far mpa nc =>
        (match tstPlaces t { k.touch ea with xlat := k.xlat ++ [(ea, mpa, nc)] } with
          | (k1, .inl l) => (k1, .inl ((ea, n, off, .far mpa nc) :: l))
          | y => y)
      | p =>
        (match tstPlaces t k with
          | (k1, .inl l) => (k1, .inl ((ea, n, off, p) :: l))
          | y => y)

/-- A piece of a TST must wait: an earlier access in the range tracker, an earlier store that its core's buffer holds (R214), an earlier far
read of its granule that has not begun (R215), a register access. -/
def tstWaits (c : Nat) (m : Mod) (k : Core) (p : Nat × Nat × Nat × Place) : Bool :=
  match p.2.2.2 with
  | .own off => k.rtBlocks c false off p.2.1 true
  | .far mpa _ => k.rtBlocks c true mpa p.2.1 true || k.wcbLines mpa p.2.1 || k.pieceAhead mpa p.2.1 || (isRegSpace mpa && m.regOut c)
  | _ => false

/-- The far bytes that a TST reads before it writes: the last byte of a write that keeps some of its bits. -/
def tstReads (ws : List (TstWrite × List (Nat × Nat × Nat × Place))) : List (Nat × Nat) :=
  (ws.filter (fun w => w.1.keep != 0)).flatMap (fun w =>
    (w.2.filter (fun p => p.2.2.1 + p.2.1 == w.1.n)).filterMap (fun p =>
      match p.2.2.2 with | .far mpa _ => some (mpa + p.2.1 - 1, 1) | _ => none))

/-- The bytes of one piece with the kept bits of a shared last byte, read beforehand; none where that byte cannot be
read, with its response. -/
def tstByte (c : Nat) (p : Place) (n keep data : Nat) (m : Mod) : (Nat ⊕ Resp) × Mod :=
  if keep = 0 then (.inl data, m)
  else
    let mix := fun (old : Nat) => data % 2 ^ (8 * n - keep) + old % 256 / 2 ^ (8 - keep) * 2 ^ (8 * n - keep)
    match p with
    | .own off =>
      let key := loftKey c + off + n - 1
      if m.wordsOk key 1 then (.inl (mix (m.rd key 1)), m.scrub key 1) else (.inr .poison, m)
    | .far mpa _ => (match m.farAnswer c (mpa + n - 1) 1 with | .data v => (.inl (mix v), m) | x => (.inr x, m))
    | _ => (.inl data, m)

/-- A TST's write of `n` bytes at an MPA sets out: as a masked write of its granule, or in its turn where it is to register space. -/
def Mod.tstPost (m : Mod) (c tid ea mpa n data : Nat) : Mod :=
  if n = 0 then m
  else if isRegSpace mpa then
    m.onCore c (fun k => { k with regQ := k.regQ ++ [{ tst := some tid, mpa := mpa, len := n, data := data, mark := { sub := 3, ea := ea } }] })
  else m.post (.tst c tid ea) c (dieOf c) (mpa / 64 * 64) 64 (.write (byteMask n * 2 ^ (mpa % 64)) (data * 2 ^ (8 * (mpa % 64))))

/-- The next failure of a TST at the place that it has reached in its order. -/
def Mod.tstFail (m : Mod) (c tid cause sub addr : Nat) : Mod :=
  m.onCore c (fun k => k.noteFail tid m.nextId { cause := cause, sub := sub, addr := addr })

/-- Perform the pieces of one write (R157, R195). What fails is noted, and the first failure is reported when the TST ends. -/
def tstPieces (c tid : Nat) (w : TstWrite) : List (Nat × Nat × Nat × Place) → Mod → Mod
  | [], m => m
  | (ea, n, off, p) :: t, m =>
    let keep := if off + n = w.n then w.keep else 0
    let bytes := bits w.data (8 * off) (8 * n)
    match p with
    | .own o =>
      let x := tstByte c p n keep bytes m
      let len := match x.1 with | .inl _ => n | .inr _ => n - 1
      let data := match x.1 with | .inl d => d | .inr _ => bytes
      let y := x.2.loftWrite (loftKey c + o) len (byteMask len) data
      tstPieces c tid w t (match y.2, x.1 with
        | b :: _, _ => y.1.tstFail c tid 6 2 (b - loftKey c)
        | [], .inr _ => y.1.tstFail c tid 6 2 ((o + n - 1) / 8 * 8)
        | [], .inl _ => y.1)
    | .far mpa _ =>
      (match (tstByte c p n keep bytes m).1 with
        | .inl data => tstPieces c tid w t (m.tstPost c tid ea mpa n data)
        | .inr x => tstPieces c tid w t ((m.tstPost c tid ea mpa (n - 1) bytes).tstFail c tid (match x with | .poison => 8 | _ => 7) 3 (ea + n - 1)))
    | _ => tstPieces c tid w t m

/-- The range tracker entry of a TST (R196): the smallest interval that covers its destination rows. Rows in the core's own Loft beside rows
elsewhere count at their window's MPA, so that one range holds both. -/
def tstEntry (c tid : Nat) (ps : List (Nat × Nat × Nat × Place)) : RtEntry :=
  let rs := ps.filterMap (fun p => match p.2.2.2 with
    | .far mpa _ => some (rtRange c true mpa p.2.1)
    | .own off => some (rtRange c false off p.2.1)
    | _ => none)
  let far := rs.any (fun r => r.1)
  let at_ := fun (r : Bool × Nat × Nat) (g : Nat) => if far then rtGran c r.1 g else g
  match rs with
  | [] => { owner := .tst tid, far := false, lo := 0, hi := 0, write := true, empty := true }
  | r :: t => { owner := .tst tid, far := far, write := true
                lo := t.foldl (fun x y => Nat.min x (at_ y y.2.1)) (at_ r r.2.1)
                hi := t.foldl (fun x y => Nat.max x (at_ y y.2.2)) (at_ r r.2.2) }

/-- TST (R157): its source is read, converted and stored, and it holds a range tracker entry until its last write has been performed. -/
def tstBody (c : Nat) (f : TileF) (m : Mod) (k : Core) : Res :=
  let geo := f.geo.toNat
  let fmt := f.tfmt.toNat
  let l := layoutOf k f
  let rows := if f.src = 1 then shapeRows geo else geoRows geo
  let cols := if f.src = 1 then shapeCols geo else geoK geo fmt
  let s := shapeOf rows cols (f.ext == 1) (k.gr f.e.toNat).toNat
  match kernelSpans k (l.rowSpans s ++ l.scaleSpans s) with
  | some x => .trap m 3 1 x
  | none =>
    match l.misaligned with
    | some x => .trap m 4 2 x
    | none =>
      let t := f.idx.toNat
      if f.src = 0 ∧ (k.tagOf t / 64 ≠ geo ∨ k.tagOf t % 16 ≠ fmt) then .trap m 9 t 0
      else if f.src = 0 ∧ k.tagPartial t then .trap m 10 t 0
      else if f.src = 1 ∧ k.accBusy t then .stay m
      else
        let r := tstRows k f (m.tconv c f.csel.toNat l.mf) s rows 0 k.srng.toNat
        let ws := tstWrites f l s r.1
        match tstPlaces (ws.flatMap (fun w => pieces w.ea w.n)) k with
        | (k1, .inr (.miss ea)) => .stay ((m.setCore c k1).startWalk c ea true 3)
        | (_, .inr (.fault cause sub addr tf)) => trapPlace m c cause sub addr tf
        | (_, .inr _) => .stay m
        | (k1, .inl ps) =>
          let m := m.setCore c k1
          let each := ws.map (fun w => (w, (pieces w.ea w.n).filterMap (fun p => ps.find? (fun q => q.1 == p.1 && q.2.1 == p.2.1 && q.2.2.1 == p.2.2))))
          if ps.any (tstWaits c m k1) || decide (16 ≤ k1.rt.length) then .stay m
          else match m.awaitFar c c (dieOf c) (tstReads each) with
          | some m1 => .stay m1
          | none =>
            let m0 := ({ m with nextId := m.nextId + 1 } : Mod).setCore c
              { k1 with rt := k1.rt ++ [tstEntry c m.nextId ps], srng := BitVec.ofNat 32 r.2, xlat := [] }
            let m1 := ((each.foldl (fun (x : Mod) w => tstPieces c m.nextId w.1 w.2 x) m0).dropFetched c).regPump c
            .ok ((if m1.tstOut c m.nextId then m1 else m1.onCore c (fun k => (k.storeEnd m.nextId).rtRelease (.tst m.nextId))).coreEv c 0x06 1)

def execTst (c : Nat) (f : TileF) (s : State) : Ans :=
  onCoreOnly c 6 s (issue c 6 (tstIlls f) false false (tileRegs f) (tstBody c f))

/-! ### TMUL -/

/-- Class of a format in R136: 1 16-bit, 2 the 8-bit and MX formats that either operand may be with, 3 MXFP6 and MXFP4,
4 INT8 and UINT8, 5 INT4. -/
def pairClass (code : Nat) : Nat :=
  match code with
  | 1 => 1 | 2 => 1 | 3 => 2 | 4 => 2 | 5 => 2 | 6 => 2 | 10 => 2 | 7 => 3 | 8 => 3 | 9 => 3 | 11 => 4 | 12 => 4 | 13 => 5 | _ => 0

/-- The pairs of R136. -/
def pairOk (fa fb : Nat) : Bool :=
  match pairClass fa, pairClass fb with
  | 1, 1 => true | 2, 2 => true | 2, 3 => true | 3, 2 => true | 3, 3 => true | 4, 4 => true | 4, 5 => true | 5, 4 => true | 5, 5 => true
  | _, _ => false

/-- The accumulator is INT32. -/
def pairInt (fa : Nat) : Bool := decide (4 ≤ pairClass fa)

/-- Geometries that a shape gives A and B (R150, R176). -/
def geoA (sh : Nat) : Nat := match sh with | 0 => 0 | 1 => 2 | _ => 1
def geoB (sh : Nat) : Nat := match sh with | 0 => 0 | 1 => 1 | _ => 2

def tmulIlls (f : TmulF) : List Nat :=
  (if f.shape = 3 ∨ !pairOk f.fa.toNat f.fb.toNat then [0] else []) ++
    marked [if geoK (geoA f.shape.toNat) f.fa.toNat = geoK (geoB f.shape.toNat) f.fb.toNat then f.ksel.toNat else 0, f.low.toNat]

/-- The exact sum of the products of a K block (R138, R139): an exact zero is +0. -/
def blockSum (l : List (FV × FV)) : FV :=
  match l.foldl (fun (s : FV) (p : FV × FV) => s.add (p.1.mul p.2)) (FV.num false 0 0) with
  | .num _ 0 _ => .num false 0 0
  | x => x

/-- The integer of an element of an integer format. -/
def intVal (v : FV) : Int := match v with | .num s m e => if s then -((m * 2 ^ e.toNat : Nat) : Int) else ((m * 2 ^ e.toNat : Nat) : Int) | _ => 0

/-- Add one K block to an accumulator element (R138, R140). -/
def addBlock (int : Bool) (acc : Nat) (l : List (FV × FV)) : Nat :=
  if int then ofInt 32 ((acc : Int) + l.foldl (fun s p => s + intVal p.1 * intVal p.2) 0)
  else toF32 ((ofF32 acc).add (blockSum l))

/-- One element of a TMUL: its K blocks in ascending order. -/
def tmulElem (k : Core) (x : Tmul) (i j : Nat) : Nat :=
  let ga := geoA x.shape
  let gb := geoB x.shape
  let ka := geoK ga x.fa
  let kb := geoK gb x.fb
  let kt := Nat.min ka kb
  let oa := if kb < ka ∧ x.ksel then kt else 0
  let ob := if ka < kb ∧ x.ksel then kt else 0
  let e := i * shapeCols x.shape + j
  (List.range (kt / 32)).foldl (fun acc b =>
    addBlock (pairInt x.fa) acc ((List.range 32).map (fun y =>
      (k.tileVal x.ta ga x.fa i (oa + 32 * b + y), k.tileVal x.tb gb x.fb j (ob + 32 * b + y)))))
    (if x.zero then 0 else k.accEl x.acc e)

/-- The whole product of a TMUL (R159). -/
def Core.runTmul (k : Core) (x : Tmul) : Core :=
  (List.range 4096).foldl (fun (k1 : Core) e => k1.setAccEl x.acc e (tmulElem k x (e / shapeCols x.shape) (e % shapeCols x.shape))) k

def execTmul (c : Nat) (f : TmulF) (s : State) : Ans :=
  onCoreOnly c 6 s (issue c 6 (tmulIlls f) false false [] (fun m k =>
    let sh := f.shape.toNat
    let a := f.ta.toNat
    let b := f.tb.toNat
    if k.tagOf a / 64 ≠ geoA sh ∨ k.tagOf a % 16 ≠ f.fa.toNat then .trap m 9 a 0
    else if k.tagOf b / 64 ≠ geoB sh ∨ k.tagOf b % 16 ≠ f.fb.toNat then .trap m 9 b 0
    else if k.tagPartial a then .trap m 10 a 0
    else if k.tagPartial b then .trap m 10 b 0
    else if k.accBusy f.acc.toNat then .stay m
    else .ok ((m.setCore c { k with tmuls := k.tmuls ++
      [Tmul.mk f.acc.toNat a b sh f.fa.toNat f.fb.toNat (f.zero == 1) (f.ksel == 1)] }).coreEv c 0x06 1)))

/-- TMUL_COMPLETE: the oldest TMUL in the array finishes and its accumulator becomes available. -/
def execTmulComplete (c : Nat) (s : State) : Ans :=
  onCpu c s (fun m => m.onCore c (fun k =>
    match k.tmuls with
    | x :: t => { k.runTmul x with tmuls := t }
    | [] => k))

/-! ### TSAVE and TRESTORE -/

/-- Spans of the save area that the masks select (R164): offset and bytes. -/
def saveSpans (f : SaveF) : List (Nat × Nat) :=
  ((List.range 16).filter (fun k => bits f.amask.toNat k 1 == 1)).map (fun k => (k * 0x4000, 0x4000)) ++
  ((List.range 8).filter (fun t => bits f.tmask.toNat t 1 == 1)).map (fun t => (0x40000 + t * 0x2200, 0x2200)) ++
  (if f.prog = 1 then [(0x51000, 0x80), (0x51088, 0x78)] else []) ++
  ((List.range 8).filter (fun t => bits f.tmask.toNat t 1 == 1)).map (fun t => (0x51080 + t, 1))

/-- The checks and waits of R165, then `body` with the area's Loft address. -/
def saveBody (c : Nat) (f : SaveF) (write : Bool) (body : Nat → Mod → Core → Mod) (m : Mod) (k : Core) : Res :=
  let a := (k.gr f.a.toNat).toNat
  match k.kernelOnly a 0x51100 with
  | some x => .trap m 3 1 x
  | none =>
    if a % 256 ≠ 0 ∨ 0x400000 < a + 0x51100 then .trap m 4 2 a
    else if !k.mxq.isEmpty || !k.tmuls.isEmpty || (saveSpans f).any (fun p => k.rtBlocks c false (a + p.1) p.2 write) then .stay m
    else .ok ((body a m k).coreEv c 0x06 1)

/-- A number from `n` parts of `w` bits each. -/
def packList (w n : Nat) (g : Nat → Nat) : Nat := (List.range n).foldl (fun v i => v + g i % 2 ^ w * 2 ^ (w * i)) 0

/-- The bytes of the 120-byte part of the progress block after the tags. -/
def progTail (k : Core) : Nat := k.tldpos + k.accpin * 2 ^ 64

/-- The registers TPROG_0 to TPROG_3 in order (R187). -/
def tprogWord (m : Mod) (c i : Nat) : Nat := m.reg (c / 256) (corePage c 1) (0x180 + 8 * i)

def tsave (c : Nat) (f : SaveF) (a : Nat) (m : Mod) (k : Core) : Mod :=
  let at_ := loftKey c + a
  let m1 := ((List.range 16).filter (fun x => bits f.amask.toNat x 1 == 1)).foldl (fun (m : Mod) x =>
    m.wr (at_ + x * 0x4000) 0x4000 (packList 32 4096 (k.accEl x))) m
  let m2 := ((List.range 8).filter (fun t => bits f.tmask.toNat t 1 == 1)).foldl (fun (m : Mod) t =>
    (m.wr (at_ + 0x40000 + t * 0x2200) 0x2000 (packList 1024 64 (k.tileRow t))).wr (at_ + 0x42000 + t * 0x2200) 0x200
      (packList 8 512 (k.sideByte t))) m1
  let m3 := if f.prog = 1 then
    (m2.wr (at_ + 0x51000) 0x80 (packList 64 16 (tprogWord m c))).wr (at_ + 0x51088) 0x78 (progTail k) else m2
  let tags := (m3.loftWrite (at_ + 0x51080) 8 f.tmask.toNat (packList 8 8 k.tagOf))
  tileEcc c tags.2 tags.1

def trestore (c : Nat) (f : SaveF) (a : Nat) (m : Mod) (k : Core) : Mod :=
  let at_ := loftKey c + a
  let k1 := ((List.range 16).filter (fun x => bits f.amask.toNat x 1 == 1)).foldl (fun (k : Core) x =>
    let v := m.rdClean (at_ + x * 0x4000) 0x4000
    (List.range 4096).foldl (fun (k : Core) e => k.setAccEl x e (bits v (32 * e) 32)) k) k
  let k2 := ((List.range 8).filter (fun t => bits f.tmask.toNat t 1 == 1)).foldl (fun (k : Core) t =>
    let v := m.rdClean (at_ + 0x40000 + t * 0x2200) 0x2000
    let w := m.rdClean (at_ + 0x42000 + t * 0x2200) 0x200
    let kr := (List.range 64).foldl (fun (k : Core) r => k.setTileRow t r (bits v (1024 * r) 1024)) k
    let ks := (List.range 512).foldl (fun (k : Core) i => k.setSide t i (bits w (8 * i) 8)) kr
    ks.setTag t (m.rdClean (at_ + 0x51080 + t) 1 &&& 0xEF)) k1
  let p := m.rdClean (at_ + 0x51000) 0x100
  let k3 := if f.prog = 1 then { k2 with tldpos := bits p 0x440 11, accpin := bits p 0x480 16 } else k2
  let m1 := m.setCore c k3
  let m2 := if f.prog = 1 then (List.range 16).foldl (fun (m : Mod) i =>
    m.commonWrite c (c / 256) (corePage c 1) (0x180 + 8 * i) (2 ^ 64 - 1) (bits p (64 * i) 64)) m1 else m1
  tileEcc c ((saveSpans f).flatMap (fun s => m.badWords (at_ + s.1) s.2)) ((saveSpans f).foldl (fun (x : Mod) s => x.scrub (at_ + s.1) s.2) m2)

def execTsave (c : Nat) (f : SaveF) (s : State) : Ans :=
  onCoreOnly c 6 s (issue c 6 (marked [f.low.toNat]) false false [f.a.toNat] (saveBody c f true (tsave c f)))

def execTrestore (c : Nat) (f : SaveF) (s : State) : Ans :=
  onCoreOnly c 6 s (issue c 6 (marked [f.low.toNat]) false false [f.a.toNat] (saveBody c f false (trestore c f)))

end Sys2Proof.Machine
end

