-- ==== Sys2Proof/Machine/Thresher.lean ====
section
/-! DEFINITION. The Thresher (R167 to R190): MATX and its checks, the walk, its steps and write-outs with the epilogue
(R117 to R119), completion, TYIELD and TYIELD.R. -/

namespace Sys2Proof.Machine

/-! ### The word and its descriptors -/

/-- The 84-bit word of a MATX (R167). -/
def matxWord (f : MatxF) : Nat :=
  0x3B * 2 ^ 78 + f.shape.toNat * 2 ^ 76 + f.fa.toNat * 2 ^ 72 + f.fb.toNat * 2 ^ 68 + f.fc.toNat * 2 ^ 64 + f.order.toNat * 2 ^ 62 +
    f.acc.toNat * 2 ^ 61 + f.ta.toNat * 2 ^ 60 + f.tb.toNat * 2 ^ 59 + f.epi.toNat * 2 ^ 58 + f.mda.toNat * 2 ^ 54 +
    f.mdb.toNat * 2 ^ 50 + f.mdc.toNat * 2 ^ 46 + f.episel.toNat * 2 ^ 42 + f.m.toNat * 2 ^ 28 + f.n.toNat * 2 ^ 14 + f.k.toNat

/-- An operand or result as its descriptor and the word describe it (R169 to R171). `kmaj` tells that memory rows run
along K, for A and B. -/
structure Mat where
  base : Nat
  stride : Nat
  tiles : Bool
  sbase : Nat
  ss : Nat
  pbase : Nat
  fmt : Nat
  geo : Nat
  kmaj : Bool
  deriving DecidableEq, Repr

/-- Everything a walk reads from its MATX. -/
structure Prod where
  shape : Nat
  order : Nat
  acc : Bool
  epi : Bool
  m : Nat
  n : Nat
  k : Nat
  a : Mat
  b : Mat
  c : Mat
  ctrl : Nat
  scale : Nat
  bias : Nat
  clamp : Nat

/-- Four registers of a descriptor as a matrix. -/
def matOf (d : List Nat) (o fmt geo : Nat) (kmaj : Bool) : Mat :=
  let r := fun (i : Nat) => d.getD (o + i) 0
  { base := bits (r 0) 0 22, stride := bits (r 1) 0 22, tiles := bits (r 1) 32 2 == 1, sbase := bits (r 2) 0 22, ss := bits (r 2) 32 22
    pbase := bits (r 3) 0 22, fmt := fmt, geo := geo, kmaj := kmaj }

def Matx.prod (x : Matx) : Prod :=
  let w := fun (lo n : Nat) => bits x.word lo n
  { shape := w 76 2, order := w 62 2, acc := w 61 1 == 1, epi := w 58 1 == 1, m := w 28 14, n := w 14 14, k := w 0 14
    a := matOf x.desc 0 (w 72 4) (geoA (w 76 2)) (w 60 1 == 0)
    b := matOf x.desc 4 (w 68 4) (geoB (w 76 2)) (w 59 1 == 1)
    c := matOf x.desc 8 (w 64 4) 0 false
    ctrl := x.epi.getD 0 0, scale := x.epi.getD 1 0, bias := x.epi.getD 2 0, clamp := x.epi.getD 3 0 }

/-- A MATX that captures the descriptors its word names (R169) and its epilogue descriptor. -/
def Mod.capture (m : Mod) (c word done : Nat) (level : Bool) : Matx :=
  let d := c / 256
  let p := corePage c 1
  let md := fun (lo : Nat) => (List.range 4).map (fun i => m.reg d p (0x200 + bits word lo 4 * 0x20 + 8 * i))
  { id := m.nextId, word := word, desc := md 54 ++ md 50 ++ md 46
    epi := if bits word 58 1 = 1 then (List.range 4).map (fun i => m.reg d p (0x400 + bits word 42 4 * 0x20 + 8 * i)) else []
    done := done, level := level }

/-! ### Sizes -/

def Prod.tr (p : Prod) : Nat := shapeRows p.shape
def Prod.tc (p : Prod) : Nat := shapeCols p.shape
def Prod.mt (p : Prod) : Nat := (p.m + p.tr - 1) / p.tr
def Prod.nt (p : Prod) : Nat := (p.n + p.tc - 1) / p.tc
def Prod.tilesN (p : Prod) : Nat := p.mt * p.nt
def Prod.nkb (p : Prod) : Nat := (p.k + 31) / 32
def Prod.int (p : Prod) : Bool := pairInt p.a.fmt
def Prod.empty (p : Prod) : Bool := p.m == 0 || p.n == 0

/-- L(n) of R170. -/
def rowLen (fmt n : Nat) : Nat := (n * codeBits fmt + 7) / 8

/-- Images along K of an operand in TILES layout (R171). -/
def Mat.parts (x : Mat) (k : Nat) : Nat := (k + geoK x.geo x.fmt - 1) / geoK x.geo x.fmt

/-! ### Spans (R173): first byte and last byte -/

/-- The span of `r` rows of `l` bytes. -/
def rowsSpan (base stride r l : Nat) : List (Nat × Nat) := if r = 0 ∨ l = 0 then [] else [(base, base + (r - 1) * stride + l - 1)]

/-- Spans of an operand with `mn` rows or columns and inner dimension `k`. -/
def Mat.spans (x : Mat) (mn k : Nat) : List (Nat × Nat) :=
  if k = 0 then []
  else
    let nb := (k + 31) / 32
    let mx := codeMx x.fmt
    if x.tiles then
      let n := (mn + geoRows x.geo - 1) / geoRows x.geo * x.parts k
      rowsSpan x.base x.stride n 8192 ++ (if mx then rowsSpan x.sbase 512 n 512 else [])
    else if x.kmaj then rowsSpan x.base x.stride mn (rowLen x.fmt k) ++ (if mx then rowsSpan x.sbase x.ss mn nb else [])
    else rowsSpan x.base x.stride k (rowLen x.fmt mn) ++ (if mx then rowsSpan x.sbase x.ss nb mn else [])

/-- The epilogue is to read its scale vector; its bias vector. -/
def Prod.vecScale (p : Prod) : Bool := p.epi && bits p.ctrl 0 2 == 3
def Prod.vecBias (p : Prod) : Bool := p.epi && bits p.ctrl 2 1 == 1
def Prod.vbase (p : Prod) : Nat := bits p.scale 32 22
def Prod.bbase (p : Prod) : Nat := bits p.bias 0 22

def Prod.spansA (p : Prod) : List (Nat × Nat) := p.a.spans p.m p.k
def Prod.spansB (p : Prod) : List (Nat × Nat) := p.b.spans p.n p.k
def Prod.spansE (p : Prod) : List (Nat × Nat) :=
  (if p.vecScale then rowsSpan p.vbase 4 p.n 4 else []) ++ (if p.vecBias then rowsSpan p.bbase 4 p.n 4 else [])

/-- The written spans: C, its scales, the partial buffer. -/
def Prod.spansC (p : Prod) : List (Nat × Nat) :=
  rowsSpan p.c.base p.c.stride p.m (rowLen p.c.fmt p.n) ++
    (if codeMx p.c.fmt then rowsSpan p.c.sbase p.c.ss p.m ((p.n + 31) / 32) else []) ++
    (if p.order = 3 then rowsSpan p.c.pbase 0x4000 p.tilesN 0x4000 else [])

/-! ### Checks at issue (R173) -/

/-- C may hold this format (R137). -/
def cFmtOk (int epi : Bool) (fc : Nat) : Bool := if int && !epi then decide (11 ≤ fc) && decide (fc ≤ 14) else decide (fc ≤ 10)

/-- The ILLEGAL check of a MATX word. -/
def matxIllegal (w : Nat) : Bool :=
  bits w 78 6 != 0x3B || bits w 76 2 == 3 || !pairOk (bits w 72 4) (bits w 68 4) ||
    !cFmtOk (pairInt (bits w 72 4)) (bits w 58 1 == 1) (bits w 64 4)

/-- The smaller of two optional numbers. -/
def minOpt (a b : Option Nat) : Option Nat :=
  match a, b with
  | some x, some y => some (Nat.min x y)
  | none, y => y
  | x, none => x

/-- Lowest byte where a written span, the `i`-th of `ws`, meets another span of the MATX. -/
def overlapLow (ws others : List (Nat × Nat)) : Option Nat :=
  let hit := fun (x y : Nat × Nat) => if x.1 ≤ y.2 ∧ y.1 ≤ x.2 then some (Nat.max x.1 y.1) else none
  let rec go : List (Nat × Nat) → Option Nat
    | [] => none
    | w :: t => minOpt ((others ++ t).foldl (fun o s => minOpt o (hit w s)) none) (go t)
  go ws

/-- The checks of R173 after ILLEGAL: cause, SUB, ADDR. -/
def matxCheck (k : Core) (x : Matx) (skipAcc : Bool) : Option (Nat × Nat × Nat) :=
  let p := x.prod
  let all := if p.empty then [] else p.spansA ++ p.spansB ++ p.spansE ++ p.spansC
  let priv := if x.level then none else all.foldl (fun o s => if k.kloft ≤ s.2 ∧ Nat.max s.1 k.kloft < 0x400000 then minOpt o (some (Nat.max s.1 k.kloft)) else o) none
  let out := (all.find? (fun s => decide (0x400000 ≤ s.2))).map (fun s => s.1)
  let tile := fun (y : Mat) => p.k != 0 && y.tiles && decide (y.stride < 8192)
  let stride :=
    if p.empty then none
    else if p.c.stride < rowLen p.c.fmt p.n ∨ (codeMx p.c.fmt ∧ p.c.ss < (p.n + 31) / 32) then some p.c.base
    else if tile p.a then some p.a.base else if tile p.b then some p.b.base else none
  let meet := if p.empty then none else overlapLow p.spansC (p.spansA ++ p.spansB ++ p.spansE)
  match priv, out, stride, meet with
  | some a, _, _, _ => some (3, 1, a)
  | _, some a, _, _ => some (4, 2, a)
  | _, _, some a, _ => some (4, 2, a)
  | _, _, _, some a => some (4, 2, a)
  | _, _, _, _ => if !skipAcc && k.accpin == 0xFFFF then some (11, 0, 0) else none

/-! ### Issue -/

/-- One entry of the range tracker over a group of spans (R174). -/
def coverEntry (id : Nat) (write : Bool) (l : List (Nat × Nat)) : RtEntry :=
  match l with
  | [] => { owner := .matx id, far := false, lo := 0, hi := 0, write := write, empty := true }
  | s :: t => { owner := .matx id, far := false, write := write
                lo := t.foldl (fun x y => Nat.min x y.1) s.1 / 64, hi := t.foldl (fun x y => Nat.max x y.2) s.2 / 64 }

/-- The three entries of a MATX; one with no span holds its place and no range (R174). -/
def Matx.entries (x : Matx) : List RtEntry :=
  let p := x.prod
  let on := fun (l : List (Nat × Nat)) => if p.empty then [] else l
  [coverEntry x.id false (on p.spansA), coverEntry x.id false (on (p.spansB ++ p.spansE)), coverEntry x.id true (on p.spansC)]

/-- The queue and the range tracker have room (R174). -/
def Core.matxRoom (k : Core) : Bool := decide (k.mxq.length < 4) && decide (k.rt.length + 3 ≤ 16)

/-- Put a MATX into the queue; QSTAT.STOPPED clears (R190). -/
def Mod.enqueue (m : Mod) (c : Nat) (x : Matx) : Mod :=
  (({ m with nextId := m.nextId + 1 } : Mod).onCore c (fun k =>
    { k with mxq := k.mxq ++ [{ x with id := m.nextId }], rt := k.rt ++ ({ x with id := m.nextId } : Matx).entries })).setFld
      (c / 256) (corePage c 1) 0x100 4 1 0

def execMatx (c : Nat) (f : MatxF) (s : State) : Ans :=
  onCoreOnly c 6 s (issue c 6 (if matxIllegal (matxWord f) then [0] else []) false false [] (fun m k =>
    let x := m.capture c (matxWord f) k.mxdone k.cs.level
    match matxCheck k x false with
    | some (cause, sub, addr) => .trap m cause sub addr
    | none => if k.matxRoom && m.enabled (c / 256) (corePage c 1) then .ok ((m.enqueue c x).coreEv c 0x07 1) else .stay m))

/-! ### Positions of a walk -/

/-- Tile `t` of the walk of orders 0 to 2 (R178). -/
def Matx.tileAt (x : Matx) (t : Nat) : Nat × Nat :=
  let p := x.prod
  match p.order with
  | 0 =>
    let bands := (List.range ((p.mt + x.br - 1) / x.br)).flatMap (fun bi =>
      (List.range ((p.nt + x.bc - 1) / x.bc)).map (fun bj => (bi * x.br, bj * x.bc)))
    let rec find : List (Nat × Nat) → Nat → Nat × Nat
      | [], _ => (0, 0)
      | (bi, bj) :: r, t =>
        let h := Nat.min x.br (p.mt - bi)
        let w := Nat.min x.bc (p.nt - bj)
        if t < h * w then (bi + t / w, bj + t % w) else find r (t - h * w)
    find bands t
  | 2 => (t % p.mt, t / p.mt)
  | _ => (t / p.nt, t % p.nt)

/-- Steps before tile-panel `q` of order 3: panels of eight K blocks, each over every tile (R179). -/
def Prod.panelLen (p : Prod) (kp : Nat) : Nat := Nat.min 8 (p.nkb - 8 * kp)

/-- Panel, tile and K block that `step` steps reach in order 3. -/
def Prod.panelAt (p : Prod) (step : Nat) : Nat × Nat × Nat :=
  let kp := step / (8 * p.tilesN)
  let r := step - 8 * p.tilesN * kp
  let l := p.panelLen kp
  if l = 0 then (kp, p.tilesN, 0) else (kp, r / l, 8 * kp + r % l)

/-- Number of panels: one where K is 0. -/
def Prod.panels (p : Prod) : Nat := if p.nkb = 0 then 1 else (p.nkb + 7) / 8

/-- Total steps. -/
def Prod.steps (p : Prod) : Nat := p.tilesN * p.nkb

/-- The walk has completed its last step (R174): an empty or a discarded MATX has none. -/
def Matx.lastStep (x : Matx) : Bool :=
  let p := x.prod
  p.empty || x.dropped || (x.walk && (if p.order = 3 then x.step == p.steps && (x.phase == 2 || x.wtile == p.tilesN)
    else x.step == p.steps))

/-- Every tile is written: the MATX may complete. -/
def Matx.allOut (x : Matx) : Bool :=
  let p := x.prod
  p.empty || x.dropped || (x.walk && x.wtile == p.tilesN)

/-! ### Walk begin -/

/-- Slots and block for `f` unpinned accumulators (R180). -/
def slotsFor (order f : Nat) : Nat × Nat × Nat :=
  let b := if f = 16 then (4, 4) else if 8 ≤ f then (2, 4) else if 4 ≤ f then (2, 2) else if 2 ≤ f then (1, 2) else (1, 1)
  if order = 3 then (1, 0, 0) else if order = 0 then (b.1 * b.2, b.1, b.2) else (b.1 * b.2, 0, 0)

/-- Ranges of a core's tracker overlap. -/
def RtEntry.meets (c : Nat) (a b : RtEntry) : Bool :=
  !a.empty && !b.empty && decide (rtGran c a.far a.lo ≤ rtGran c b.far b.hi) && decide (rtGran c b.far b.lo ≤ rtGran c a.far a.hi)

/-- They overlap and one of them is written. -/
def RtEntry.conflicts (c : Nat) (a b : RtEntry) : Bool := (a.write || b.write) && a.meets c b

/-- MATX `x` may begin: those before it have completed their last step, earlier Wain and TST entries that overlap it are
released, and earlier MATX whose C entry overlaps it have completed (R174). -/
def Core.mayBegin (k : Core) (c : Nat) (before : List Matx) (x : Matx) : Bool :=
  before.all Matx.lastStep &&
    (k.rt.takeWhile (fun e => e.owner != .matx x.id)).all (fun e =>
      match e.owner with
      | .matx _ => x.entries.all (fun y => !(e.write && e.meets c y))
      | _ => x.entries.all (fun y => !(e.conflicts c y)))

/-- The entries before the first that has not begun, and that entry. -/
def splitBegin : List Matx → List Matx → Option (List Matx × Matx × List Matx)
  | _, [] => none
  | a, x :: t => if x.walk || x.prod.empty then splitBegin (a ++ [x]) t else some (a, x, t)

/-- MATX_WALK_BEGIN (R174, R180): slots are sized from ACCPIN; a resumed MATX keeps its own (R189). -/
def execMatxWalkBegin (c : Nat) (s : State) : Ans :=
  onCpu c s (fun m =>
    let k := m.core c
    match splitBegin [] k.mxq with
    | none => m
    | some (a, x, t) =>
      if !k.mayBegin c a x then m
      else
        let p := x.prod
        let free := (List.range 16).filter (fun i => bits k.accpin i 1 == 0)
        let put := fun (m : Mod) (y : Matx) => m.setCore c { k with mxq := a ++ [y] ++ t }
        if x.s ≠ 0 then put m { x with walk := true }
        else if free.isEmpty then
          (put m { x with walk := true, dropped := true }).err (c / 256) (corePage c 1) 8 c
            (m.reg (c / 256) (corePage c 1) 0x150 % 2 ^ 32) 0
        else
          let z := slotsFor p.order free.length
          let m1 := if p.order ≠ 3 ∧ free.length < 16 then m.addReg (c / 256) (corePage c 1) 0x158 1 else m
          put m1 { x with walk := true, s := z.1, br := z.2.1, bc := z.2.2
                          accmap := packList 4 z.1 (fun q => free.getD q 0) })

/-! ### Operand reads -/

/-- Byte span of `w` bits at a bit position. -/
def bitSpan (pos w : Nat) : Nat × Nat := (pos / 8, (pos % 8 + w + 7) / 8)

/-- Read `w` bits at a bit position of Loft, bytes of bad words as zero. -/
def Mod.loftBits (m : Mod) (c pos w : Nat) : Nat :=
  let s := bitSpan pos w
  bits (m.rdClean (loftKey c + s.1) s.2) (pos % 8) w

/-- Bit position of element (row `g` of M or N, K position `kp`) of an operand (R170, R171). -/
def Mat.pos (x : Mat) (k g kp : Nat) : Nat :=
  let w := codeBits x.fmt
  if x.tiles then
    let kt := geoK x.geo x.fmt
    let r := rowAt x.geo (g % geoRows x.geo)
    (x.base + (g / geoRows x.geo * x.parts k + kp / kt) * x.stride + r.1 * 128 + r.2) * 8 + kp % kt * w
  else if x.kmaj then (x.base + g * x.stride) * 8 + kp * w
  else (x.base + kp * x.stride) * 8 + g * w

/-- Loft address of the scale of that element's block. -/
def Mat.scalePos (x : Mat) (k g kp : Nat) : Nat :=
  if x.tiles then
    let kt := geoK x.geo x.fmt
    x.sbase + (g / geoRows x.geo * x.parts k + kp / kt) * 512 + g % geoRows x.geo * (kt / 32) + kp % kt / 32
  else if x.kmaj then x.sbase + g * x.ss + kp / 32 else x.sbase + kp / 32 * x.ss + g

/-- The value of an element, zero outside the matrix (R181, R182). -/
def Mod.operand (m : Mod) (c : Nat) (x : Mat) (mn k g kp : Nat) : FV :=
  if g < mn ∧ kp < k then
    let v := elemVal x.fmt (m.loftBits c (x.pos k g kp) (codeBits x.fmt))
    if codeMx x.fmt then mxScale (m.loftBits c (8 * x.scalePos k g kp) 8) v else v
  else .num false 0 0

/-- Byte spans that one K block of one tile of an operand reads: Loft address and bytes. In TILES layout the 128-byte storage
rows that hold an element row in range are read whole (R181). -/
def Mat.blockSpans (x : Mat) (mn k t kb : Nat) : List (Nat × Nat) :=
  let r := geoRows x.geo
  let gs := (List.range r).map (fun i => t * r + i) |>.filter (fun g => decide (g < mn))
  let ks := (List.range 32).map (fun i => 32 * kb + i) |>.filter (fun kp => decide (kp < k))
  let w := codeBits x.fmt
  let mx := codeMx x.fmt
  match gs, ks with
  | g0 :: _, k0 :: _ =>
    if x.tiles then
      (gs.map (fun g => (x.base + (g / r * x.parts k + k0 / geoK x.geo x.fmt) * x.stride + (rowAt x.geo (g % r)).1 * 128, 128))).eraseDups ++
        (if mx then gs.map (fun g => (x.scalePos k g k0, 1)) else [])
    else if x.kmaj then gs.map (fun g => bitSpan (x.pos k g k0) (ks.length * w)) ++ (if mx then gs.map (fun g => (x.scalePos k g k0, 1)) else [])
    else ks.map (fun kp => bitSpan (x.pos k g0 kp) (gs.length * w)) ++ (if mx then [(x.scalePos k g0 k0, gs.length)] else [])
  | _, _ => []

/-- Distinct bad words of a list of Loft spans, in order. -/
def Mod.badOf (m : Mod) (c : Nat) (l : List (Nat × Nat)) : List Nat :=
  if m.bad.isEmpty then [] else (l.flatMap (fun s => m.badWords (loftKey c + s.1) s.2)).eraseDups

/-- OPERAND_ECC (R185): the page's error with the MPA of the doubleword, and LOFT_ECC with SUB 2 to the core. -/
def operandEcc (c : Nat) (bad : List Nat) (m : Mod) : Mod :=
  bad.foldl (fun (m : Mod) b =>
    (m.err (c / 256) (corePage c 1) 9 c 0 b).onCore c (fun k => k.report 6 2 (b - loftKey c))) m

/-- The Thresher reads spans of Loft: single-bit errors are corrected (R195), uncorrectable ones recorded (R185). -/
def Mod.thrRead (m : Mod) (c : Nat) (l : List (Nat × Nat)) : Mod :=
  operandEcc c (m.badOf c l) (l.foldl (fun (x : Mod) s => x.scrub (loftKey c + s.1) s.2) m)

/-! ### Initial values -/

/-- The value of a C element as stored (R138, R140): with its column block's scale. -/
def Mod.priorC (m : Mod) (c : Nat) (p : Prod) (i j : Nat) : FV :=
  let w := codeBits p.c.fmt
  let v := elemVal p.c.fmt (m.loftBits c ((p.c.base + i * p.c.stride) * 8 + j * w) w)
  if codeMx p.c.fmt then mxScale (m.loftBits c (8 * (p.c.sbase + i * p.c.ss + j / 32)) 8) v else v

/-- The initial accumulator value of element (i, j) (R138, R140). -/
def Mod.initElem (m : Mod) (c : Nat) (p : Prod) (i j : Nat) : Nat :=
  if !p.acc || decide (p.m ≤ i) || decide (p.n ≤ j) then 0
  else
    let v := m.priorC c p i j
    if p.int then ofInt 32 (toIntSat .rne (-2147483648) 2147483647 v) else toF32 v

/-- Spans of the prior C of a tile. -/
def Prod.priorSpans (p : Prod) (ti tj : Nat) : List (Nat × Nat) :=
  let w := codeBits p.c.fmt
  let n := Nat.min p.tc (p.n - tj * p.tc)
  let rows := (List.range p.tr).map (fun i => ti * p.tr + i) |>.filter (fun i => decide (i < p.m))
  if !p.acc then []
  else rows.flatMap (fun i => bitSpan ((p.c.base + i * p.c.stride) * 8 + tj * p.tc * w) (n * w) ::
    (if codeMx p.c.fmt then [(p.c.sbase + i * p.c.ss + tj * p.tc / 32, (n + 31) / 32)] else []))

/-- Set every element of an accumulator. -/
def Core.fillAcc (k : Core) (a : Nat) (g : Nat → Nat) : Core :=
  (List.range 4096).foldl (fun (k : Core) e => k.setAccEl a e (g e)) k

/-- Initialise the accumulator of tile (ti, tj). -/
def Mod.initTile (m : Mod) (c a : Nat) (p : Prod) (ti tj : Nat) : Mod :=
  (m.onCore c (fun k => k.fillAcc a (fun e => m.initElem c p (ti * p.tr + e / p.tc) (tj * p.tc + e % p.tc)))).thrRead c (p.priorSpans ti tj)

/-- Add K block `kb` of tile (ti, tj) into its accumulator (R138 to R140, R177). -/
def Mod.stepTile (m : Mod) (c a : Nat) (p : Prod) (ti tj kb : Nat) : Mod :=
  let val := fun (e : Nat) =>
    let i := ti * p.tr + e / p.tc
    let j := tj * p.tc + e % p.tc
    addBlock p.int ((m.core c).accEl a e) ((List.range 32).map (fun x =>
      (m.operand c p.a p.m p.k i (32 * kb + x), m.operand c p.b p.n p.k j (32 * kb + x))))
  (m.onCore c (fun k => k.fillAcc a val)).thrRead c (p.a.blockSpans p.m p.k ti kb ++ p.b.blockSpans p.n p.k tj kb)

/-! ### The epilogue (R118) and the write-out -/

/-- The F32 value after scale, bias and activation. -/
def epiF32 (p : Prod) (scale bias : Nat) (x0 : Nat) : Nat :=
  let x1 := if bits p.ctrl 0 1 = 1 then fmul x0 scale else x0
  let x := if bits p.ctrl 2 1 = 1 then fadd x1 bias else x1
  match bits p.ctrl 4 3 with
  | 1 => if (ofF32 x).isNan then x else if (FV.num false 0 0).lt (ofF32 x) then x else 0
  | 2 => fmin (fmax x (bits p.clamp 0 32)) (bits p.clamp 32 32)
  | 3 => tanhF32 x
  | 4 =>
    let a := fmul x x
    let b := ffma a 0x3D122279 0x3F4C422A
    let h := tanhF32 (fmul x b)
    fmul (fmul x 0x3F000000) (fadd h 0x3F800000)
  | 5 =>
    let e := exp2F32 (fmul x 0xBFB8AA3B)
    fmul x (rcpF32 (fadd e 0x3F800000))
  | _ => x

/-- The value of element (i, j) that is converted to the C format. -/
def Mod.finalVal (m : Mod) (c a : Nat) (p : Prod) (e j : Nat) : FV :=
  let raw := (m.core c).accEl a e
  if !p.epi then (if p.int then elemVal 14 raw else ofF32 raw)
  else
    let x := if p.int then toF32 (elemVal 14 raw) else raw
    let scale := if p.vecScale then m.rdClean (loftKey c + p.vbase + 4 * j) 4 else bits p.scale 0 32
    let bias := m.rdClean (loftKey c + p.bbase + 4 * j) 4
    ofF32 (epiF32 p scale (if p.vecBias then bias else 0) x)

/-- Rounding mode of the final conversion: RTZ only by the epilogue's descriptor (R118, R130). -/
def Prod.mode (p : Prod) : Rnd := if p.epi && bits p.ctrl 8 1 == 1 then .rtz else .rne
def Prod.nonSat (p : Prod) : Bool := p.epi && bits p.ctrl 9 1 == 1

/-- Element codes of `n` elements of a tile from accumulator element `e0`, which lies in column `j0` of C, and the scales of an MX C. -/
def Mod.outRow (m : Mod) (c a : Nat) (p : Prod) (e0 j0 n : Nat) : List Nat × List Nat :=
  let val := fun (x : Nat) => if x < n then m.finalVal c a p (e0 + x) (j0 + x) else .num false 0 0
  if codeMx p.c.fmt then
    let es := (List.range ((n + 31) / 32)).map (fun b => mxExp p.c.fmt ((List.range 32).map (fun y => val (32 * b + y))))
    ((List.range n).map (fun x => match es.getD (x / 32) none with | some e => mxElem p.c.fmt p.mode e (val x) | none => 0),
     es.map (fun e => match e with | some y => (y + 127).toNat | none => 255))
  else ((List.range n).map (fun x => convTo p.c.fmt p.mode p.nonSat (val x)), [])

/-- Write `n` elements of `w` bits at Loft byte `at_`: a byte that the row ends inside is read, and keeps its other bits
(R172); one in a bad word is not written. The bad words met. -/
def Mod.writeElems (m : Mod) (c at_ w : Nat) (l : List Nat) : Mod × List Nat :=
  let n := l.length * w
  let data := packList w l.length (fun i => l.getD i 0)
  let full := n / 8
  let rest := n % 8
  let x := m.loftWrite (loftKey c + at_) full (byteMask full) data
  if rest = 0 then x
  else
    let key := loftKey c + at_ + full
    let old := m.rd key 1
    let y := x.1.loftWrite key 1 1 (old / 2 ^ rest * 2 ^ rest + data / 2 ^ (8 * full) % 2 ^ rest)
    (y.1, x.2 ++ y.2)

/-- The runs of C elements that accumulator row `r` of tile (ti, tj) holds in range (R147, R181): first accumulator element, row and first
column of C, number of elements. -/
def Prod.runs (p : Prod) (ti tj r : Nat) : List (Nat × Nat × Nat × Nat) :=
  let w := Nat.min 64 p.tc
  ((List.range (64 / w)).map (fun q =>
    let e := 64 * r + w * q
    (e, ti * p.tr + e / p.tc, tj * p.tc + e % p.tc, w))).filterMap (fun (e, i, j, w) =>
      if i < p.m ∧ j < p.n then some (e, i, j, Nat.min w (p.n - j)) else none)

/-- Write the in-range elements of accumulator row `r` of tile (ti, tj) to C from accumulator `a` (R120). The tile's part of the epilogue's
vectors is read as its first row begins. -/
def Mod.outAccRow (m : Mod) (c a : Nat) (p : Prod) (ti tj r : Nat) : Mod :=
  let n := Nat.min p.tc (p.n - tj * p.tc)
  let w := codeBits p.c.fmt
  let reads := if r ≠ 0 then [] else
    (if p.vecScale then [(p.vbase + 4 * tj * p.tc, 4 * n)] else []) ++ (if p.vecBias then [(p.bbase + 4 * tj * p.tc, 4 * n)] else [])
  let x := (p.runs ti tj r).foldl (fun (x : Mod × List Nat) (e, i, j, n) =>
    let o := m.outRow c a p e j n
    let y := x.1.writeElems c (p.c.base + i * p.c.stride + j * w / 8) w o.1
    let z := y.1.loftWrite (loftKey c + p.c.sbase + i * p.c.ss + j / 32) o.2.length (byteMask o.2.length)
      (packList 8 o.2.length (fun i => o.2.getD i 0))
    (z.1, x.2 ++ y.2 ++ z.2)) (m.thrRead c reads, [])
  operandEcc c x.2.eraseDups x.1

/-! ### Partial sums of order 3 (R179) -/

def Prod.partAt (p : Prod) (tile : Nat) : Nat := p.c.pbase + tile * 0x4000

/-- Load, or store, accumulator row `r` of a tile's partial sums. -/
def Mod.loadPart (m : Mod) (c a : Nat) (p : Prod) (tile r : Nat) : Mod :=
  let at_ := p.partAt tile + 256 * r
  let v := m.rdClean (loftKey c + at_) 256
  (m.onCore c (fun k => (List.range 64).foldl (fun (k : Core) i => k.setAccEl a (64 * r + i) (bits v (32 * i) 32)) k)).thrRead c [(at_, 256)]

def Mod.storePart (m : Mod) (c a : Nat) (p : Prod) (tile r : Nat) : Mod :=
  m.wr (loftKey c + p.partAt tile + 256 * r) 256 (packList 32 64 (fun i => (m.core c).accEl a (64 * r + i)))

/-! ### Steps, write-outs, completion -/

/-- Split the queue at its walking MATX: the last that has begun and has something left. -/
def splitWalk (ok : Matx → Bool) : List Matx → List Matx → Option (List Matx × Matx × List Matx)
  | _, [] => none
  | a, x :: t => if ok x then some (a, x, t) else splitWalk ok (a ++ [x]) t

/-- The accumulator of slot `q`. -/
def Matx.slot (x : Matx) (q : Nat) : Nat := bits x.accmap (4 * q) 4

/-- Tiles whose steps are done. -/
def Matx.stepped (x : Matx) : Nat :=
  let p := x.prod
  if p.nkb = 0 then p.tilesN else x.step / p.nkb

/-- An earlier MATX still has to write out a tile from accumulator `a`. -/
def owesAcc (before : List Matx) (a : Nat) : Bool :=
  before.any (fun x => x.walk && !x.dropped && (List.range (x.stepped - x.wtile)).any (fun i => x.slot ((x.wtile + i) % x.s) == a))

/-- MATX_STEP: the array adds one K block of a tile into its accumulator (R177 to R179), or, where a tile-panel of order 3 begins with a
partial load, loads its next accumulator row. A TMUL that waits runs first (R159); the first step of a tile waits until its slot has been
written out. -/
def execMatxStep (c : Nat) (s : State) : Ans :=
  onCpu c s (fun m =>
    let k := m.core c
    if !k.tmuls.isEmpty then m
    else match splitWalk (fun x => x.walk && !x.dropped && !x.prod.empty && decide (x.step < x.prod.steps)) [] k.mxq with
      | none => m
      | some (b, x, t) =>
        let p := x.prod
        let put := fun (m : Mod) (y : Matx) => (m.onCore c (fun k => { k with mxq := b ++ [y] ++ t })).stir c
        if p.order = 3 then
          let q := p.panelAt x.step
          let a := x.slot 0
          let ti := q.2.1 / p.nt
          let tj := q.2.1 % p.nt
          if x.phase = 2 ∨ owesAcc b a then m
          else if x.phase = 0 ∧ q.1 ≠ 0 then
            put (m.loadPart c a p q.2.1 x.row) (if x.row = 63 then { x with row := 0, phase := 1 } else { x with row := x.row + 1 })
          else
            let m1 := if x.phase = 0 then m.initTile c a p ti tj else m
            let m2 := m1.stepTile c a p ti tj q.2.2
            let full := decide (q.2.2 + 1 = Nat.min (8 * q.1 + 8) p.nkb)
            put m2 { x with step := x.step + 1, phase := if full then 2 else 1 }
        else
          let tile := x.step / p.nkb
          let kb := x.step % p.nkb
          let a := x.slot (tile % x.s)
          let ij := x.tileAt tile
          if kb = 0 ∧ (x.wtile + x.s ≤ tile ∨ owesAcc b a) then m
          else
            let m1 := if kb = 0 then m.initTile c a p ij.1 ij.2 else m
            put (m1.stepTile c a p ij.1 ij.2 kb) { x with step := x.step + 1 })

/-- The MATX has a tile, or a tile-panel of order 3, to write out. -/
def Matx.owes (x : Matx) : Bool :=
  let p := x.prod
  x.walk && !x.dropped && !p.empty && decide (x.wtile < p.tilesN) &&
    (if p.order = 3 then x.phase == 2 || p.nkb == 0 else decide (x.wtile < x.stepped))

/-- MATX_WRITEOUT: the next accumulator row of the oldest finished tile runs the epilogue or conversion and its in-range elements are written
to C, or that of a tile-panel of order 3 that is not the last is stored in the partial buffer (R120, R177, R179). -/
def execMatxWriteout (c : Nat) (s : State) : Ans :=
  onCpu c s (fun m =>
    let k := m.core c
    match splitWalk Matx.owes [] k.mxq with
    | none => m
    | some (b, x, t) =>
      let p := x.prod
      let put := fun (m : Mod) (y : Matx) =>
        (m.onCore c (fun k => { k with mxq := b ++ [if x.row = 63 then { y with row := 0 } else { x with row := x.row + 1 }] ++ t })).stir c
      if p.order = 3 then
        let q := if p.nkb = 0 then (0, x.wtile, 0) else p.panelAt (x.step - 1)
        let a := x.slot 0
        let ti := q.2.1 / p.nt
        let tj := q.2.1 % p.nt
        let m1 := if p.nkb = 0 ∧ x.row = 0 then m.initTile c a p ti tj else m
        if q.1 + 1 = p.panels then put (m1.outAccRow c a p ti tj x.row) { x with wtile := x.wtile + 1, phase := 0 }
        else put (m1.storePart c a p q.2.1 x.row) { x with phase := 0 }
      else
        let ij := x.tileAt x.wtile
        let a := x.slot (x.wtile % x.s)
        let m1 := if p.nkb = 0 ∧ x.row = 0 then m.initTile c a p ij.1 ij.2 else m
        put (m1.outAccRow c a p ij.1 ij.2 x.row) { x with wtile := x.wtile + 1 })

/-- MATX_COMPLETION: the oldest MATX completes (R184): entries released, CNT_MATX, its counter, its interrupt. -/
def execMatxCompletion (c : Nat) (s : State) : Ans :=
  onCpu c s (fun m =>
    match (m.core c).mxq with
    | [] => m
    | x :: t =>
      if !x.allOut then m
      else
        let d := c / 256
        let m1 := (m.onCore c (fun k => ({ k with mxq := t } : Core).rtRelease (.matx x.id))).addReg d (corePage c 1) 0x150 1
        let m2 := if bits x.done 5 1 = 1 then (match cntOf (scRef c (bits x.done 0 5)) with
          | some y => m1.applyInc y 1 c | none => m1) else m1
        if bits x.done 6 1 = 1 then m2.irq d (corePage c 1) 0 else m2)

/-! ### TYIELD (R186 to R189) -/

/-- Write TPROG_q from a queue entry. -/
def putTprog (c q : Nat) (x : Matx) (m : Mod) : Mod :=
  let d := c / 256
  let p := corePage c 1
  let o := 0x180 + q * 0x20
  let hi := 2 ^ 63 + x.phase * 2 ^ 61 + x.s * 2 ^ 56 + x.br * 2 ^ 53 + x.bc * 2 ^ 50 + b2n x.level * 2 ^ 27 + x.done * 2 ^ 20 + bits x.word 64 20
  (((m.setReg d p o (bits x.word 0 64)).setReg d p (o + 8) hi).setReg d p (o + 16) (x.wtile * 2 ^ 32 + x.step)).setReg d p (o + 24) x.accmap

/-- TYIELD with R = 0. -/
def tyield (c : Nat) (m : Mod) (k : Core) : Res :=
  let d := c / 256
  let p := corePage c 1
  let m1 := (List.range 4).foldl (fun (m : Mod) q =>
    match k.mxq[q]? with
    | some x => putTprog c q x m
    | none => m.setFld d p (0x188 + q * 0x20) 63 1 0) m
  let m2 := m1.onCore c (fun k => k.mxq.foldl (fun (k : Core) x => k.rtRelease (.matx x.id)) { k with mxq := [] })
  .ok (m2.setFld d p 0x100 4 1 1)

def execTyield (c : Nat) (f : SysF) (s : State) : Ans :=
  onCoreOnly c 3 s (issue c 3 (marked [f.a.toNat, f.b.toNat, f.c.toNat, f.imm.toNat / 2]) false false [] (tyield c))

/-- The entry of TPROG_q as a MATX with the descriptors in effect; none where VALID is 0. -/
def Mod.tprogEntry (m : Mod) (c q : Nat) : Option Matx :=
  let r := fun (i : Nat) => m.reg (c / 256) (corePage c 1) (0x180 + q * 0x20 + 8 * i)
  if bits (r 1) 63 1 = 0 then none
  else
    let x := m.capture c (r 0 + bits (r 1) 0 20 * 2 ^ 64) (bits (r 1) 20 7) (bits (r 1) 27 1 == 1)
    if bits (r 1) 56 5 = 0 then some x
    else some { x with s := bits (r 1) 56 5, br := bits (r 1) 53 3, bc := bits (r 1) 50 3, phase := bits (r 1) 61 2
                       wtile := bits (r 2) 32 32, step := bits (r 2) 0 32, accmap := r 3 }

/-- The checks of one entry of TYIELD.R (R188): cause, SUB, ADDR. -/
def tprogCheck (k : Core) (x : Matx) : Option (Nat × Nat × Nat) := if matxIllegal x.word then some (2, 0, 0) else matxCheck k x (x.s != 0)

/-- The fault of TYIELD.R: of those of its entries, the first in the order of R86, the lowest entry's where several have that cause. -/
def tprogFault (k : Core) (l : List (Nat × Matx)) : Option (Nat × Nat × Nat) :=
  let fs := l.filterMap (fun x => tprogCheck k x.2)
  ([2, 3, 4, 11] : List Nat).findSome? (fun cause => fs.find? (fun f => f.1 == cause))

/-- The valid entries, captured with the descriptors in effect. -/
def Mod.tprogAll (m : Mod) (c : Nat) : List (Nat × Matx) := ([0, 1, 2, 3] : List Nat).filterMap (fun q => (m.tprogEntry c q).map (fun x => (q, x)))

/-- Move entries into the queue in order while it has room, clearing each VALID; those that have not entered. -/
def tprogEnter (c : Nat) : List (Nat × Matx) → Mod → Mod × List (Nat × Matx)
  | [], m => (m, [])
  | (q, x) :: t, m =>
    if (m.core c).matxRoom then tprogEnter c t ((m.enqueue c x).setFld (c / 256) (corePage c 1) (0x188 + q * 0x20) 63 1 0)
    else (m, (q, x) :: t)

/-- TYIELD.R: checks for every valid entry first, then issue is held until each has entered the queue. -/
def tyieldR (c : Nat) (m : Mod) (k : Core) : Res :=
  let l := if k.hold.isSome then k.resumes else m.tprogAll c
  match (if k.hold.isSome then none else tprogFault k l) with
  | some (cause, sub, addr) => .trap m cause sub addr
  | none =>
    let stopped := m.fld (c / 256) (corePage c 1) 0x100 4 1
    let x := tprogEnter c l m
    if x.2.isEmpty then
      .ok ((x.1.onCore c (fun k => { k with hold := none, resumes := [] })).setFld (c / 256) (corePage c 1) 0x100 4 1 0)
    else .stay ((x.1.onCore c (fun k => { k with hold := some (Hold.mk .tyield true 0 0 0 none [] 0), resumes := x.2 })).setFld
      (c / 256) (corePage c 1) 0x100 4 1 stopped)

def execTyieldR (c : Nat) (f : SysF) (s : State) : Ans :=
  onCoreOnly c 3 s (issueHeld .tyield c (marked [f.a.toNat, f.b.toNat, f.c.toNat, f.imm.toNat / 2]) [] (tyieldR c))

end Sys2Proof.Machine
end

