-- ==== Sys2Proof/Machine/Furrow.lean ====
section
/-! DEFINITION. Furrows (R288 to R316): faults, operations, dispatch and firings, token arrival, injectors and ejectors,
entry into stream mode, draining and exit, and the entries of faults and reports. -/

namespace Sys2Proof.Machine

/-- Write a token to slot `i`; the bad words that a partial write met. -/
def Mod.writeSlot (m : Mod) (c cfg i : Nat) (t : Token) : Mod × List Nat :=
  let m1 := m.wr (loftKey c + slotHeader cfg i) 8 t.header
  m1.loftWrite (loftKey c + slotData cfg i) t.size (byteMask t.size) t.data

/-! ### Interrupts and faults (R289, R310, R311) -/

/-- The steward's notice of causes of the FURROW page (R76, R289): sent in stream mode, with IRQ_STAT. -/
def Mod.furNotice (m : Mod) (c causes : Nat) : Mod :=
  let d := c / 256
  if (m.fur c).stream && (causes &&& m.reg d (furPage c) 0x028) != 0 then m.notice d 4 c (m.fld d (furPage c) 0x020 0 8) else m

/-- Set a cause of the FURROW page; in stream mode an enabled cause goes to the steward as a notice. -/
def Mod.furIrq (m : Mod) (c bit : Nat) : Mod := (m.irq (c / 256) (furPage c) bit).furNotice c (2 ^ bit)

/-- A write of the FURROW page's IRQ_TEST or IRQ_EN has been made: causes that it has set, or enabled, reach the steward (R289). -/
def Mod.furTest (before m : Mod) (c : Nat) : Mod :=
  let d := c / 256
  m.furNotice c (m.irqBits d (furPage c) &&& (2 ^ 64 - 1 - before.irqBits d (furPage c)))

def Mod.discard (m : Mod) (c n : Nat) : Mod := m.addReg (c / 256) (furPage c) 0x128 n

/-- FURROW_FAULT: the first is recorded, and the core becomes a sink. `rule` and `code` complete the DETAIL, `addr` is a Loft
offset where there is one, `lost` counts input tokens of a faulting firing. -/
def Mod.furFault (m : Mod) (c cause rule code : Nat) (addr : Option Nat) (lost : Nat) : Mod :=
  let f := m.fur c
  let a := match addr with | some x => 0x40000000000 + c * 0x400000 + x | none => 0
  let held := (List.range 24).foldl (fun n i => n + f.occ i) 0
  let m1 := m.setFur c { f with sink := true, queues := [], ext := [], taken := [] }
  ((m1.discard c (held + lost)).err (c / 256) (furPage c) 9 c (cause + rule * 2 ^ 8 + code * 2 ^ 16) a).furIrq c 0

/-! ### Operations (R297 to R300) -/

/-- The vector instructions a VEC rule may hold, by opcode. -/
def vecExec (op c : Nat) (f : VFields) (s : State) : Option Ans :=
  match op with
  | 0x08 => some (execVadd c f s) | 0x09 => some (execVsub c f s) | 0x0A => some (execVmul c f s) | 0x0B => some (execVfma c f s)
  | 0x0C => some (execVmin c f s) | 0x0D => some (execVmax c f s) | 0x0E => some (execVabs c f s) | 0x0F => some (execVneg c f s)
  | 0x10 => some (execVand c f s) | 0x11 => some (execVor c f s) | 0x12 => some (execVxor c f s) | 0x13 => some (execVshl c f s)
  | 0x14 => some (execVshr c f s) | 0x15 => some (execVsar c f s) | 0x16 => some (execVcvt c f s) | 0x17 => some (execVsplat c f s)
  | 0x1C => some (execVsel c f s) | 0x20 => some (execVsf c f s) | 0x28 => some (execVperm c f s) | 0x29 => some (execVrot c f s)
  | _ => none

/-- Vector registers an instruction of a VEC rule reads. -/
def vecSources (op : Nat) (f : VFields) : List Nat :=
  let a := f.va.toNat
  let b := f.vb.toNat
  match op with
  | 0x0B => [a, b, f.aux.toNat % 32] | 0x0E => [a] | 0x0F => [a] | 0x16 => [a] | 0x17 => [] | 0x20 => [a] | 0x29 => [a] | _ => [a, b]

/-- Deliver input tokens to the staging registers, and set v28, v29, g12 and g13 (R296). -/
def Core.stage (k : Core) (l : List Token) : Core :=
  let k1 := (List.range l.length).foldl (fun (k : Core) i =>
    match l[i]? with
    | some t => if t.ctl then k.setG (8 + i) (BitVec.ofNat 64 t.data)
                else (k.setV (24 + i) t.data).setG (8 + i) (BitVec.ofNat 64 t.header)
    | none => k) k
  let h := BitVec.ofNat 64 (match l with | t :: _ => if t.ctl then 0 else t.header | [] => 0)
  (((k1.setV 28 0).setV 29 0).setG 12 h).setG 13 h

/-- Run the vector instruction of a VEC rule on a private copy of the core: the copy afterwards, or none where the instruction
is not one the rule may hold or is illegal. -/
def vecRun (m : Mod) (c w : Nat) (l : List Token) : Option Core :=
  let op := bits w 31 6
  let k0 := m.core c
  let k := (({ k0 with running := true, halted := false, idle := false, trap := none, reports := [], hold := none, walk := none
                       branch := none, loads := [], vloads := [], csq := [], routine := none, pc := 0xE000 } : Core).setCs
    { k0.cs with ie := false }).stage l
  let s : State := { pending := [], aon := {}, mod := ({ m with debugHalt := [] } : Mod).setCore c k |>.orReg (c / 256) (corePage c 0) 0x110 (2 ^ 14) }
  if bits w 37 5 ≠ 0x1C then none
  else match vecExec op c (vFieldsOf w) s with
    | some (.next t) => let k1 := t.mod.core c; if k1.trap.isSome then none else some k1
    | _ => none

/-- The data token of a VEC firing: IN0's tag and LEN, and v28. -/
def vecToken (m : Mod) (c w : Nat) (l : List Token) : Token :=
  let t := l.headD { ctl := false, tag := 0, len := 0, data := 0 }
  let v := match vecRun m c w l with | some k => k.vr 28 | none => 0
  { t with data := v % 2 ^ (8 * t.len) }

/-- Kt of R298. -/
def Rule.kt (x : Rule) : Nat := geoK 0 x.fb

/-- Bytes of the input of a TMUL rule. -/
def Rule.tmulBytes (x : Rule) : Nat := x.kt * codeBits x.fa / 8 + (if codeMx x.fa then (x.kt + 31) / 32 else 0)

/-- Element `i` of the row a TMUL rule takes. -/
def Rule.rowVal (x : Rule) (data i : Nat) : FV :=
  let v := elemVal x.fa (bits data (i * codeBits x.fa) (codeBits x.fa))
  if codeMx x.fa then mxScale (bits data (8 * (x.kt * codeBits x.fa / 8 + i / 32)) 8) v else v

/-- The token of a TMUL firing (R298): one value per element row of TB. -/
def tmulToken (k : Core) (x : Rule) (t : Token) : Token :=
  let el := fun (j : Nat) => (List.range (x.kt / 32)).foldl (fun acc b =>
    addBlock (pairInt x.fa) acc ((List.range 32).map (fun y => (x.rowVal t.data (32 * b + y), k.tileVal x.tb 0 x.fb j (32 * b + y))))) 0
  { ctl := false, tag := t.tag, len := 256, data := packList 32 64 el }

/-- Outputs of a firing whose result does not take a routine. -/
def firingOuts (m : Mod) (c : Nat) (x : Rule) (l : List Token) : List (Nat × Option Token) :=
  let o := fun (j : Nat) => x.outs.getD j 0
  let t := l.headD { ctl := false, tag := 0, len := 0, data := 0 }
  let ctl := (l.getD 1 t).data % 2
  match x.op with
  | 0 => let r := vecToken m c x.body l; x.outputs.map (fun s => (s, some r))
  | 1 => [(o 0, some (tmulToken (m.core c) x t))]
  | 3 => [(o 0, if ctl = 0 then some t else none), (o 1, if ctl = 1 then some t else none)]
  | 4 => [(o 0, l[1]?)]
  | 5 => [(o 0, some t), (o 1, some t)]
  | 6 => [(o 0, if ctl = 1 then some t else none)]
  | _ => x.outputs.map (fun s => (s, none))

/-! ### Dispatch and outputs -/

/-- Take the head of an input, refilling a queue from its extension: the module, and the bad word of the extension that stopped the refill
(R292, R310). -/
def Mod.takeIn (m : Mod) (c sel : Nat) : Mod × Option Nat :=
  let f := m.fur c
  if 16 ≤ sel ∧ sel < 20 then (m.setFur c { f with taken := SMap.put [] f.taken (sel - 16) [] }, none)
  else
    let q := (SMap.get [] f.queues sel).tail
    let e := SMap.get (0, 0) f.ext sel
    if e.2 = 0 then (m.setFur c { f with queues := SMap.put [] f.queues sel q }, none)
    else
      let cfg := m.furReg c (0x200 + sel * 8)
      let m1 := m.setFur c { f with queues := SMap.put [] f.queues sel q }
      match m.readSlot c cfg e.1 with
      | .inl t => ((m.setFur c { f with queues := SMap.put [] f.queues sel (q ++ [t])
                                        ext := SMap.put (0, 0) f.ext sel (if e.2 = 1 then (0, 0) else ((e.1 + 1) % ringSlots cfg, e.2 - 1)) }).scrub
          (loftKey c + slotHeader cfg e.1) 8 |>.scrub (loftKey c + slotData cfg e.1) t.size, none)
      | .inr a => (m1, some a)

/-- Dispatch rule `r`: one token from each input, one entry in each output (R295). Where a queue's next token cannot be read from its
extension, the firing is the faulting one: it writes no output, and its input tokens are discarded (R310, R311). -/
def Mod.dispatch (m : Mod) (c r : Nat) : Mod :=
  let f := m.fur c
  let x := m.rule c r
  let ins := (x.takes f).getD []
  let l := ins.filterMap f.head
  let fire : Firing := { rule := r, outs := firingOuts m c x l, routine := x.op == 2 }
  let y := ins.foldl (fun (y : Mod × Option Nat) i =>
    let z := y.1.takeIn c i
    (z.1, match y.2 with | some a => some a | none => z.2)) ((m.addReg (c / 256) (furPage c) 0x130 1).coreEv c 0x1A 1 |>.stir c, none)
  let g := y.1.fur c
  let m1 := y.1.setFur c { g with firings := g.firings ++ [fire], last := SMap.put 0 g.last x.pri ((r + 1) % 16) }
  match y.2 with
  | some a => y.1.furFault c 7 r 0 (some a) ins.length
  | none =>
    if x.op = 2 then m1.onCore c (fun k =>
      let k1 := k.stage l
      ({ k1.setCs { k1.cs with level := true } with
        routine := some { rule := r, entry := x.entry, rlen := x.rlen, count := 0, pc := k.pc, level := k.cs.level, reports := k.reports }
        reports := [], pc := BitVec.ofNat 16 x.entry })) else m1

/-- Lift a meaning to a command of the furrow block of core `c`. -/
def onFurrow (c : Nat) (s : State) (f : Mod → Mod) : Ans :=
  if isCore c then .next { s with mod := f s.mod } else .fault (.noSuchAgent c)

/-- RULE_DISPATCH: the core dispatches the rule of R295, if one is ready. -/
def execRuleDispatch (c : Nat) (s : State) : Ans :=
  onFurrow c s (fun m => match m.pickRule c with | some r => m.dispatch c r | none => m)

/-- A token leaves for its queue or ejector; toward a core that has left stream mode it is lost. -/
def Mod.deliver (m : Mod) (c : Nat) (o : Nat × Option Token) : Mod :=
  match o.2 with
  | none => m
  | some t =>
    let f := m.fur c
    if isLocal o.1 then m.setFur c { f with arriving := f.arriving ++ [(o.1, t)] }
    else if isEj o.1 then m.setFur c { f with ejecting := f.ejecting ++ [(o.1 - 0x30, t)] }
    else match laneTarget c o.1 with
      | some n =>
        let g := m.fur n.1
        if g.stream then m.setFur n.1 { g with arriving := g.arriving ++ [(n.2, t)] } else m
      | none => m

/-- End the routine of a core: PC, level and earlier reports return, and nothing of it is left at issue. -/
def Core.endRoutine (k : Core) : Core :=
  match k.routine with
  | none => k
  | some r =>
    { k.setCs { k.cs with level := r.level } with
      routine := none, pc := r.pc, branch := none, trap := none, hold := none, reports := r.reports ++ k.reports.filter (fun x => x.cause != 6) }

/-- Output j of a ROUTINE (R296, R299). A LEN in g12 + j that no token can have leaves the token's length open. -/
def routineOut (x : Rule) (k : Core) (m : Mod) (j : Nat) : Option Token × Mod :=
  let g := (k.gr (12 + j)).toNat
  if bits g 63 1 = 1 then (none, m)
  else if bits x.okind j 1 = 1 then (some { ctl := true, tag := 0, len := 8, data := g }, m)
  else
    let bad := decide (256 < bits g 8 9) || bits g 8 2 != 0
    let y := if bad then m.free else (0, m)
    let len := if bad then 4 * (y.1 % 65) else bits g 8 9
    (some { ctl := false, tag := bits g 0 8, len := len, data := k.vr (28 + j) % 2 ^ (8 * len) }, y.2)

/-- The faulting firing of a routine writes no output; its input tokens are discarded (R311). -/
def Mod.routineFault (m : Mod) (c cause code : Nat) (addr : Option Nat) : Mod :=
  match (m.core c).routine with
  | none => m
  | some r =>
    let f := m.fur c
    let m1 := (m.onCore c (fun k => k.drain.endRoutine)).setFur c { f with firings := f.firings.filter (fun x => !x.routine) }
    m1.furFault c cause r.rule code addr (m.rule c r.rule).nin

/-- FIRING_OUTPUT: the oldest firing of rule `r` writes its outputs: a ROUTINE's once it has ended and every result it issued
has been written (R299). -/
def execFiringOutput (c r : Nat) (s : State) : Ans :=
  onFurrow c s (fun m =>
    let f := m.fur c
    match f.firings.find? (fun x => x.rule == r) with
    | none => m
    | some x =>
      let done := fun (m : Mod) (outs : List (Nat × Option Token)) =>
        let g := m.fur c
        outs.foldl (fun (m : Mod) o => m.deliver c o) (m.setFur c { g with firings := g.firings.erase x })
      if !x.routine then done m x.outs
      else
        let k := m.core c
        if !k.routineEnded || k.trap.isSome || k.reportDue || !k.settled then m
        else
          let kd := k.drain
          match kd.reports.find? (fun y => y.cause == 6) with
          | some y => (m.setCore c kd).routineFault c 1 6 (if y.addr < 0x400000 then some y.addr else none)
          | none =>
            let rl := m.rule c r
            let res := (List.range rl.nout).foldl (fun (a : List (Nat × Option Token) × Mod) j =>
              let y := routineOut rl kd a.2 j
              (a.1 ++ [(rl.outs.getD j 0, y.1)], y.2)) ([], m)
            done (res.2.setCore c kd.endRoutine) res.1)

/-- TOKEN_ARRIVAL: the oldest token on its way to queue `i` of core `c` reaches it: discarded by a sink, a fault where the queue
is of the other kind, else into the hardware entries, or the extension once they are full (R292, R310, R311). -/
def execTokenArrival (c i : Nat) (s : State) : Ans :=
  onFurrow c s (fun m =>
    let f := m.fur c
    match f.arriving.find? (fun a => a.1 == i) with
    | none => m
    | some a =>
      let m := m.stir c
      let m1 := m.setFur c { f with arriving := f.arriving.erase a }
      let t := a.2
      if f.sink then m1.discard c 1
      else if !f.stream || !m.inEn c i then m1
      else if m.inCtl c i != t.ctl then m1.furFault c 4 0 0 none 1
      else
        let q := SMap.get [] f.queues i
        let e := SMap.get (0, 0) f.ext i
        let cfg := m.furReg c (0x200 + i * 8)
        if e.2 = 0 ∧ q.length < 8 then
          m1.setFur c { f with arriving := f.arriving.erase a, queues := SMap.put [] f.queues i (q ++ [t]) }
        else if bits cfg 2 1 = 1 ∧ e.2 < ringSlots cfg then
          let w := m1.writeSlot c cfg ((e.1 + e.2) % ringSlots cfg) t
          match w.2 with
          | [] => w.1.setFur c { f with arriving := f.arriving.erase a, ext := SMap.put (0, 0) f.ext i (e.1, e.2 + 1) }
          | b :: _ => w.1.furFault c 7 0 0 (some (b - loftKey c)) 1
        else m)

/-! ### Injectors and ejectors (R301 to R303) -/

/-- INJECTOR_TAKE: injector `k` takes its next token, which waits in it for a dispatch. -/
def execInjectorTake (c k : Nat) (s : State) : Ans :=
  onFurrow c s (fun m =>
    let f := m.fur c
    let cfg := m.inCfg c (16 + k)
    let n := m.injAvail c k
    let sl := ringSlots cfg
    if !(decide (k < 4)) || !f.stream || f.sink || f.drainReq || !m.inEn c (16 + k) then m
    else if sl < n then m.furFault c 6 0 0 none 0
    else if n = 0 || !m.injOpen c k || !(SMap.get [] f.taken k).isEmpty then m
    else
      let slot := m.furReg c (0x400 + k * 8) % sl
      let hk := slotHeader cfg slot
      match m.firstBad (loftKey c + hk) 8 with
      | some x => m.furFault c 7 0 0 (some (x - loftKey c)) 0
      | none =>
        let h := m.rd (loftKey c + hk) 8
        if 256 < bits h 8 9 ∨ bits h 8 2 ≠ 0 ∨ (bits h 17 1 == 1) ≠ m.inCtl c (16 + k) ∨ bits h 18 46 ≠ 0 then
          m.furFault c 5 0 0 (some hk) 0
        else match m.readSlot c cfg slot with
          | .inr a => m.furFault c 7 0 0 (some a) 0
          | .inl t =>
            let m := ((m.stir c).scrub (loftKey c + hk) 8).scrub (loftKey c + slotData cfg slot) t.size
            let m1 := (m.setFur c { f with taken := SMap.put [] f.taken k [t] }).addReg (c / 256) (furPage c) (0x400 + k * 8) 1
            if bits cfg 2 1 = 1 then m1.setReg (c / 256) (furPage c) (0x420 + k * 8) (m.furReg c (0x420 + k * 8) - 1) else m1)

/-- EJECTOR_WRITE: ejector `k` writes its oldest token to its ring and increments its counter (R303). On OVERRUN, which has no room to come
again, the token that was to be written is discarded and counted, so that EMPTY can be reached (R311; DESIGN CHOICE, log entry 109). -/
def execEjectorWrite (c k : Nat) (s : State) : Ans :=
  onFurrow c s (fun m =>
    let f := m.fur c
    let cfg := m.ejCfg c k
    let room := m.ejRoom c k
    if !(decide (k < 4)) || !f.stream || bits cfg 0 1 == 0 then m
    else if ringSlots cfg < room then
      (match f.ejecting.find? (fun a => a.1 == k) with
        | some a =>
          let m1 := m.setFur c { f with ejecting := f.ejecting.erase a }
          if f.sink then m1.discard c 1 else m1.furFault c 6 0 0 none 1
        | none => if f.sink then m else m.furFault c 6 0 0 none 0)
    else match f.ejecting.find? (fun a => a.1 == k) with
      | none => m
      | some a =>
        if room = 0 then m
        else
          let w := ((m.stir c).setFur c { f with ejecting := f.ejecting.erase a }).writeSlot c cfg (m.furReg c (0x440 + k * 8) % ringSlots cfg) a.2
          match w.2 with
          | b :: _ => w.1.furFault c 7 0 0 (some (b - loftKey c)) 1
          | [] =>
            let m1 := w.1.addReg (c / 256) (furPage c) (0x440 + k * 8) 1
            match cntOf (scRef c (bits cfg 3 5)) with
            | some y => m1.applyInc y 1 c
            | none => m1)

/-! ### Entry (R304 to R306) -/

/-- A rule's inputs and outputs by OP: least and most of each. -/
def opCounts (op : Nat) : Nat × Nat × Nat × Nat :=
  match op with
  | 0 => (1, 3, 1, 2) | 1 => (1, 1, 1, 1) | 2 => (1, 4, 0, 2) | 3 => (2, 2, 2, 2) | 4 => (3, 3, 1, 1) | 5 => (1, 1, 2, 2) | _ => (2, 2, 1, 1)

/-- The kind that the OP gives input `j`: some true for control; none for either kind. -/
def opInKind (op j : Nat) : Option Bool :=
  match op with
  | 0 => some false | 1 => some false | 3 => some (j == 1) | 4 => some (j == 0) | 6 => some (j == 1) | _ => none

/-- The kind of output `j` where the OP fixes it. -/
def opOutKind (op : Nat) : Option Bool := if op = 2 ∨ op = 5 then none else some false

/-- The kind configured for an output that has a configuration and is enabled. -/
def Mod.outKind (m : Mod) (c sel : Nat) : Option Bool :=
  if isLocal sel then (if m.inEn c sel then some (m.inCtl c sel) else none)
  else if isEj sel then (if bits (m.ejCfg c (sel - 0x30)) 0 1 = 1 then some (bits (m.ejCfg c (sel - 0x30)) 1 1 == 1) else none)
  else none

/-- Reason 5 of R306. -/
def Mod.ruleBad5 (m : Mod) (c : Nat) (x : Rule) : Bool :=
  let k := m.core c
  let n := opCounts x.op
  let unused := (x.ins.drop x.nin ++ x.outs.drop x.nout).any (fun s => s != 0)
  let inKind := (List.range x.nin).any (fun j =>
    let s := x.ins.getD j 0
    isInSel s && m.inEn c s && (match opInKind x.op j with | some b => m.inCtl c s != b | none => false))
  let outKind := x.outputs.any (fun s => match opOutKind x.op, m.outKind c s with | some b, some y => y != b | _, _ => false)
  let body := match x.op with
    | 0 =>
      let w := x.body % 2 ^ 42
      let f := vFieldsOf w
      let op := bits w 31 6
      bits x.body 42 21 != 0 || f.vd != 28 || (vecSources op f).any (fun v => decide (26 < v)) ||
        (op == 0x16 && bits w 1 2 == 2) || (vecRun m c w []).isNone
    | 1 => bits x.body 0 52 != 0 || k.tagOf x.tb / 64 != 0 || k.tagOf x.tb % 16 != x.fb || k.tagPartial x.tb ||
        !pairOk x.fa x.fb || decide (256 < x.tmulBytes)
    | 2 => bits x.body 0 41 != 0
    | _ => x.body != 0
  x.op == 7 || decide (x.nin < n.1) || decide (n.2.1 < x.nin) || decide (x.nout < n.2.2.1) || decide (n.2.2.2 < x.nout) || unused ||
    (x.op != 2 && x.okind != 0) || inKind || outKind || body

/-- The kind a rule gives output `j`, where it depends on the rule: COPY's on its input, ROUTINE's on OKIND. -/
def Mod.roleKind (m : Mod) (c : Nat) (x : Rule) (j : Nat) : Option Bool :=
  if x.op = 5 then some (m.inCtl c (x.ins.getD 0 0)) else if x.op = 2 then some (bits x.okind j 1 == 1) else none

/-- Reason 6 of R306 for rule `r`. -/
def Mod.ruleBad6 (m : Mod) (c r : Nat) : Bool :=
  let x := m.rule c r
  let others := ((List.range 16).filter (fun i => i != r)).map (fun i => m.rule c i) |>.filter (fun y => y.valid)
  x.inputs.any (fun s => !isInSel s || !m.inEn c s || others.any (fun y => y.inputs.contains s)) ||
    x.outputs.any (fun s => !isOutSel s || others.any (fun y => y.outputs.contains s) ||
      (!isLane s && (m.outKind c s).isNone)) ||
    (List.range x.nout).any (fun j => match m.roleKind c x j, m.outKind c (x.outs.getD j 0) with
      | some b, some y => y != b | _, _ => false)

/-- A neighbour that a lane queue may not reach: none, retired, or of another partition (reason 7). -/
def Mod.laneBad (m : Mod) (c d : Nat) : Bool :=
  match laneNeighbour c d with
  | none => true
  | some n => m.retired n || m.partition n != m.partition c

/-- The instruction at `a` is one that a routine may not hold, or runs past its end (R299); with its length. -/
def Mod.routineInstrBad (m : Mod) (c a lo fin : Nat) : Bool × Nat :=
  let n := parcelLen (m.parcel c a)
  let w := m.wordAt c a n
  let hi := (m.parcel c a).toNat / 2048
  let sub := (m.parcel c a).toNat / 512 % 4
  let inside := fun (t : Nat) => decide (lo ≤ t % 65536) && decide (t % 65536 < fin)
  let slot := decide (fin ≤ a + n)
  let rel := fun (wd : Nat) => (((a : Int) + sext wd w) % 65536).toNat
  let bad :=
    if hi < 6 then bits w 8 6 == 0x2D && slot
    else if hi = 6 then
      let op := bits w 20 5
      if 0x10 ≤ op ∧ op ≤ 0x15 then slot || !inside (rel 12)
      else if op = 0x16 ∨ op = 0x17 then slot || !inside (rel 16)
      else if op = 0x18 then slot || !inside (bits w 0 16)
      else op == 0x19 || op == 0x1A
    else if sub = 0 then bits w 31 6 == 0x16 && bits w 1 2 == 2
    else if sub = 1 then true
    else if sub = 2 then
      let op := bits w 31 6
      [2, 3, 4, 6, 7, 8, 9, 10, 11, 12, 13, 14].contains op || (op == 1 && [0, 0x40, 0x50, 0x60].contains (bits w 0 10))
    else false
  (bad || decide (fin < a + n), n)

/-- Some instruction of a body from `a` breaks R299; `fuel` bounds the parcels left. -/
def Mod.routineBad (m : Mod) (c lo fin : Nat) : Nat → Nat → Bool
  | 0, _ => false
  | fuel + 1, a =>
    if fin ≤ a then false
    else
      let x := m.routineInstrBad c a lo fin
      x.1 || m.routineBad c lo fin fuel (a + Nat.max 1 x.2)

/-- Reason 8 of R306. -/
def Mod.ruleBad8 (m : Mod) (c : Nat) (x : Rule) : Bool :=
  x.op == 2 && (decide (x.entry < 0xE000) || decide (0xEF80 < x.entry + x.rlen) ||
    m.routineBad c x.entry (x.entry + x.rlen) 64 x.entry)

/-- The rings in use with their selectors: extensions, injectors and ejectors, as Loft spans. -/
def Mod.furRings (m : Mod) (c : Nat) : List (Nat × Nat × Nat) :=
  let ring := fun (sel cfg : Nat) => (sel, ringBase cfg, ringBase cfg + ringBytes cfg)
  ((List.range 24).filter (fun i => m.inEn c i && (if 16 ≤ i ∧ i < 20 then true else bits (m.inCfg c i) 2 1 == 1))).map (fun i => ring i (m.inCfg c i)) ++
    ((List.range 4).filter (fun k => bits (m.ejCfg c k) 0 1 == 1)).map (fun k => ring (0x30 + k) (m.ejCfg c k))

/-- The first index of a list that meets a condition, as a reason and its index. -/
def reasonAt (reason : Nat) (l : List Nat) (p : Nat → Bool) : Option (Nat × Nat) := (l.find? p).map (fun i => (reason, i))

/-- An image: its Loft address, P, TMASK and bytes (R304). -/
structure Image where
  base : Nat
  p : Nat
  tmask : Nat

def Image.tilesAt (g : Image) : Nat := 0x400 + 256 * ((2 * g.p + 255) / 256)
def Image.size (g : Image) : Nat := g.tilesAt + 0x2200 * popc 8 g.tmask

/-- Read image bytes; those of a bad word are open values. -/
def Mod.rdOpen (m : Mod) (key n : Nat) : Nat × Mod :=
  if m.wordsOk key n then (m.rd key n, m)
  else (List.range n).foldl (fun (r : Nat × Mod) i =>
    if m.bad.contains ((key + i) / 8) then let x := r.2.free; (r.1 + x.1 % 256 * 256 ^ i, x.2)
    else (r.1 + m.rd (key + i) 1 * 256 ^ i, r.2)) (0, m)

/-- Copy the image into the page, program memory and tiles (R304). -/
def Mod.loadImage (m : Mod) (c : Nat) (g : Image) (ttag : Nat) : Mod :=
  let at_ := loftKey c + g.base
  let x := m.rdOpen (at_ + 0x100) 512
  let m1 := (List.range 64).foldl (fun (m : Mod) i =>
    m.commonWrite c (c / 256) (furPage c) (0x200 + 8 * i) (2 ^ 64 - 1) (bits x.1 (64 * i) 64)) x.2
  let y := m1.rdOpen (at_ + 0x300) 256
  let m2 := (List.range 128).foldl (fun (m : Mod) i => m.setParcel c (0xEF80 + i) (BitVec.ofNat 14 (bits y.1 (16 * i) 14))) y.2
  let z := m2.rdOpen (at_ + 0x400) (2 * g.p)
  let m3 := (List.range g.p).foldl (fun (m : Mod) i => m.setParcel c (0xE000 + i) (BitVec.ofNat 14 (bits z.1 (16 * i) 14))) z.2
  ((List.range 8).filter (fun t => bits g.tmask t 1 == 1)).foldl (fun (m : Mod) t =>
    let o := at_ + g.tilesAt + 0x2200 * popc t g.tmask
    let v := m.rdOpen o 0x2200
    v.2.onCore c (fun k =>
      let kr := (List.range 64).foldl (fun (k : Core) r => k.setTileRow t r (bits v.1 (1024 * r) 1024)) k
      let ks := (List.range 512).foldl (fun (k : Core) i => k.setSide t i (bits v.1 (8 * (0x2000 + i)) 8)) kr
      ks.setTag t (bits ttag (8 * t) 8 &&& 0xEF))) m3

/-- The checks of R306 that read the configuration, in order, on the candidate module. -/
def Mod.furCheck (m : Mod) (c : Nat) (img : Option Image) : Option (Nat × Nat) :=
  let valid := (List.range 16).filter (fun r => (m.rule c r).valid)
  let inLanes := (List.range 16).filter (fun i => m.inEn c i)
  let outLanes := valid.flatMap (fun r => (m.rule c r).outputs.filter isLane)
  let rings := m.furRings c
  let hits := fun (a b : Nat × Nat × Nat) => decide (a.2.1 < b.2.2) && decide (b.2.1 < a.2.2)
  match reasonAt 5 valid (fun r => m.ruleBad5 c (m.rule c r)) with
  | some x => some x
  | none => match reasonAt 6 valid (fun r => m.ruleBad6 c r) with
    | some x => some x
    | none => match reasonAt 7 inLanes (fun i => m.laneBad c (i / 4)) with
      | some x => some x
      | none => match reasonAt 7 outLanes (fun s => m.laneBad c ((s - 0x20) / 4)) with
        | some x => some x
        | none => match reasonAt 8 valid (fun r => m.ruleBad8 c (m.rule c r)) with
          | some x => some x
          | none =>
            (rings.find? (fun a => decide (0x400000 < a.2.2) || rings.any (fun b => b.1 != a.1 && hits a b) ||
              (match img with | some g => hits a (0, g.base, g.base + g.size) | none => false))).map (fun a => (9, a.1))

/-- Begin an entry (R304): ARMED clears and LOADING reads 1; in stream mode it sets ERR_STAT.BUSY instead (R306). -/
def Mod.furEnter (m : Mod) (c : Nat) : Mod :=
  let f := m.fur c
  let m1 := m.setFld (c / 256) (furPage c) 0x100 2 1 0
  if f.stream then m1.err (c / 256) (furPage c) 11 c 0 0 else m1.setFur c { f with loading := true }

/-- FURROW_ARMED_ENTRY: an armed core's counter has reached its target (R304). -/
def execFurrowArmedEntry (c : Nat) (s : State) : Ans :=
  onFurrow c s (fun m =>
    match cntOf (m.furReg c 0x118) with
    | none => m
    | some x =>
      if m.fld (c / 256) (furPage c) 0x100 2 1 = 1 ∧ (x.kind = 1 ∨ (x.kind = 0 ∧ x.die = c / 256 ∧ x.page = corePage c 6)) ∧
          m.furReg c 0x120 ≤ m.cntVal x then m.furEnter c else m)

/-- An entry that fails a check (R306). -/
def Mod.furRefuse (m : Mod) (c : Nat) (x : Nat × Nat) : Mod :=
  (m.err (c / 256) (furPage c) 8 c (x.1 + x.2 * 256) 0).furIrq c 3

/-- Set STREAM: TAKE, PUT, PERMIT and the stall counters are 0, segment 14 is executable, ENTERED is raised (R304, R306, R314). -/
def Mod.furStart (m : Mod) (c : Nat) : Mod :=
  let d := c / 256
  let p := furPage c
  let m1 := (List.range 4).foldl (fun (m : Mod) k =>
    ((m.setReg d p (0x400 + 8 * k) 0).setReg d p (0x420 + 8 * k) 0).setReg d p (0x440 + 8 * k) 0) m
  let m2 := (List.range 40).foldl (fun (m : Mod) i => m.setReg d p (0x500 + 8 * i) 0) m1
  ((m2.commonWrite c d (corePage c 0) 0x110 (2 ^ 14) (2 ^ 14)).setFur c { stream := true }).furIrq c 1

/-- FURROW_ENTRY_COMPLETE: an entry makes its checks, loads the image where IMG is 1, and sets STREAM, or is refused. -/
def execFurrowEntryComplete (c : Nat) (s : State) : Ans :=
  onFurrow c s (fun m0 =>
    let f := m0.fur c
    if !f.loading then m0
    else
      let m := m0.setFur c { f with loading := false }
      let k := m.core c
      let img := m.fld (c / 256) (furPage c) 0x100 1 1 == 1
      if k.running || k.halted then m.furRefuse c (1, 0)
      else if !k.mxq.isEmpty || !k.tmuls.isEmpty then m.furRefuse c (2, 0)
      else if img && bits (m.seg c) 30 1 == 1 then m.furRefuse c (3, 0)
      else if img then
        let base := bits (m.furReg c 0x110) 8 14 * 256
        if 0x400000 < base + 0x400 then m.furRefuse c (4, 0)
        else
          let h := m.rdOpen (loftKey c + base) 16
          let g : Image := { base := base, p := bits h.1 16 11, tmask := bits h.1 32 8 }
          let ttag := bits h.1 64 64
          let part := (List.range 8).any (fun t => bits g.tmask t 1 == 1 && bits ttag (8 * t + 5) 1 == 1)
          if h.1 % 256 ≠ 1 ∨ 1024 < g.p ∨ part ∨ 0x400000 < base + g.size then h.2.furRefuse c (4, 0)
          else
            let cand := h.2.loadImage c g ttag
            match cand.furCheck c (some g) with
            | some x => ({ h.2 with fresh := cand.fresh } : Mod).furRefuse c x
            | none => cand.furStart c
      else match m.furCheck c none with
        | some x => m.furRefuse c x
        | none => m.furStart c)

/-! ### Draining and exit (R309, R312) -/

/-- FURROW_CTRL.DRAIN. -/
def Mod.furDrain (m : Mod) (c : Nat) : Mod :=
  let f := m.fur c
  if f.stream then m.setFur c { f with drainReq := true } else m

/-- FURROW_DRAINED: the conditions of R309 hold. -/
def execFurrowDrained (c : Nat) (s : State) : Ans :=
  onFurrow c s (fun m =>
    let f := m.fur c
    let up := ((List.range 16).filter (fun i => m.inEn c i)).all (fun i =>
      match laneNeighbour c (i / 4) with | some n => (m.fur n).drained | none => true)
    if f.stream && f.drainReq && !f.drained && f.isEmpty && up then (m.setFur c { f with drained := true }).furIrq c 2 else m)

/-- Core `c` has left stream mode: neighbours in stream mode, not drained, with an enabled queue to or from it raise
PEER_LOST (R310). -/
def Mod.peerLost (m : Mod) (c : Nat) : Mod :=
  ([0, 1, 2, 3] : List Nat).foldl (fun (m : Mod) d =>
    match laneNeighbour c d with
    | none => m
    | some n =>
      let f := m.fur n
      let e := (d + 2) % 4
      let from_ := (List.range 4).any (fun q => m.inEn n (e * 4 + q))
      let into := (List.range 16).any (fun r => let x := m.rule n r; x.valid && x.outputs.any (fun s => isLane s && (s - 0x20) / 4 == e))
      if f.stream && !f.drained && (from_ || into) then m.furFault n 8 0 0 none 0 else m) m

/-- Stream mode ends: the stall counters stop (R314), the block forgets its tokens, a routine ends, and neighbours see the peer go. -/
def Mod.furLeave (m : Mod) (c : Nat) : Mod :=
  if (m.fur c).stream then
    let m0 := (List.range 40).foldl (fun (m : Mod) i => m.settleTimed (c / 256) (furPage c) (0x500 + 8 * i)) m
    let m1 := (m0.setFur c {}).onCore c Core.endRoutine
    let m2 := (List.range 4).foldl (fun (m : Mod) k => m.setReg (c / 256) (furPage c) (0x420 + 8 * k) 0) m1
    m2.peerLost c
  else m.setFur c {}

/-- FURROW_CTRL.EXIT (R312). -/
def Mod.furExit (m : Mod) (c : Nat) : Mod :=
  let f := m.fur c
  if f.stream && (f.drained || (f.sink && f.isEmpty)) then m.furLeave c else m.err (c / 256) (furPage c) 10 c 0 0

/-- A write of FURROW_CTRL: the start bits among its enabled bits act in ascending order. -/
def Mod.furCtrl (m : Mod) (c we wv : Nat) : Mod :=
  let on := fun (b : Nat) => bits we b 1 == 1 && bits wv b 1 == 1
  let m1 := if on 0 then m.furEnter c else m
  let m2 := if on 3 then m1.furDrain c else m1
  if on 4 then m2.furExit c else m2

/-! ### The entries of faults and reports, a routine's included -/

/-- A pending fault of a furrow routine becomes FURROW_FAULT (R299, R310). -/
def Mod.routineTrap (m : Mod) (c : Nat) : Mod :=
  let k := m.core c
  match k.trap with
  | none => m
  | some t =>
    if !k.settled then m
    else
      let a := if (t.cause = 4 ∨ t.cause = 6 ∨ t.cause = 3) ∧ t.sub < 3 ∧ t.addr < 0x400000 then some t.addr else none
      match t.cause with
      | 0x3F => m.routineFault c 3 0 none
      | 0x3E => m.routineFault c 2 0 none
      | 0x3D => m.routineFault c 1 0 none
      | _ => m.routineFault c 1 t.cause a

/-- FAULT_ENTRY: a precise fault of the instruction at issue is entered (R88), or makes the routine it belongs to a furrow
fault. `fetch` tells a fault of the fetch itself: (0, _) a bad program memory word, (1, parcels) an encoding that no row
names. -/
def execFaultEntry (c : Nat) (fetch : Option (Nat × Nat)) (s : State) : Ans :=
  onCpu c s (fun m =>
    let m1 := m.fetchFault c fetch
    if (m1.core c).routine.isSome then m1.routineTrap c else m1.enterFault c)

/-- REPORT_ENTRY: a report is taken (R87), or makes the routine that met it a furrow fault. -/
def execReportEntry (c : Nat) (s : State) : Ans :=
  onCpu c s (fun m =>
    let k := m.core c
    if k.routine.isSome then
      match k.reports.find? (fun y => y.cause == 6) with
      | some y => if k.settled then m.routineFault c 1 6 (if y.addr < 0x400000 then some y.addr else none) else m
      | none => m
    else m.enterReport c)

end Sys2Proof.Machine
end

