-- ==== Sys2Proof/Machine/Wain.lean ====
section
/-! DEFINITION. Wains (R265 to R287): starting and stopping, fetching, MOVE with its checks and reshuffles, LOOP, WAIT,
SIGNAL, PLANE, END and the acknowledgement of writes. -/

namespace Sys2Proof.Machine

/-- A request writes for Wain `w`. -/
def Use.ofWain (w : Nat) : Use → Bool
  | .wain x _ _ => x == w
  | _ => false

/-- Writes of a Wain still to be acknowledged; one to the host counts until the host port has sent it. -/
def Mod.wainOut (m : Mod) (w : Nat) : Bool :=
  m.net.any (fun r => r.use.ofWain w && !r.hostDone)

/-- A request, increment or message of a Wain is on its way (R286). -/
def Mod.wainAsks (m : Mod) (w : Nat) : Bool :=
  m.net.any (fun r => decide (r.use = .fetch (0x10000 + w) ∨ r.use = .gone (0x10000 + w) false)) ||
    m.incs.any (fun i => i.wain.any (fun x => x.1 == w)) ||
    m.chuteReqs.any (fun r => r.q == wainReq w && r.wain == some (wainIdx w))

/-- Release the tracker entries of those MOVEs of a Wain whose last write has been performed (R196, R274). -/
def Mod.wainFree (m : Mod) (w : Nat) : Mod :=
  match wainCore w with
  | some c => (m.core c).rt.foldl (fun (y : Mod) e =>
      match e.owner with
      | .wain i _ => if i = w % 2 ∧ y.rtLive c e.owner = false then y.onCore c (fun k => k.rtRelease e.owner) else y
      | _ => y) m
  | none => m

/-- Bring the page's status up to date: DEPTH, PLANE_PENDING, QUIESCENT, the passes that remain, the tracker entries, and the end of a
program whose writes have all been acknowledged (R196, R283, R284, R286). -/
def Mod.wainSync (m : Mod) (w : Nat) : Mod :=
  let x := m.wain w
  let d := wainDie w
  let p := wainPage w
  let out := m.wainOut w
  let m1 := m.wainFree w
  let m2 := match x.ending with
    | some st => if out then m1 else (m1.setWainState w st).setWain w { x with ending := none }
    | none => m1
  let m3 := ((m2.setFld d p 0x110 8 2 x.loops.length).setFld d p 0x110 5 1 (b2n x.plane.isSome)).setFld d p 0x110 4 1 (b2n (!out && !m.wainAsks w))
  [0, 1, 2].foldl (fun (m : Mod) l =>
    m.setReg d p (0x120 + 8 * l) (match x.loops[l]? with | some y => y.count - y.iter | none => 0)) m3

/-! ### Addresses -/

/-- A Wain address: bit 44 selects own Loft. -/
def isL (a : Nat) : Bool := bits a 44 1 == 1

/-- Move an address by a signed distance modulo 2^44, L unchanged (R272). -/
def wainAdd (a : Nat) (i : Int) : Nat := a / 2 ^ 44 * 2 ^ 44 + (((a % 2 ^ 44 : Nat) : Int) + i) % ((2 ^ 44 : Nat) : Int) |>.toNat

/-- The MPA of a Wain address, own Loft through the core's window; a Barn Wain has no Loft. -/
def wainMpa (w a : Nat) : Nat := if isL a ∧ w < 2048 then 0x40000000000 + w / 2 * 0x400000 + a % 2 ^ 44 else a % 2 ^ 44

/-- Offset in its program of the instruction that executes or is fetched next, for ERR_INFO.DETAIL (R286). -/
def Mod.wainOffset (m : Mod) (w : Nat) : Nat := ((m.wain w).next % 2 ^ 44 + 2 ^ 44 - (m.wain w).start % 2 ^ 44) % 2 ^ 44

/-- WAIN_CNT_HOLD has counted for an instruction that could wait (R286), by an open amount. -/
def Mod.wainHeld (m : Mod) (w : Nat) : Mod := m.settleTimed (wainDie w) (wainPage w) 0x150

/-- The errors that the program has met end it, and each is recorded (R23, R283): ERROR once the writes before them are acknowledged. -/
def Mod.wainFailAll (m : Mod) (w : Nat) : Mod :=
  let m1 := ((m.wain w).err.foldl (fun (y : Mod) e => y.err (wainDie w) (wainPage w) e.1 (wainReq w) e.2.2 e.2.1)
    ((m.wainHeld w).dropFetched (0x10000 + w))).irq (wainDie w) (wainPage w) 1
  (m1.setWain w { m1.wain w with instr := none, sent := false, cut := false, ending := some 6, words := [], err := [] }).wainSync w

/-- An error of the present instruction ends the program. -/
def Mod.wainFail (m : Mod) (w bit mpa : Nat) : Mod := (m.setWain w { m.wain w with err := (m.wain w).err ++ [(bit, mpa, m.wainOffset w)] }).wainFailAll w

/-- R269: a span of a task-level program must lie in one window, or in own Loft below KLOFT. Kernel level may go
anywhere. -/
def Mod.wainPerm (m : Mod) (w lo hi : Nat) : Bool :=
  match wainCore w with
  | none => true
  | some c =>
    let k := m.core c
    let mp := wainMpa w lo
    let mh := mp + (hi - lo)
    let base := 0x40000000000 + c * 0x400000
    bits (m.wreg w 0x110) 3 1 == 1 || (decide (base ≤ mp) && decide (mh < base + k.kloft)) ||
      (!isL lo && ((decide (k.wwin0Base ≤ mp) && decide (mh < k.wwin0Limit)) || (decide (k.wwin1Base ≤ mp) && decide (mh < k.wwin1Limit))))

/-! ### Start and stop -/

/-- Start a program at an address (R267). -/
def Mod.wainStart (m : Mod) (q w addr : Nat) (kernel : Bool) : Mod :=
  let d := wainDie w
  let p := wainPage w
  let gone := match wainCore w with | some c => m.coreSweep c || m.retired c | none => false
  let parked : Bool := match wainCore w with | some c => m.parked c | none => false
  if gone || !m.enabled d p then m
  else if m.wainBusy w ∨ (m.wain w).ending.isSome ∨ parked then m.err d p 16 q 0 0
  else
    let a := addr % 2 ^ 45
    let m1 := (m.setFld d p 0x110 3 1 (b2n kernel)).setWain w { start := a, next := a }
    if a % 32 ≠ 0 then
      (((m1.setWainState w 6).err d p 9 (wainReq w) 0 (wainMpa w a)).irq d p 1).wainSync w
    else (m1.setWainState w 1).wainSync w

/-! ### Reads -/

/-- A row of bytes and the mask of those that could not be read (R283). -/
structure RowBytes where
  data : Nat := 0
  bad : Nat := 0

/-- The accesses of a row by the funnel's rule (R275), or of 8 bytes in register space. -/
def funnel (reg : Bool) : Nat → Nat → Nat → List (Nat × Nat)
  | 0, _, _ => []
  | fuel + 1, a, r =>
    if r = 0 then []
    else
      let p := if reg then 8
        else if a % 64 = 0 ∧ 64 ≤ r then 64
        else ([32, 16, 8, 4, 2, 1].find? (fun p => a % p == 0 && decide (p ≤ r))).getD 1
      (a, Nat.min p r) :: funnel reg fuel (a + p) (r - p)

def cutRow (a n : Nat) : List (Nat × Nat) := funnel (isRegSpace (a % 2 ^ 44) && !isL a) n (a % 2 ^ 44) n

/-- One access of a source row: data and bad bytes, and the error it met. Own Loft is read now, and its correctable errors corrected
(R195); a far access takes the answer that has come. -/
def wainRead (w : Nat) (own : Bool) (addr n : Nat) (m : Mod) : RowBytes × Option (Nat × Nat) × Mod :=
  if own then
    let key := loftKey (w / 2) + addr
    let bad := (List.range n).foldl (fun v i => if m.bad.contains ((key + i) / 8) then v + 2 ^ i else v) 0
    ({ data := m.rd key n, bad := bad },
      if bad = 0 then none else some (14, match m.badWords key n with | b :: _ => Nat.max b key | [] => key), m.scrub key n)
  else match m.farAnswer (0x10000 + w) addr n with
    | .data v => ({ data := v }, none, m)
    | .poison => ({ bad := byteMask n }, some (14, addr), m)
    | _ => ({}, some (13, addr), m)

/-- Keep an error met by the present instruction (R283). -/
def Mod.wainNote (m : Mod) (w : Nat) (e : Option (Nat × Nat)) : Mod := m.wainNoteAt w (m.wainOffset w) e

/-- Read a whole row. -/
def wainRow (w addr n : Nat) (m : Mod) : RowBytes × Mod :=
  (cutRow addr n).foldl (fun (x : RowBytes × Mod) p =>
    let off := p.1 - addr % 2 ^ 44
    let r := wainRead w (isL addr) (p.1 % 2 ^ 44) p.2 x.2
    ({ data := x.1.data + r.1.data * 2 ^ (8 * off), bad := x.1.bad + r.1.bad * 2 ^ off }, r.2.2.wainNote w r.2.1)) ({}, m)

/-- What a stop finds of a row already read (R284): the far accesses whose data has come; every other byte counts as unread. -/
def wainGot (m : Mod) (w addr n : Nat) : RowBytes :=
  (cutRow addr n).foldl (fun (x : RowBytes) p =>
    let off := p.1 - addr % 2 ^ 44
    match (if isL addr then none else (m.fetched (0x10000 + w) (p.1 % 2 ^ 44) p.2).bind (fun r => r.answer)) with
    | some (.data v) => { x with data := x.data + v * 2 ^ (8 * off) }
    | some .err => x
    | _ => { x with bad := x.bad + byteMask p.2 * 2 ^ off }) {}

/-- The Wain's far reads among these accesses are made, and wait for their answers. -/
def Mod.wainAwait (m : Mod) (w : Nat) (l : List (Nat × Nat)) : Option Mod := m.awaitFar (0x10000 + w) (wainReq w) (wainDie w) l

/-- The accesses of the rows of a source that lie outside own Loft. -/
def rowReads (l : List (Nat × Nat)) : List (Nat × Nat) := l.flatMap (fun r => if isL r.1 then [] else cutRow r.1 r.2)

/-- A far access of a row must wait: a line that the core's write-combining buffer holds, a store of it that is unacknowledged, or an
earlier read of the core that has not begun (R214, R215, R274). -/
def Mod.wainMustWait (m : Mod) (w addr n : Nat) : Bool :=
  if isL addr then false
  else match wainCore w with
    | some c => m.lineBusy (m.core c) c (addr % 2 ^ 44) n || (m.core c).pieceAhead (addr % 2 ^ 44) n
    | none => false

/-! ### Writes -/

/-- Bytes that a Wain writes: WAIN_CNT_BYTES, event 0x19 of its core or 0x8A of its Barn, and activity of the core's watch group (R28, R245,
R286). -/
def Mod.wainBytes (m : Mod) (w n : Nat) : Mod :=
  let m1 := m.addReg (wainDie w) (wainPage w) 0x140 n
  match wainCore w with
  | some c => (m1.coreEv c 0x19 n).stir c
  | none => m1.dieEv (wainDie w) 0x8A 0 n

/-- Write one access of a destination row: own Loft at once, anything else as a request (R275). -/
def wainWrite (w : Nat) (own : Bool) (addr n data bad : Nat) (m : Mod) : Mod :=
  let mask := byteMask n - bad
  if mask = 0 then m
  else
    let m1 := m.wainBytes w (popc n mask)
    if own then
      let r := m1.loftWrite (loftKey (w / 2) + addr) n mask data
      (match r.2 with | b :: _ => r.1.wainNote w (some (14, b)) | [] => r.1)
    else m1.post (.wain w (m.wainOffset w) (m.wain w).move) (wainReq w) (wainDie w) addr n (.write mask data)

/-- Write a row. -/
def wainPut (w addr n : Nat) (x : RowBytes) (m : Mod) : Mod :=
  (cutRow addr n).foldl (fun (m : Mod) p =>
    let off := p.1 - addr % 2 ^ 44
    wainWrite w (isL addr) (p.1 % 2 ^ 44) p.2 (bits x.data (8 * off) (8 * p.2)) (bits x.bad off p.2) m) m

/-- Post the accumulating writes of a row (R357): one for each unit the funnel cuts. -/
def wainAccum (w addr n : Nat) (exact : Bool) (ty : Nat) (x : RowBytes) (m : Mod) : Mod :=
  (cutRow addr n).foldl (fun (m : Mod) p =>
    let off := p.1 - addr % 2 ^ 44
    let mask := byteMask p.2 - bits x.bad off p.2
    let data := bits x.data (8 * off) (8 * p.2)
    let m1 := m.wainBytes w p.2
    m1.post (.wain w (m.wainOffset w) (m.wain w).move) (wainReq w) (wainDie w) (p.1 % 2 ^ 44) p.2 (if exact then .accExact mask data ty else .accFast mask data ty)) m

/-! ### MOVE (R271 to R274) -/

/-- The fields of a MOVE. -/
structure MoveF where
  src : Nat
  dst : Nat
  len : Nat
  n1 : Nat
  n2 : Nat
  ss1 : Int
  ds1 : Int
  ss2 : Int
  ds2 : Int

def moveOf (v : Nat) : MoveF :=
  { src := bits v 207 45, dst := bits v 162 45, len := bits v 144 18, n1 := bits v 128 16, n2 := bits v 112 16
    ss1 := sext 28 (bits v 84 28), ds1 := sext 28 (bits v 56 28), ss2 := sext 28 (bits v 28 28), ds2 := sext 28 (bits v 0 28) }

/-- The fields of a PLANE (R280). -/
structure PlaneF where
  kind : Nat
  pack : Bool
  pm1 : Nat
  w : Nat
  align : Bool
  exact : Bool
  atype : Nat
  pstride : Int
  coff : Int

def planeOf (v : Nat) : PlaneF :=
  { kind := bits v 248 4, pack := bits v 247 1 == 1, pm1 := bits v 244 3, w := bits v 242 2, align := bits v 241 1 == 1
    exact := bits v 240 1 == 1, atype := bits v 238 2, pstride := sext 40 (bits v 192 40), coff := sext 40 (bits v 152 40) }

/-- Sample bits, container bytes, and the shift of a sample in its container. -/
def PlaneF.bits (p : PlaneF) : Nat := match p.w with | 0 => 8 | 1 => 10 | 2 => 12 | _ => 16
def PlaneF.cb (p : PlaneF) : Nat := if p.w = 0 then 1 else 2
def PlaneF.shift (p : PlaneF) : Nat := if p.w ≠ 0 ∧ p.align then 16 - p.bits else 0

/-- A PLANE's fields lie outside its kind's columns (R281). -/
def PlaneF.bad (p : PlaneF) : Bool :=
  match p.kind with
  | 0 => p.pm1 != 0 || p.w != 0
  | 1 => decide (3 < p.pm1)
  | 2 => !(p.pm1 == 2 || p.pm1 == 3) || !(p.w == 0 || p.w == 3)
  | 3 => p.pm1 != 2 || p.w != 1
  | 4 => p.pm1 != 2 || !(p.w == 0 || p.w == 3)
  | 5 => p.w != 0
  | 6 => p.pm1 != 0 || p.w != 0 || p.atype == 3
  | _ => true

/-- Where a destination bit comes from: a constant, or bit `i` of source row `r`. -/
inductive BitSrc where
  | const (b : Bool)
  | at (r i : Nat)

/-- One group of rows of a MOVE: source rows, and destination rows with the origin of each of their bits; `none` for a
copy of source row 0. -/
structure RowGroup where
  srcs : List (Nat × Nat)
  dsts : List (Nat × Nat × Option (Nat → BitSrc))

/-- Distances from the open loop levels (R272). -/
def loopStep (l : List WainLoop) (dst : Bool) : Int := l.foldl (fun s x => s + (x.iter : Int) * (if dst then x.dstep else x.sstep)) 0

/-- Source and destination row starts. -/
def srcRow (f : MoveF) (l : List WainLoop) (i1 i2 : Nat) : Nat :=
  wainAdd f.src ((i1 : Int) * f.ss1 + (i2 : Int) * f.ss2 + loopStep l false)
def dstRow (f : MoveF) (l : List WainLoop) (i1 i2 : Nat) : Nat :=
  wainAdd f.dst ((i1 : Int) * f.ds1 + (i2 : Int) * f.ds2 + loopStep l true)

/-- Where plane (1 or 2) and index of YUV422_10 lie: word and slot in their group of four words (R282). -/
def yuvTable : List (List (Nat × Nat)) :=
  [[(1, 0), (0, 0), (2, 0)], [(0, 1), (1, 1), (0, 2)], [(2, 1), (0, 3), (1, 2)], [(0, 4), (2, 2), (0, 5)]]

def yuvPos (plane idx : Nat) : Nat :=
  ((List.range 12).find? (fun n => decide ((yuvTable.getD (n / 3) []).getD (n % 3) (9, 9) = (plane, idx)))).getD 0

/-- Bits of a planar container at sample `s` (a bit position in the packed row), and of none. -/
def unpackBit (p : PlaneF) (pos : Nat → Nat) (b : Nat) : BitSrc :=
  let cw := 8 * p.cb
  let r := b % cw
  if p.shift ≤ r ∧ r < p.shift + p.bits then .at 0 (pos (b / cw) + (r - p.shift)) else .const false

/-- The groups of one (i1, i2) of a reshuffled MOVE. -/
def planeGroups (p : PlaneF) (f : MoveF) (l : List WainLoop) (i1 i2 : Nat) : List RowGroup :=
  let packed := if p.pack then dstRow f l i1 i2 else srcRow f l i1 i2
  let planar := if p.pack then srcRow f l i1 i2 else dstRow f l i1 i2
  let base := if p.pack then wainAdd f.src (loopStep l false) else wainAdd f.dst (loopStep l true)
  let s1 := if p.pack then f.ss1 else f.ds1
  let s2 := if p.pack then f.ss2 else f.ds2
  let plane := fun (k : Nat) => wainAdd planar ((k : Int) * p.pstride)
  let half := fun (k : Nat) => wainAdd base ((k : Int) * p.pstride + (i1 : Int) * (s1 / 2) + (i2 : Int) * (s2 / 2))
  let cw := 8 * p.cb
  match p.kind with
  | 1 =>
    let n := p.pm1 + 1
    let px := f.len * 8 / (n * p.bits)
    let rows := (List.range n).map (fun k => (plane k, px * p.cb))
    if p.pack then [RowGroup.mk rows [(packed, f.len, some (fun b =>
        let s := b / p.bits
        .at (s % n) (s / n * cw + p.shift + b % p.bits)))]]
    else [RowGroup.mk [(packed, f.len)] (rows.zipIdx.map (fun r => (r.1.1, r.1.2, some (unpackBit p (fun x => (x * n + r.2) * p.bits)))))]
  | 2 =>
    let px := f.len / (4 * p.cb)
    let rows := (List.range (p.pm1 + 1)).map (fun k => (plane k, px * p.cb))
    if p.pack then [RowGroup.mk rows [(packed, f.len, some (fun b =>
        let s := b / cw
        if s % 4 ≤ p.pm1 then .at (s % 4) (s / 4 * cw + b % cw) else .const true))]]
    else [RowGroup.mk [(packed, f.len)] (rows.zipIdx.map (fun r => (r.1.1, r.1.2, some (unpackBit p (fun x => (x * 4 + r.2) * cw)))))]
  | 3 =>
    let g := f.len / 16
    let rows := [(planar, g * 12), (half 1, g * 6), (half 2, g * 6)]
    if p.pack then [RowGroup.mk rows [(packed, f.len, some (fun b =>
        let r := b % 32
        if 30 ≤ r then .const false
        else
          let t := (yuvTable.getD (b % 128 / 32) []).getD (r / 10) (0, 0)
          .at t.1 ((b / 128 * (if t.1 = 0 then 6 else 3) + t.2) * 16 + p.shift + r % 10)))]]
    else [RowGroup.mk [(packed, f.len)] (rows.zipIdx.map (fun r =>
        let n := if r.2 = 0 then 6 else 3
        (r.1.1, r.1.2, some (unpackBit p (fun x =>
          let q := yuvPos r.2 (x % n)
          x / n * 128 + q / 3 * 32 + q % 3 * 10)))))]
  | 4 =>
    let luma := RowGroup.mk [(srcRow f l i1 i2, f.len)] [(dstRow f l i1 i2, f.len, none)]
    if i1 < f.n1 / 2 then
      let ch := wainAdd packed p.coff
      let rows := [(half 1, f.len / 2), (half 2, f.len / 2)]
      [luma, if p.pack then RowGroup.mk rows [(ch, f.len, some (fun b => .at (b / cw % 2) (b / cw / 2 * cw + b % cw)))]
        else RowGroup.mk [(ch, f.len)] (rows.zipIdx.map (fun r =>
          (r.1.1, r.1.2, some (fun b => .at 0 ((b / cw * 2 + r.2) * cw + b % cw)))))]
    else [luma]
  | 5 =>
    let n := p.pm1 + 1
    let rows := (List.range n).map (fun k => (plane k, f.len / 8))
    if p.pack then [RowGroup.mk rows [(packed, f.len, some (fun b => if b % 8 < n then .at (b % 8) (b / 8) else .const false))]]
    else [RowGroup.mk [(packed, f.len)] (rows.zipIdx.map (fun r => (r.1.1, r.1.2, some (fun b => .at 0 (8 * b + r.2)))))]
  | 6 =>
    let wide := p.exact && p.atype == 1
    [RowGroup.mk [(srcRow f l i1 i2, f.len)] [(dstRow f l i1 i2, if wide then 2 * f.len else f.len,
      if wide then some (fun b => if b % 32 < 16 then .const false else .at 0 (b / 32 * 16 + b % 32 - 16)) else none)]]
  | _ => [RowGroup.mk [(srcRow f l i1 i2, f.len)] [(dstRow f l i1 i2, f.len, none)]]

/-- Every group of a MOVE, in row order (R272). -/
def moveGroups (p : PlaneF) (f : MoveF) (l : List WainLoop) : List RowGroup :=
  (List.range f.n2).flatMap (fun i2 => (List.range f.n1).flatMap (fun i1 => planeGroups p f l i1 i2))

/-- Lowest and highest byte of a row; a row that passes the top of its address field goes on at 0 (R272). -/
def rowExtent (r : Nat × Nat) : Nat × Nat :=
  if r.1 % 2 ^ 44 + r.2 ≤ 2 ^ 44 then (r.1, r.1 + r.2 - 1) else (r.1 / 2 ^ 44 * 2 ^ 44, r.1 / 2 ^ 44 * 2 ^ 44 + (2 ^ 44 - 1))

/-- Lowest and highest byte of a list of rows. -/
def extentOf (l : List (Nat × Nat)) : Option (Nat × Nat) :=
  l.foldl (fun o r => if r.2 = 0 then o else match o with
    | none => some (rowExtent r)
    | some x => some (Nat.min x.1 (rowExtent r).1, Nat.max x.2 (rowExtent r).2)) none

/-- MOVE constraints of a kind (R281). -/
def PlaneF.broken (p : PlaneF) (f : MoveF) (planar : List (Nat × Nat)) : Bool :=
  let s1 := if p.pack then f.ss1 else f.ds1
  let s2 := if p.pack then f.ss2 else f.ds2
  let odd := fun (i : Int) => decide (i % 2 ≠ 0)
  let placed := planar.all (fun r => r.1 % p.cb == 0)
  let el := if p.atype = 1 then 2 else 4
  match p.kind with
  | 1 => f.len * 8 % ((p.pm1 + 1) * p.bits) != 0 || !placed
  | 2 => f.len % (4 * p.cb) != 0 || !placed
  | 3 => f.len % 16 != 0 || odd s1 || odd s2 || !placed
  | 4 => f.n1 % 2 != 0 || f.n2 != 1 || f.len % (2 * p.cb) != 0 || odd s1 || odd s2 || !placed
  | 5 => f.len % 8 != 0
  | 6 =>
    f.len % el != 0 || f.dst % el != 0 || decide (f.ss1 % el ≠ 0) || decide (f.ss2 % el ≠ 0) || decide (f.ds1 % el ≠ 0) ||
      decide (f.ds2 % el ≠ 0) || (p.exact && (f.dst % 4 != 0 || decide (f.ds1 % 4 ≠ 0) || decide (f.ds2 % 4 ≠ 0))) ||
      p.pack || planar.any (fun r => isL r.1 || decide (0x8000000000 < r.1 % 2 ^ 44 + r.2) || r.1 % (if p.exact then 4 else el) != 0)
  | _ => false

/-- ADDR of R273 for one extent: own Loft past its end, a Barn Wain with L, register space with an address, stride or LEN off 8 bytes. The
distance between planes is a stride too, and so a row that a reshuffle makes off 8 bytes counts (DEDUCED, log entry 110). -/
def extentAddr (w : Nat) (x : Nat × Nat) (rows : List (Nat × Nat)) (strides : List Int) (len : Nat) : Bool :=
  (isL x.1 && (decide (2048 ≤ w) || decide (2 ^ 44 + 0x400000 ≤ x.2))) ||
    (!isL x.1 && decide (x.1 < 0x60000000000) && decide (0x50000000000 ≤ x.2) &&
      (len % 8 != 0 || strides.any (fun i => decide (i % 8 ≠ 0)) || rows.any (fun r => r.1 % 8 != 0 || r.2 % 8 != 0)))

/-- The checks of R273 in order: the ERR_STAT bit and the address of the first failing byte. -/
def moveCheck (m : Mod) (w : Nat) (p : PlaneF) (f : MoveF) (ext : (Nat × Nat) × (Nat × Nat)) (srcs dsts : List (Nat × Nat)) : Option (Nat × Nat) :=
  let top := 2 ^ 44 + 0x400000
  let planes := fun (on : Bool) => if on && p.kind != 0 && p.kind != 6 then [p.pstride] else []
  let planar := if p.pack ∧ p.kind ≠ 6 then srcs else dsts
  if extentAddr w ext.1 srcs ([f.ss1, f.ss2] ++ planes p.pack) f.len then
    some (9, if isL ext.1.1 ∧ w < 2048 then wainMpa w (Nat.max ext.1.1 top) else ext.1.1 % 2 ^ 44)
  else if extentAddr w ext.2 dsts ([f.ds1, f.ds2] ++ planes (!p.pack)) f.len then
    some (9, if isL ext.2.1 ∧ w < 2048 then wainMpa w (Nat.max ext.2.1 top) else ext.2.1 % 2 ^ 44)
  else if p.broken f planar then some (9, wainMpa w f.dst)
  else if !m.wainPerm w ext.1.1 ext.1.2 then some (10, wainMpa w ext.1.1)
  else if !m.wainPerm w ext.2.1 ext.2.2 then some (10, wainMpa w ext.2.1)
  else if wainMpa w ext.1.1 ≤ wainMpa w ext.2.2 ∧ wainMpa w ext.2.1 ≤ wainMpa w ext.1.2 then
    some (11, Nat.max (wainMpa w ext.1.1) (wainMpa w ext.2.1))
  else none

/-- A destination row from its source rows: a byte with any bit from a bad byte is not written. -/
def buildRow (srcs : List RowBytes) (n : Nat) (g : Option (Nat → BitSrc)) : RowBytes :=
  match g with
  | none => srcs.headD {}
  | some g =>
    let row := fun (r : Nat) => srcs.getD r {}
    (List.range n).foldl (fun (x : RowBytes) j =>
      let v := (List.range 8).foldl (fun v b => match g (8 * j + b) with
        | .const t => v + b2n t * 2 ^ b
        | .at r i => v + bits (row r).data i 1 * 2 ^ b) 0
      let bad := (List.range 8).any (fun b => match g (8 * j + b) with
        | .const _ => false
        | .at r i => bits (row r).bad (i / 8) 1 == 1)
      { data := x.data + v * 2 ^ (8 * j), bad := x.bad + b2n bad * 2 ^ j }) {}

/-- Write the destination rows of a group from its source rows. -/
def groupPut (w : Nat) (p : PlaneF) (g : RowGroup) (rows : List RowBytes) (m : Mod) : Mod :=
  g.dsts.foldl (fun (m : Mod) d =>
    let row := buildRow rows d.2.1 d.2.2
    if p.kind = 6 then wainAccum w d.1 d.2.1 p.exact p.atype row m else wainPut w d.1 d.2.1 row m) m

/-- Move one group. -/
def moveGroup (w : Nat) (p : PlaneF) (m : Mod) (g : RowGroup) : Mod :=
  let r := g.srcs.foldl (fun (x : List RowBytes × Mod) s => let y := wainRow w s.1 s.2 x.2; (x.1 ++ [y.1], y.2)) ([], m)
  groupPut w p g r.1 r.2

/-- The PLANE that the next MOVE takes. -/
def Wain.planeF (x : Wain) : PlaneF := match x.plane with | some v => planeOf v | none => planeOf 0

/-- What a stop writes of a MOVE that has begun: the data already read (R284). -/
def Mod.moveStop (m : Mod) (w : Nat) : Mod :=
  let x := m.wain w
  match x.instr with
  | some v =>
    if bits v 252 4 = 1 ∧ x.sent = true then
      (moveGroups x.planeF (moveOf v) x.loops).foldl (fun (y : Mod) g => groupPut w x.planeF g (g.srcs.map (fun s => wainGot m w s.1 s.2)) y) m
    else m
  | none => m

/-- Stop a program (R284): STOPPED once its writes are acknowledged; what it asks for is withdrawn, its reservation too. -/
def Mod.wainStop (m : Mod) (w : Nat) : Mod :=
  if !m.wainBusy w then m
  else
    let me := holderCode (wainReq w) (some (wainIdx w))
    let m0 := (m.moveStop w).wainHeld w
    let m1 := { m0.dropFetched (0x10000 + w) with
      rsv := m0.rsv.filter (fun e => e.2 != me)
      chuteReqs := m0.chuteReqs.filter (fun r => !(r.q == wainReq w && r.wain == some (wainIdx w))) }
    let x := m1.wain w
    (m1.setWain w { x with instr := none, sent := false, cut := false, words := []
                           ending := match x.ending with | some e => some e | none => some 5 }).wainSync w

/-- WGO_START: MTS to WGO_w (R268) with STOP 0. -/
def wgoBody (c : Nat) (f : SysF) (stop : Bool) (m : Mod) (k : Core) : Res :=
  let w := c * 2 + f.imm.toNat % 2
  let v := (k.gr f.a.toNat).toNat
  .ok (if stop then m.wainStop w else m.wainStart c w (v % 2 ^ 45) k.cs.level)

/-- An MTS of WGO_w by the value of g[a]: bit 63 is STOP. -/
def wgoMts (c : Nat) (f : SysF) (m : Mod) (k : Core) : Res := wgoBody c f (bits (k.gr f.a.toNat).toNat 63 1 == 1) m k

/-! ### Control -/

/-- The address of instruction `i` of the program. -/
def wainAt (x : Wain) (i : Nat) : Nat := wainAdd x.start ((32 * i : Nat) : Int)

/-- Continue after instruction `i`, closing and repeating the loop levels whose body ends there, innermost first
(`loops` innermost first): the levels, and the next instruction. -/
def loopNext : List WainLoop → Nat → List WainLoop × Nat
  | [], i => ([], i + 1)
  | l :: t, i =>
    if i = l.at_ + l.body then
      if l.iter + 1 < l.count then ({ l with iter := l.iter + 1 } :: t, l.at_ + 1) else loopNext t i
    else (l :: t, i + 1)

/-- The instruction now executing, by its index. -/
def Mod.wainPcIdx (m : Mod) (w : Nat) : Nat := m.wainOffset w / 32

/-- Finish the current instruction, index `i`, and go on. -/
def Mod.wainNext (m : Mod) (w i : Nat) : Mod :=
  let x := m.wain w
  let r := loopNext x.loops.reverse i
  let m1 := (m.dropFetched (0x10000 + w)).setWain w
    { x with instr := none, sent := false, cut := false, words := [], loops := r.1.reverse, next := wainAt x r.2 }
  ((match wainCore w with | some c => m1.stir c | none => m1).setWainState w 1).wainSync w

/-- Fields marked 0, reserved opcodes and PLANE fields that set ILLEGAL (R270, R280, R281). -/
def wainIllegal (v : Nat) : Bool :=
  match bits v 252 4 with
  | 0 => bits v 0 251 != 0
  | 1 => false
  | 2 => bits v 250 2 != 0 || bits v 0 130 != 0
  | 3 => bits v 240 11 != 0 || bits v 0 144 != 0 ||
      (bits v 251 1 == 1 && (bits v 205 3 != 0 || bits v 144 48 != 0))
  | 4 => bits v 240 10 != 0 || (if bits v 251 1 = 0 then bits v 0 176 != 0 else bits v 0 160 != 0)
  | 5 => bits v 232 6 != 0 || bits v 0 152 != 0 || (planeOf v).bad
  | _ => true

/-- WAIN_FETCH: the next instruction is fetched at a boundary, where a pending error is taken instead (R270, R283). -/
def execWainFetch (w : Nat) (s : State) : Ans :=
  if !isWain w then .fault (.noSuchAgent w)
  else
    let m := s.mod
    let x := m.wain w
    if m.wainState w ≠ 1 ∨ x.instr.isSome ∨ x.ending.isSome then .next s
    else
      let pc := x.next
      .next { s with mod :=
        match x.err with
        | _ :: _ => m.wainFailAll w
        | [] =>
          if isL pc ∧ (2048 ≤ w ∨ 0x400000 < pc % 2 ^ 44 + 32) then m.wainFail w 9 (wainMpa w pc)
          else if !m.wainPerm w pc (pc + 31) then m.wainFail w 10 (wainMpa w pc)
          else if m.wainMustWait w pc 32 then m
          else match m.wainAwait w (if isL pc then [] else [(pc % 2 ^ 44, 32)]) with
            | some m1 => m1
            | none =>
              let r := wainRead w (isL pc) (pc % 2 ^ 44) 32 m
              match r.2.1 with
              | some e => r.2.2.wainFail w e.1 e.2
              | none =>
                if wainIllegal r.1.data then r.2.2.wainFail w 8 (wainMpa w pc)
                else ((r.2.2.dropFetched (0x10000 + w)).setReg (wainDie w) (wainPage w) 0x118 pc).setWain w { r.2.2.wain w with instr := some r.1.data } }

/-- Run the fetched instruction of Wain `w` when its opcode is `op`: an error pending at the boundary comes first, unless the instruction
has begun. -/
def wainRun (w op : Nat) (s : State) (body : Mod → Wain → Nat → Mod) : Ans :=
  if !isWain w then .fault (.noSuchAgent w)
  else
    let m := s.mod
    let x := m.wain w
    match x.instr with
    | none => .next s
    | some v =>
      if bits v 252 4 ≠ op ∨ m.wainState w ≠ 1 ∨ x.ending.isSome then .next s
      else if !x.err.isEmpty && !x.sent then .next { s with mod := m.wainFailAll w }
      else .next { s with mod := body m x v }

/-- A MOVE ends: it counts, and its PLANE lapses (R272, R280). -/
def Mod.moveDone (m : Mod) (w : Nat) : Mod :=
  (((m.wainHeld w).addReg (wainDie w) (wainPage w) 0x148 1).setWain w { m.wain w with plane := none, sent := false }).wainNext w (m.wainPcIdx w)

/-- A MOVE takes its number, and a core Wain's its two range tracker entries once two are free (R196, R274); none while it waits for them. -/
def Mod.moveEntries (m : Mod) (w : Nat) (es ed : Nat × Nat) : Option Mod :=
  let x := m.wain w
  if x.sent then some m
  else
    let begun := fun (m : Mod) => { (m.setWain w { m.wain w with sent := true, move := m.nextId }) with nextId := m.nextId + 1 }
    match wainCore w with
    | none => some (begun m)
    | some c =>
      if 16 < (m.core c).rt.length + 2 then none
      else
        let e := fun (x : Nat × Nat) (wr : Bool) =>
          let r := rtRange c (!isL x.1) (x.1 % 2 ^ 44) (x.2 - x.1 + 1)
          RtEntry.mk (.wain (w % 2) m.nextId) r.1 r.2.1 r.2.2 wr false
        some ((begun m).onCore c (fun k => { k with rt := k.rt ++ [e es false, e ed true] }))

/-- A MOVE that has taken its entries waits: for earlier entries of the tracker that conflict, for writes of earlier MOVEs of its program to
bytes of its extents, and for lines of the write-combining buffer (R197, R215, R274). -/
def Mod.moveWaits (m : Mod) (w : Nat) (es ed : Nat × Nat) (rows : List (Nat × Nat)) : Bool :=
  let mine := RtOwner.wain (w % 2) (m.wain w).move
  (match wainCore w with
    | some c =>
      let k := m.core c
      (k.rt.takeWhile (fun e => e.owner != mine)).any (fun e => (k.rt.filter (fun y => y.owner == mine)).any (fun y => e.conflicts c y))
    | none => false) ||
  m.net.any (fun r => r.use.ofWain w && r.resp.isNone &&
    ((!isL es.1 && decide (r.mpa ≤ es.2) && decide (es.1 < r.mpa + r.len)) || (!isL ed.1 && decide (r.mpa ≤ ed.2) && decide (ed.1 < r.mpa + r.len)))) ||
  rows.any (fun r => m.wainMustWait w r.1 r.2)

/-- WAIN_MOVE (R271 to R275, R281, R282): the checks, the tracker entries, the waits, the far reads as requests of their own, and, once every
far read has its answer, the rows in order. A reshuffle whose LEN leaves no planar byte breaks its constraint on LEN. -/
def execWainMove (w : Nat) (s : State) : Ans :=
  wainRun w 1 s (fun m x v =>
    let f := moveOf v
    let p := x.planeF
    if f.len = 0 ∨ f.n1 = 0 ∨ f.n2 = 0 then m.moveDone w
    else
      let gs := moveGroups p f x.loops
      let srcs := gs.flatMap (fun g => g.srcs)
      let dsts := gs.flatMap (fun g => g.dsts.map (fun d => (d.1, d.2.1)))
      match extentOf srcs, extentOf dsts with
      | some es, some ed =>
        match (if x.sent then none else moveCheck m w p f (es, ed) srcs dsts) with
        | some e => m.wainFail w e.1 e.2
        | none =>
          match m.moveEntries w es ed with
          | none => m
          | some m1 =>
            if m1.moveWaits w es ed (srcs ++ dsts) then m1
            else match m1.wainAwait w (rowReads srcs) with
              | some m2 => m2
              | none => (gs.foldl (moveGroup w p) m1).moveDone w
      | _, _ => m.wainFail w 9 (wainMpa w f.dst))

/-- WAIN_LOOP (R276, R277). -/
def execWainLoop (w : Nat) (s : State) : Ans :=
  wainRun w 2 s (fun m x v =>
    let count := bits v 218 32
    let body := bits v 210 8
    let i := m.wainPcIdx w
    let beyond := (match x.loops.reverse with | l :: _ => decide (l.at_ + l.body < i + body) | [] => false)
    if body = 0 ∨ beyond = true ∨ (count ≠ 0 ∧ 3 ≤ x.loops.length) then m.wainFail w 12 (wainMpa w x.next)
    else if count = 0 then m.wainNext w (i + body)
    else
      let l := WainLoop.mk i body count 0 (sext 40 (bits v 170 40)) (sext 40 (bits v 130 40))
      ((match wainCore w with | some c => m.stir c | none => m).setWain w { x with instr := none, loops := x.loops ++ [l], next := wainAt x (i + 1) }).wainSync w)

/-- A Wain may wait on a counter (R278). -/
def Mod.wainMayWait (m : Mod) (w : Nat) (x : Cnt) : Bool :=
  match wainCore w with
  | some c => m.waitAllowed x c
  | none => x.kind == 2

/-- The position a die's cadence unit last entered: FRAME_NUM[31:0] and LINE (R278, R376). -/
def Mod.cadPos (m : Mod) (die : Nat) : Option (Nat × Nat) :=
  if SMap.get 0 m.unitLpf die ≠ 0 then some (m.reg die (cadPage die) 0x148 % 2 ^ 32, m.fld die (cadPage die) 0x150 0 13) else none

/-- Evaluate a WAIT: it ends in an error, holds, or is met (R278). -/
inductive WaitRes where
  | fail (bit mpa : Nat)
  | hold
  | met

def wainWait (m : Mod) (w v : Nat) : WaitRes :=
  if bits v 251 1 = 0 then
    match cntOf (bits v 208 32) with
    | none => .fail 15 0
    | some x =>
      if !m.wainMayWait w x then .fail 15 x.mpa
      else if m.routeCut (wainDie w) x.die x.mpa then .fail 14 x.mpa
      else if bits v 144 64 ≤ m.cntVal x then .met else .hold
  else
    match m.cadPos (wainDie w) with
    | none => .hold
    | some (fr, line) =>
      let d := sext 32 (fr + 2 ^ 32 - bits v 208 32)
      if 0 < d ∨ (d = 0 ∧ bits v 192 13 ≤ line) then .met else .hold

/-- A WAIT met at issue, or held in its state; one whose route to its comparator has been cut meanwhile ends with poison. -/
def wainWaitRun (w st : Nat) (m : Mod) (v : Nat) : Mod :=
  match (if (m.wain w).cut then .fail 14 ((cntOf (bits v 208 32)).map Cnt.mpa |>.getD 0) else wainWait m w v) with
  | .fail b a =>
    let m1 := match (if st = 2 ∧ b = 15 then cntOf (bits v 208 32) else none) with | some x => m.cntDenied x (wainReq w) | none => m
    m1.wainFail w b a
  | .hold => m.setWainState w st
  | .met => (m.wainHeld w).wainNext w (m.wainPcIdx w)

/-- WAIN_WAIT_COUNTER. -/
def execWainWaitCounter (w : Nat) (s : State) : Ans :=
  wainRun w 3 s (fun m _ v => if bits v 251 1 = 0 then wainWaitRun w 2 m v else m)

/-- WAIN_WAIT_CADENCE. -/
def execWainWaitCadence (w : Nat) (s : State) : Ans :=
  wainRun w 3 s (fun m _ v => if bits v 251 1 = 1 then wainWaitRun w 3 m v else m)

/-- WAIN_WAIT_COMPLETE: the condition of a held WAIT holds, and the program goes on. -/
def execWainWaitComplete (w : Nat) (s : State) : Ans :=
  if !isWain w then .fault (.noSuchAgent w)
  else
    let m := s.mod
    match (m.wain w).instr with
    | some v =>
      if (m.wainState w = 2 ∨ m.wainState w = 3) ∧ (m.wain w).ending.isNone then .next { s with mod := wainWaitRun w (m.wainState w) m v }
      else .next s
    | none => .next s

/-- WAIN_SIGNAL_COUNTER (R279): with VIS it waits for every write's acknowledgement; the increment then sets out. -/
def execWainSignalCounter (w : Nat) (s : State) : Ans :=
  wainRun w 4 s (fun m _ v =>
    if bits v 251 1 = 1 ∨ (bits v 250 1 = 1 ∧ m.wainOut w) then m
    else match cntOf (bits v 208 32) with
      | none => m.wainFail w 15 0
      | some x =>
        if !m.incAllowed x (wainReq w) then (m.cntDenied x (wainReq w)).wainFail w 15 x.mpa
        else if m.cntGone x then m.wainFail w 15 x.mpa
        else if m.routeCut (wainDie w) x.die x.mpa then m.wainFail w 14 x.mpa
        else (m.putInc x (bits v 208 32) (bits v 176 32) (wainReq w) (wainDie w) none .msg (some (w, m.wainOffset w))).wainNext w (m.wainPcIdx w))

/-- A Wain's message sets out for its chute (R253, R279), with its words kept for another presentation. -/
def wainPresent (w dest : Nat) (words : List Nat) (m : Mod) : Mod :=
  let m1 := m.postChute (m.newChuteReq (wainReq w) (wainDie w) (some (wainIdx w)) none dest words false)
  (m1.setWain w { m1.wain w with words := words, sent := true }).wainSync w

/-- The response to a Wain's message has come back (R255, R259, R279): accepted, full (BLOCKED), refused, or lost to a cut route or a flit
error. -/
def wainAnswered (w dest : Nat) (m : Mod) : Mod :=
  match m.chuteReqs.find? (fun r => r.q == wainReq w && r.wain == some (wainIdx w) && r.resp.isSome && r.path.arrived) with
  | none => m
  | some r =>
    let m1 := ({ m with chuteReqs := m.chuteReqs.filter (fun x => !(x.q == wainReq w && x.wain == some (wainIdx w))) } : Mod).flitSeen
      r.path.flit r.path.firstStop r.q 0
    let mpa := match destOf dest with | some (c, ch) => chuteMpa c ch | none => 0
    match (if r.path.flit = .uncorrectable then some 3 else r.resp) with
    | some 1 => (m1.wainHeld w).wainNext w (m.wainPcIdx w)
    | some 0 => ((m1.setWain w { m1.wain w with sent := false }).setWainState w 4).wainSync w
    | some 3 => m1.wainFail w 14 mpa
    | _ => m1.wainFail w 15 mpa

/-- The words of a message at a Wain address, in 16-byte words: the words, and the first error met. -/
def wainWords (w addr : Nat) : Nat → Mod → List Nat × Option (Nat × Nat) × Mod
  | 0, m => ([], none, m)
  | n + 1, m =>
    let r := wainRead w (isL addr) (addr % 2 ^ 44) 16 m
    let t := wainWords w (wainAdd addr 16) n r.2.2
    (r.1.data :: t.1, (match r.2.1 with | some e => some e | none => t.2.1), t.2.2)

/-- WAIN_SIGNAL_MESSAGE (R279): the words are read and the message sets out; once it is on its way, the response to it is taken. -/
def execWainSignalMessage (w : Nat) (s : State) : Ans :=
  wainRun w 4 s (fun m x v =>
    let n := bits v 205 3 + 1
    let msg := bits v 160 45
    if bits v 251 1 = 0 then m
    else if x.sent then wainAnswered w (bits v 208 32) m
    else if bits v 250 1 = 1 ∧ m.wainOut w then m
    else if msg % 16 ≠ 0 ∨ (isL msg ∧ (2048 ≤ w ∨ 0x400000 < msg % 2 ^ 44 + 16 * n)) then m.wainFail w 9 (wainMpa w msg)
    else if !m.wainPerm w msg (msg + 16 * n - 1) then m.wainFail w 10 (wainMpa w msg)
    else if m.wainMustWait w msg (16 * n) then m
    else match m.wainAwait w (if isL msg then [] else (List.range n).map (fun i => ((msg + 16 * i) % 2 ^ 44, 16))) with
      | some m1 => m1
      | none =>
        let r := wainWords w msg n m
        match r.2.1 with
        | some e => r.2.2.wainFail w e.1 e.2
        | none => wainPresent w (bits v 208 32) r.1 (r.2.2.dropFetched (0x10000 + w)))

/-- WAIN_SIGNAL_RETRY: a BLOCKED Wain presents its message again, or takes the response to it. -/
def execWainSignalRetry (w : Nat) (s : State) : Ans :=
  if !isWain w then .fault (.noSuchAgent w)
  else
    let m := s.mod
    let x := m.wain w
    match x.instr with
    | some v =>
      if m.wainState w = 4 ∧ x.ending.isNone then
        .next { s with mod := if x.sent then wainAnswered w (bits v 208 32) m else wainPresent w (bits v 208 32) x.words m }
      else .next s
    | none => .next s

/-- WAIN_PLANE: the reshuffle of the next MOVE (R280). -/
def execWainPlane (w : Nat) (s : State) : Ans :=
  wainRun w 5 s (fun m x v => (m.setWain w { x with plane := some v }).wainNext w (m.wainPcIdx w))

/-- WAIN_END: once every write is acknowledged the program is DONE (R285). -/
def execWainEnd (w : Nat) (s : State) : Ans :=
  wainRun w 0 s (fun m x v =>
    if m.wainOut w then m
    else
      let m1 := ((match wainCore w with | some c => m.stir c | none => m).setWain w { x with instr := none, plane := none, loops := [] }).setWainState w 7
      (if bits v 251 1 = 1 then m1.irq (wainDie w) (wainPage w) 0 else m1).wainSync w)

/-- WAIN_WRITE_ACK: request `id` of Wain `w` has been performed or refused (R283). -/
def execWainWriteAck (w id : Nat) (s : State) : Ans :=
  if !isWain w then .fault (.noSuchAgent w)
  else
    let m := s.mod
    match m.findReq id with
    | some r =>
      match r.answer, r.use with
      | some x, .wain w1 off _ =>
        if w1 = w then
          .next { s with mod := ((m.retireReq id).wainNoteAt w off (match x with
            | .err => some (13, r.mpa) | .poison => some (14, r.mpa) | _ => none)).wainSync w }
        else .next s
      | _, _ => .next s
    | none => .next s

end Sys2Proof.Machine
end

