-- ==== Sys2Proof/Machine/Cadence.lean ====
section
/-! DEFINITION. Cadence: TIME, MONO and the PPS servo (R364 to R368), the frame generator and holdover (R369 to R374),
ticks (R375, R376), slots and their actions (R377 to R382), and deadline windows (R383, R384). -/

namespace Sys2Proof.Machine

/-- The CAD page of BW, which holds the master. -/
def cadBw : Nat := 2072

/-! ### TIME and MONO (R364) -/

/-- `el` fifteenths of a reference cycle pass. -/
def AlwaysOn.advance (a : AlwaysOn) (el : Nat) : AlwaysOn :=
  let d : Int := (((a.now + el) / 15 - a.now / 15 : Nat) : Int) * a.incr
  { a with now := a.now + el
           mono := ((a.mono : Int) + d).toNat
           time := (((a.time : Int) + d) % ((2 ^ 96 : Nat) : Int)).toNat }

/-- A value captured to the nearest fifteenth of a cycle (R365, R371). -/
def AlwaysOn.capture (a : AlwaysOn) (x : Nat) : Nat := ((x : Int) + a.incr * ((a.now % 15 : Nat) : Int) / 15).toNat

/-- Advance to the instant at which MONO reaches `x`; none when it never does. An instant already past is now. -/
def AlwaysOn.advanceTo (a : AlwaysOn) (x : Nat) : Option AlwaysOn :=
  if x ≤ a.capture a.mono then some a
  else if a.incr ≤ 0 then none
  else
    let i := a.incr.toNat
    some (a.advance ((((x - a.mono) * 15 + i - 1) / i) - a.now % 15))

/-- Fifteenths of a reference cycle in a second. -/
def refSecond : Nat := 1500000000

/-- PPS_LOST's other effects: no accepted edge for 1.5 s (R365, R366). -/
def AlwaysOn.ppsGone (a : AlwaysOn) (nom : Nat) : AlwaysOn :=
  { a with ppsLost := true, ppsLocked := false, phase := 0, incr := (nom : Int) + a.trim }

def clampInt (lo hi x : Int) : Int := max lo (min hi x)

/-- One step of the servo at capture `c` (R366): the master, and whether TIME was stepped. -/
def AlwaysOn.servo (a : AlwaysOn) (c nom stepNs kp ki : Nat) : AlwaysOn × Bool :=
  let e : Int := (c : Int) - (((c + 2 ^ 63) / 2 ^ 64 * 2 ^ 64 : Nat) : Int)
  let a1 := { a with ppsErr := Int.tdiv (e * 1000000000) ((2 ^ 64 : Nat) : Int) }
  if !a.ppsLocked ∨ stepNs * 2 ^ 64 / 10 ^ 9 < e.natAbs then
    ({ a1 with time := (((a.time : Int) - e) % ((2 ^ 96 : Nat) : Int)).toNat, ppsLocked := true
               ppsSteps := Nat.min 65535 (a.ppsSteps + 1), phase := 0, incr := (nom : Int) + a.trim }, true)
  else
    let corr := Int.tdiv (-e) 100000000
    let trim := clampInt (-36893488) 36893488 (a.trim + corr / ((2 ^ ki : Nat) : Int))
    let phase := corr / ((2 ^ kp : Nat) : Int)
    ({ a1 with trim := trim, phase := phase, incr := (nom : Int) + trim + phase }, false)

/-- TIME takes new seconds; its fraction is kept (R367). -/
def AlwaysOn.setSec (a : AlwaysOn) (sec : Nat) : AlwaysOn := { a with time := sec % 2 ^ 32 * 2 ^ 64 + a.time % 2 ^ 64 }

/-- CAD_TIME_INCR.NOM and CAD_TIME_CTRL.ALIGN. -/
def Mod.nom (m : Mod) : Nat := m.fld 4 cadBw 0x118 0 40
def Mod.align (m : Mod) : Bool := m.fld 4 cadBw 0x110 0 1 == 1

/-- PPS_EDGE: a rising edge, `el` fifteenths of a reference cycle after the last event that moved the clock. -/
def execPpsEdge (el : Nat) (s : State) : Ans :=
  let a := s.aon.advance el
  if !a.powered then .next s
  else if a.ppsLast.any (fun l => decide (a.now - l < refSecond / 2)) then .next { s with aon := { a with cntPpsGlitch := a.cntPpsGlitch + 1 } }
  else
    let c := a.capture a.time
    let a1 := { a with ppsLast := some a.now, ppsLost := false, ppsCapt := c / 2 ^ 32 % 2 ^ 64 }
    if !s.mod.align then .next { s with aon := if s.mod.secPend then a1.setSec (s.mod.fld 4 cadBw 0x108 32 32) else a1
                                        mod := { s.mod with secPend := false } }
    else
      let ctrl := s.mod.reg 4 cadBw 0x110
      let r := a1.servo c s.mod.nom (bits ctrl 16 16) (bits ctrl 8 4) (bits ctrl 12 4)
      let m1 := if r.2 then s.mod.irq 4 cadBw 4 else s.mod
      .next { s with aon := if m1.secPend then r.1.setSec (m1.fld 4 cadBw 0x108 32 32) else r.1
                     mod := { m1 with secPend := false } }

/-- PPS_LOST: 1.5 s have passed since the last accepted edge. -/
def execPpsLost (s : State) : Ans :=
  match s.aon.ppsLast with
  | none => .next s
  | some l =>
    if s.aon.ppsLost || !s.aon.powered then .next s
    else
      let due := l + refSecond * 3 / 2
      let a := s.aon.advance (due - s.aon.now)
      .next { s with aon := a.ppsGone s.mod.nom, mod := s.mod.irq 4 cadBw 0 }

/-- A write to CAD_TIME_CTRL or CAD_TIME_INCR that the common rules have performed: ALIGN's changes, SEC_APPLY and LOAD
(R366, R367). `old` is CAD_TIME_CTRL before it, and `cmd` the command bits written. -/
def timeCtrl (q old cmd : Nat) (s : State) : State :=
  let m := s.mod
  let a := if m.align then (if bits old 0 1 = 0 then { s.aon with ppsLocked := false } else s.aon)
           else { s.aon with phase := 0, incr := (m.nom : Int) + s.aon.trim }
  let r : AlwaysOn × Mod :=
    if bits cmd 1 1 = 0 then (a, m)
    else if m.align && a.ppsLocked then (a, { m with secPend := true })
    else (a.setSec (m.fld 4 cadBw 0x108 32 32), m)
  if bits cmd 2 1 = 0 then { s with aon := r.1, mod := r.2 }
  else if m.align then { s with aon := r.1, mod := r.2.err 4 cadBw 12 q 0 (regMpa 4 cadBw 0x110) }
  else { s with aon := { r.1 with time := m.reg 4 cadBw 0x108 * 2 ^ 32 }, mod := r.2 }

/-! ### The frame generator (R369 to R374) -/

/-- N and D of a RATE (R370). -/
def rateOf (r : Nat) : Nat × Nat :=
  ([(24000, 1001), (24, 1), (25, 1), (30000, 1001), (30, 1), (48, 1), (50, 1), (60000, 1001), (60, 1), (100, 1), (120000, 1001),
    (120, 1)] : List (Nat × Nat)).getD r (24, 1)

/-- The period of a RATE in units of 2^-64 s. -/
def ratePeriod (r : Nat) : Nat := (rateOf r).2 * 2 ^ 64 / (rateOf r).1

/-- The expected period P (R371). -/
def AlwaysOn.p (a : AlwaysOn) : Nat := if a.source = 1 ∧ a.period ≠ 0 then a.period else ratePeriod a.rate

/-- The tick words of a line to the six cadence units (R375); a die in DR takes none. -/
def Mod.sendTicks (m : Mod) (frame line lpf : Nat) (early : Bool) : Mod :=
  { m with ticks := m.ticks ++ ((List.range 6).filter (fun d => !m.dr.contains d)).map (fun d => Tick.mk d frame line lpf early) }

/-- The settings of CAD_FRAME_CFG take effect at a frame edge at MONO `x` (R369). -/
def AlwaysOn.applyCfg (a : AlwaysOn) (cfg x : Nat) : AlwaysOn :=
  let src := bits cfg 0 1
  let rate := bits cfg 8 4
  let b := { a with source := src, rate := rate, lpf := bits cfg 16 14 }
  if src = 0 then
    if a.source = 0 ∧ a.rate = rate then b
    else { b with grid0 := x, gridK := 0, holdover := false, locked := false, accepted := 0, period := 0, lastIn := none }
  else if a.source = 0 then { b with holdover := true, locked := false, accepted := 0, period := 0, lastIn := none, holdBase := x, holdK := 1 }
  else if a.holdover ∧ a.rate ≠ rate ∧ a.period = 0 then { b with holdBase := x, holdK := 1 }
  else b

/-- A new frame begins at MONO `x` (R372): the lines not yet entered at once, the next frame number, its settings, and
line 0. -/
def newFrame (x : Nat) (s : State) : State :=
  let a := s.aon
  let first := if a.begun then a.line + 1 else 0
  let m1 := (List.range (a.lpf - first)).foldl (fun (m : Mod) i => m.sendTicks a.frameNum (first + i) a.lpf true) s.mod
  let b := ({ a with frameNum := (a.frameNum + 1) % 2 ^ 64, line := 0, begun := true, lastEdge := x } : AlwaysOn).applyCfg (m1.reg 4 cadBw 0x138) x
  { s with aon := b, mod := m1.sendTicks b.frameNum 0 b.lpf false }

/-- FREE_RUN_EDGE: the grid's next edge (R370). -/
def execFreeRunEdge (s : State) : Ans :=
  let a := s.aon
  if a.source ≠ 0 || !a.powered then .next s
  else
    let nd := rateOf a.rate
    let x := a.grid0 + (a.gridK + 1) * nd.2 * 2 ^ 64 / nd.1
    match a.advanceTo x with
    | none => .next s
    | some b => .next (newFrame x { s with aon := { b with gridK := b.gridK + 1 } })

/-- FRAME_IN_EDGE: an edge of the house reference, `el` fifteenths of a reference cycle after the last event that moved
the clock (R371, R374, R476). -/
def execFrameInEdge (el : Nat) (s : State) : Ans :=
  let a := s.aon.advance el
  let c := a.capture a.mono
  let glitch : State := { s with aon := { a with cntFrameGlitch := a.cntFrameGlitch + 1 } }
  if !a.powered then .next s
  else if a.source = 0 then .next { s with aon := a }
  else if (c - a.lastEdge) * 125 < 2 ^ 64 then .next glitch
  else if a.holdover then
    let b := { a with holdover := false, lastIn := some c, accepted := 1 }
    if 2 * (c - a.lastEdge) < a.p then .next { s with aon := { b with lastEdge := c } }
    else .next (newFrame c { s with aon := b })
  else if 2 * (c - a.lastEdge) < a.p then .next glitch
  else
    let b := { a with lastIn := some c, accepted := a.accepted + 1
                      period := (match a.lastIn with | some l => if 1 ≤ a.accepted then c - l else a.period | none => a.period)
                      locked := a.locked || decide (1 ≤ a.accepted) }
    let m := if !a.locked && b.locked then s.mod.irq 4 cadBw 5 else s.mod
    .next (newFrame c { s with aon := b, mod := m })

/-- FRAME_LOST: 1.5 P after the last frame edge (R373). -/
def execFrameLost (s : State) : Ans :=
  let a := s.aon
  if a.source = 0 || a.holdover || !a.powered then .next s
  else match a.advanceTo (a.lastEdge + a.p * 3 / 2) with
    | none => .next s
    | some b =>
      .next { s with aon := { b with locked := false, holdover := true, accepted := 0, holdBase := b.lastEdge, holdK := 2 }
                     mod := s.mod.irq 4 cadBw 1 }

/-- HOLDOVER_EDGE: holdover's next edge (R373). -/
def execHoldoverEdge (s : State) : Ans :=
  let a := s.aon
  if a.source = 0 || !a.holdover || !a.powered then .next s
  else
    let x := a.holdBase + a.holdK * a.p
    match a.advanceTo x with
    | none => .next s
    | some b => .next (newFrame x { s with aon := { b with holdK := b.holdK + 1, cntHold := b.cntHold + 1 } })

/-- LINE_BOUNDARY: the generator's next line (R372). -/
def execLineBoundary (s : State) : Ans :=
  let a := s.aon
  if !a.powered then .next s
  else if !a.begun then .next { s with aon := { a with begun := true, line := 0 }, mod := s.mod.sendTicks a.frameNum 0 a.lpf false }
  else if a.lpf ≤ a.line + 1 then .next s
  else match a.advanceTo (a.lastEdge + (a.line + 1) * a.p / a.lpf) with
    | none => .next s
    | some b => .next { s with aon := { b with line := b.line + 1 }, mod := s.mod.sendTicks b.frameNum (b.line + 1) b.lpf false }

/-! ### Slots (R377 to R382) -/

/-- CAD registers of a die. -/
def Mod.cad (m : Mod) (die off : Nat) : Nat := m.reg die (cadPage die) off
def Mod.setCad (m : Mod) (die off v : Nat) : Mod := m.setReg die (cadPage die) off v
def Mod.slotWhen (m : Mod) (die s : Nat) : Nat := m.cad die (0x800 + s * 0x20)
def Mod.slotArg (m : Mod) (die s n : Nat) : Nat := m.cad die (0x808 + s * 0x20 + n * 8)

/-- The firing rule of R377 at line `l` of frame `f`. -/
def slotMatch (w f l : Nat) : Bool :=
  let md := if bits w 0 8 = 0 then 1 else bits w 0 8
  let first := bits w 16 13
  let step := bits w 32 13
  let count := bits w 48 13
  f % md == bits w 8 8 && decide (first ≤ l) &&
    (if step = 0 then l == first else (l - first) % step == 0 && (count == 0 || decide ((l - first) / step < count)))

/-- A reference a slot of the die may name (R378). -/
def slotRefOk (die ref : Nat) : Bool :=
  match cntOf ref with
  | none => false
  | some x => x.kind == 2 || (decide (die < 4) && x.die == die)

/-- Argument bits that an action uses (R378). -/
def slotArgMasks (die act : Nat) : Nat × Nat × Nat :=
  match act with
  | 1 => (0xFFFFFFFF, 0xFFFFFFFF, 0)
  | 2 => (0x8FFF0FFF, 0, 0)
  | 3 => (2 ^ 45 - 1, if die < 4 then 0x1FF else 0xF, 0)
  | 4 => (2 ^ 44 - 8, 2 ^ 34 - 1, 0)
  | 5 => (0x3FF, 0, 0)
  | _ => (0xFFFFFFFF, 2 ^ 39 - 1, 0xF1FFFFFFF)

/-- A slot's registers pass the checks of R379. -/
def Mod.slotOk (m : Mod) (die s : Nat) : Bool :=
  let w := m.slotWhen die s
  let act := bits w 61 3
  let md := if bits w 0 8 = 0 then 1 else bits w 0 8
  let a0 := m.slotArg die s 0
  let a1 := m.slotArg die s 1
  let k := slotArgMasks die act
  act != 7 && decide (bits w 8 8 < md) &&
    (act == 0 ||
      ((a0 &&& k.1) == a0 && (a1 &&& k.2.1) == a1 && (m.slotArg die s 2 &&& k.2.2) == m.slotArg die s 2 &&
        (match act with
          | 1 => slotRefOk die (bits a0 0 32)
          | 3 => decide (4 ≤ die) || isCore (die * 256 + bits a1 0 8)
          | 4 => bits a1 32 1 == 0 || slotRefOk die (bits a1 0 32)
          | 5 => decide (die < 4) && isCore (die * 256 + bits a0 0 8)
          | 6 => slotRefOk die (bits a0 0 32)
          | _ => true)))

/-- ERR_STAT of the die's CAD page, with a slot or window in ERR_INFO.DETAIL; no requester caused it. -/
def Mod.cadErr (m : Mod) (die bit detail : Nat) : Mod := m.err die (cadPage die) bit (0xF00 + die) detail 0

/-- A write of CAD_SLOT_CTRL: each bit that goes from 0 to 1 is checked, and stays 0 where its slot fails (R379). -/
def Mod.slotCtrl (m : Mod) (q die we wv : Nat) : Mod :=
  let old := m.cad die 0x140
  let up := (List.range 64).filter (fun s => bits (we &&& wv) s 1 == 1 && bits old s 1 == 0)
  let bad := up.filter (fun s => !m.slotOk die s)
  let m1 := m.commonWrite q die (cadPage die) 0x140 (bad.foldl (fun x s => setBits x s 1 0) we) wv
  let m2 := (up.filter (fun s => m.slotOk die s)).foldl (fun (x : Mod) s => x.setCad die (0x600 + 8 * s) 0) m1
  bad.foldl (fun (x : Mod) s => x.err die (cadPage die) 8 q s 0) m2

/-- SLOT_INC (R381). -/
def Mod.slotInc (m : Mod) (die s ref amount : Nat) : Mod :=
  match m.sendInc ref amount (0xF00 + die) die .prio (some s) with
  | some x => x
  | none => m.cadErr die 9 s

/-- SLOT_IRQ (R381, R420): CAD_SLOT of the selected cores, and a steward notice. -/
def Mod.slotIrq (m : Mod) (die s a0 frame : Nat) : Mod :=
  let m1 := if 4 ≤ die then m
    else (List.range 256).foldl (fun (x : Mod) i =>
      let c := die * 256 + i
      if isCore c ∧ bits a0 (i / 16) 1 = 1 ∧ bits a0 (16 + i % 16) 1 = 1 ∧ x.retired c = false then
        (if x.coreSweep c then x.cadErr die 9 s else x.irq die (corePage c 0) 0)
      else x) m
  if bits a0 31 1 = 1 then m1.notice die 2 s (frame % 2 ^ 32) else m1

/-- SLOT_WAIN (R381, R419, R420): a refused start sets SLOT_FAIL. -/
def Mod.slotWain (m : Mod) (die s a0 a1 : Nat) : Mod :=
  if m.standby then m.addReg die (cadPage die) 0x198 1
  else
    let w := if die < 4 then (die * 256 + bits a1 0 8) * 2 + bits a1 8 1 else 2048 + 16 * (die - 4) + bits a1 0 4
    let core := die * 256 + bits a1 0 8
    let off := decide (die < 4) && (m.coreSweep core || m.retired core || m.parked core)
    let m1 := m.wainStart (0xF00 + die) w a0 true
    if off ∨ m.wainBusy w ∨ (m.wain w).ending.isSome then m1.cadErr die 9 s else m1

/-- SLOT_INTAKE (R382, R419): a read, unless the slot's previous one is outstanding. -/
def Mod.slotIntake (m : Mod) (die s a0 a1 : Nat) : Mod :=
  if m.standby ∨ m.intakes.any (fun x => x.die == die && x.slot == s) = true then m.addReg die (cadPage die) 0x198 1
  else { m with intakes := m.intakes ++ [Intake.mk die s a0 a1] }

/-- SLOT_GATE (R302, R381): permits, saturating. -/
def Mod.slotGate (m : Mod) (die a0 : Nat) : Mod :=
  let page := bits a0 0 8 * 8 + 4
  let k := bits a0 8 2
  let v := m.fld die page (0x420 + 8 * k) 0 16 + m.fld die page (0x310 + 0x20 * k) 0 16
  if m.coreSweep (die * 256 + bits a0 0 8) then m else m.setFld die page (0x420 + 8 * k) 0 16 (Nat.min v 65535)

/-- A counter's value read from a die; over a cut route it is an open value. -/
def Mod.cntRead (m : Mod) (die ref : Nat) : Nat × Mod :=
  match cntOf ref with
  | none => m.free
  | some x => if m.routeCut die x.die x.mpa then m.free else (m.cntVal x, m)

/-- Offset of the registers of window `w`. -/
def winOff (w : Nat) : Nat := 0x400 + w * 0x20

/-- SLOT_DEADLINE (R383): window w opens at (f, l) of a frame of `lpf` lines. -/
def Mod.slotDeadline (m : Mod) (die a0 a1 a2 f l lpf : Nat) : Mod :=
  let w := bits a2 32 4
  let o := winOff w
  let ref := bits a0 0 32
  let r := m.cntRead die ref
  let delta := bits a1 0 32
  let cs := 0x600 + 8 * bits a1 33 6
  let chain := bits a1 32 1 == 1
  let base := if chain && r.2.cad die cs != 0 then r.2.cad die cs else r.1
  let target := (base + delta) % 2 ^ 64
  let m1 := if chain then r.2.setCad die cs target else r.2
  let df := bits a2 0 16
  let dl := bits a2 16 13
  let next := if l + 1 < lpf then (f, l + 1) else (f + 1, 0)
  let due := if df = 0 ∧ Nat.min dl (lpf - 1) ≤ l then next else (f + df, dl)
  let st := bits (m1.cad die (o + 0x10)) 48 2
  let m2 := if st = 1 ∨ st = 2 then m1.cadErr die 11 w else m1
  ((m2.setCad die o due.1).setCad die (o + 8) target).setCad die (o + 0x10) (2 ^ 48 + due.2 * 2 ^ 32 + ref)

/-- Fire slot `s` at (f, l): the checks of R379, then its action. Event 0x49 of R28 counts it. -/
def Mod.fireSlot (m0 : Mod) (die s f l lpf : Nat) : Mod :=
  let m := m0.dieEv die 0x49 0 1
  let a0 := m.slotArg die s 0
  let a1 := m.slotArg die s 1
  if !m.slotOk die s then m.cadErr die 9 s
  else match bits (m.slotWhen die s) 61 3 with
    | 1 => m.slotInc die s (bits a0 0 32) (bits a1 0 32)
    | 2 => m.slotIrq die s a0 f
    | 3 => m.slotWain die s a0 a1
    | 4 => m.slotIntake die s a0 a1
    | 5 => m.slotGate die a0
    | 6 => m.slotDeadline die a0 a1 (m.slotArg die s 2) f l lpf
    | _ => m

/-- Deadline window `w` at a boundary (R384). -/
def Mod.checkWindow (m : Mod) (die w f l lpf : Nat) : Mod :=
  let o := winOff w
  let cfg := m.cad die (o + 0x10)
  let df := m.cad die o
  let dl := Nat.min (bits cfg 32 13) (lpf - 1)
  let due := decide (df < f) || (df == f && decide (dl ≤ l))
  let st := bits cfg 48 2
  if st = 2 ∨ (st = 1 ∧ due = true) then
    let r := m.cntRead die (bits cfg 0 32)
    let target := r.2.cad die (o + 8)
    let res := r.2.cad die (o + 0x18)
    if st = 2 then
      if target ≤ r.1 then (r.2.setCad die (o + 0x10) (setBits cfg 48 2 3)).irq die (cadPage die) 3
      else r.2.setCad die (o + 0x18) (setBits res 0 32 (Nat.min (bits res 0 32 + 1) 0xFFFFFFFF))
    else if target ≤ r.1 then (r.2.setCad die (o + 0x10) (setBits cfg 48 2 3)).setCad die (o + 0x18) (setBits res 0 32 0)
    else (((r.2.setCad die (o + 0x10) (setBits cfg 48 2 2)).setCad die (o + 0x18) (Nat.min (target - r.1) 0xFFFFFFFF * 2 ^ 32)).irq
      die (cadPage die) 2).dieEv die 0x4A 0 1
  else m

/-- An INTAKE slot follows its lines: LOCKED is 1 or PERIOD is 0 (R382). -/
def intakeByLine (a : AlwaysOn) (m : Mod) (die : Nat) : Bool := a.locked || m.fld die (cadPage die) 0x168 0 10 == 0

/-! ### Entering a line (R375, R376, R380) -/

/-- A unit enters line `l` of frame `f`: position, FRAME_OUT, windows, then slots in order. -/
def enterLine (a : AlwaysOn) (die f l lpf : Nat) (early : Bool) (m : Mod) : Mod :=
  let m1 := ((m.setCad die 0x148 f).setFld die (cadPage die) 0x150 0 13 l)
  let m2 := { m1 with unitLpf := SMap.put 0 m1.unitLpf die lpf
                      frameOut := if die ≠ 4 then m1.frameOut
                        else if l = 0 then (if m1.fld 4 cadBw 0x170 16 1 = 1 then m1.fld 4 cadBw 0x170 0 13 else 0)
                        else m1.frameOut - 1 }
  let m3 := if early then m2.addReg die (cadPage die) 0x1A0 1 else m2
  let m4 := (List.range 16).foldl (fun (x : Mod) w => x.checkWindow die w f l lpf) m3
  (List.range 64).foldl (fun (x : Mod) s =>
    let w := x.slotWhen die s
    if bits (x.cad die 0x140) s 1 = 1 ∧ slotMatch w f l = true ∧ (bits w 61 3 ≠ 4 ∨ intakeByLine a x die = true) then x.fireSlot die s f l lpf
    else x) m4

/-- Lines that fill a gap, `n` of them from (f, l): a frame's lines up to its LPF, then those of the next. -/
def fillLines (a : AlwaysOn) (die lpf2 : Nat) : Nat → Nat → Nat → Nat → Mod → Mod
  | 0, _, _, _, m => m
  | n + 1, f, l, lpf, m =>
    let m1 := enterLine a die f l lpf true m
    if l + 1 < lpf then fillLines a die lpf2 n f (l + 1) lpf m1 else fillLines a die lpf2 n (f + 1) 0 lpf2 m1

/-- A unit takes a good tick word (R376). -/
def takeTick (a : AlwaysOn) (t : Tick) (m : Mod) : Mod :=
  let lpf := SMap.get 0 m.unitLpf t.die
  if lpf = 0 then (if t.line = 0 then enterLine a t.die t.frame 0 t.lpf t.early m else m)
  else
    let f := m.cad t.die 0x148
    let l := m.fld t.die (cadPage t.die) 0x150 0 13
    let next := if l + 1 < lpf then (f, l + 1) else (f + 1, 0)
    let got := if t.line = 0 then t.frame else f + (t.frame + 65536 - f % 65536) % 65536
    if (got, t.line) = next then enterLine a t.die got t.line t.lpf t.early m
    else
      let m1 := m.cadErr t.die 10 0
      let n := if got = f then t.line - (l + 1) else (lpf - 1 - l) + (got - f - 1) * t.lpf + t.line
      if got < f ∨ (got = f ∧ t.line ≤ l) then m1
      else enterLine a t.die got t.line t.lpf t.early (fillLines a t.die t.lpf n next.1 next.2 (if next.2 = 0 then t.lpf else lpf) m1)

/-- TICK_WORD: the oldest tick word to a die's unit arrives, with good parity or not. -/
def execTickWord (die : Nat) (good : Bool) (s : State) : Ans :=
  if 6 ≤ die then .fault (.noSuchAgent die)
  else match s.mod.ticks.find? (fun t => t.die == die) with
    | none => .next s
    | some t =>
      let m := { s.mod with ticks := s.mod.ticks.erase t }
      .next { s with mod := if m.dr.contains die || !m.enabled die (cadPage die) then m else if good then takeTick s.aon t m else m.cadErr die 10 0 }

/-- INTAKE_READ_RESPONSE: the `i`-th INTAKE read outstanding, once it has been made, returns (R382). -/
def execIntakeReadResponse (i : Nat) (s : State) : Ans :=
  match s.mod.intakes[i]? with
  | none => .next s
  | some x =>
    let key := 0x20000 + 64 * x.die + x.slot
    let q := 0xF00 + x.die
    match s.mod.awaitFar key q x.die [(x.mpa, 8)] with
    | some m => .next { s with mod := m }
    | none =>
      let m := ({ s.mod with intakes := s.mod.intakes.eraseIdx i } : Mod).dropFetched key
      .next { s with mod :=
        match s.mod.farAnswer key x.mpa 8 with
        | .data v =>
          let st := 0x600 + 8 * x.slot
          if v = m.cad x.die st then m
          else
            let m1 := m.setCad x.die st v
            let m2 := if bits x.arg 32 1 = 1 then m1.slotInc x.die x.slot (bits x.arg 0 32) 1 else m1
            if bits x.arg 33 1 = 1 then m2.notice x.die 3 x.slot (v % 2 ^ 32) else m2
        | _ => m.cadErr x.die 9 x.slot }

/-- INTAKE_PERIOD_SAMPLE: while LOCKED is 0, CAD_INTAKE.PERIOD has passed on a die (R382). -/
def execIntakePeriodSample (die : Nat) (s : State) : Ans :=
  if 6 ≤ die then .fault (.noSuchAgent die)
  else if intakeByLine s.aon s.mod die || !s.aon.powered || s.mod.dr.contains die || !s.mod.enabled die (cadPage die) then .next s
  else
    let m := (List.range 64).foldl (fun (x : Mod) k =>
      if bits (x.cad die 0x140) k 1 = 1 ∧ bits (x.slotWhen die k) 61 3 = 4 then
        (if x.slotOk die k then x.slotIntake die k (x.slotArg die k 0) (x.slotArg die k 1) else x.cadErr die 9 k)
      else x) s.mod
    .next { s with mod := m }

end Sys2Proof.Machine
end

