-- ==== Sys2Proof/Machine/DieLink.lean ====
section
/-! DEFINITION. Die links (R332 to R348): frames, credits and replay, training with lane repair and mask adoption, beacons, reset
notices, retraining and LP. An end of a link is a die and its DIELINK page. -/

namespace Sys2Proof.Machine

/-! ### Ends of links -/

/-- The eight links of R339 by number: lower-numbered die, its page, the other die, its page. -/
def linkTable : List (Nat × Nat × Nat × Nat) :=
  [(0, 2304, 4, 2081), (1, 2304, 5, 2081), (2, 2304, 4, 2082), (3, 2304, 5, 2082),
   (0, 2305, 1, 2305), (2, 2305, 3, 2305), (0, 2307, 2, 2306), (1, 2306, 3, 2307)]

/-- The number of the link an end belongs to, and whether the end is at its lower-numbered die. -/
def linkOf (die page : Nat) : Option (Nat × Bool) :=
  (List.range 8).findSome? (fun l =>
    match linkTable[l]? with
    | some x => if x.1 = die ∧ x.2.1 = page then some (l, true) else if x.2.2.1 = die ∧ x.2.2.2 = page then some (l, false) else none
    | none => none)

/-- The other end of a link. -/
def linkPartner (die page : Nat) : Option (Nat × Nat) :=
  linkTable.findSome? (fun x =>
    if x.1 = die ∧ x.2.1 = page then some (x.2.2.1, x.2.2.2) else if x.2.2.1 = die ∧ x.2.2.2 = page then some (x.1, x.2.1) else none)

/-- An end whose port is used. -/
def isLinkEnd (die page : Nat) : Bool := (linkOf die page).isSome

/-- Bundles of a link. -/
def linkBundles (l : Nat) : Nat := if l < 4 then 12 else 8

/-- A bundle number, and a mask, of a link in the numbering of the other end: port E reverses (R333, R342). -/
def convBundle (l k : Nat) : Nat := if l = 4 ∨ l = 5 then 7 - k else k
def convMask (l v : Nat) : Nat := if l = 4 ∨ l = 5 then revBits 8 v else v

def endKey (die page : Nat) : Nat := die * 8192 + page

def Mod.linkState1 (m : Mod) (die page v : Nat) : Mod := m.setFld die page 0x018 8 3 v

def Mod.linkEnabled (m : Mod) (die page : Nat) : Bool := m.fld die page 0x010 0 1 == 1

/-- STATE of DATA or LP. -/
def Mod.inData (m : Mod) (die page : Nat) : Bool := m.linkState die page == 3 || m.linkState die page == 4

/-! ### Frames (R334 to R336) -/

def Mod.bundle (m : Mod) (die page k : Nat) : Bundle := SMap.get {} m.bundles (16 * endKey die page + k)

def Mod.setBundle (m : Mod) (die page k : Nat) (b : Bundle) : Mod :=
  { m with bundles := SMap.put {} m.bundles (16 * endKey die page + k) b }

/-- Place of a virtual channel in a list of credits. -/
def Vc.idx : Vc → Nat
  | .req => 0 | .rsp => 1 | .msg => 2 | .prio => 3

/-- A packet that is ready to cross at an end: its number, virtual channel, data flits, and whether it is a read request (R319, R334). -/
structure LinkPkt where
  born : Nat
  vc : Vc
  flits : Nat
  read : Bool
  deriving DecidableEq, Repr

/-- The packet stands at an end of a link, ready to cross on bundle `k`. -/
def Path.atEnd (p : Path) (die page k : Nat) : Bool :=
  match p.todo with
  | x :: _ => x.die == die && x.page == page && x.k == k
  | [] => false

/-- Data flits of a request on its way there, or of its response on the way back; a request stays within one granule. -/
def Req.flits (r : Req) : Nat :=
  match r.resp with
  | some (.data _) => 1
  | some _ => 0
  | none => match r.op with | .read => 0 | _ => 1

/-- Insert a packet before those that the sender would choose after it: VC_PRIO first, then the oldest (R336). -/
def insertPkt (p : LinkPkt) : List LinkPkt → List LinkPkt
  | [] => [p]
  | x :: t =>
    let before := (decide (p.vc = .prio) && decide (x.vc ≠ .prio)) || (decide (p.vc = .prio) == decide (x.vc = .prio) && decide (p.born < x.born))
    if before then p :: x :: t else x :: insertPkt p t

/-- The packets ready at an end on a bundle, in the order of the sender's choice. A message of up to eight words fills one or two flits; an
increment has a header alone. -/
def Mod.linkReady (m : Mod) (die page k : Nat) : List LinkPkt :=
  let l := (m.net.filter (fun r => r.path.atEnd die page k)).map (fun r =>
      LinkPkt.mk r.path.born r.path.vc r.flits (r.resp.isNone && decide (r.op = .read))) ++
    (m.incs.filter (fun x => x.path.atEnd die page k)).map (fun x => LinkPkt.mk x.path.born x.path.vc 0 false) ++
    (m.chuteReqs.filter (fun x => x.path.atEnd die page k)).map (fun x =>
      LinkPkt.mk x.path.born x.path.vc (if x.resp.isSome then 0 else (x.words.length + 3) / 4) false)
  l.foldl (fun o p => insertPkt p o) []

def Slot.bornIs (b : Nat) : Slot → Bool
  | .header x => x == b
  | .read x => x == b
  | .credit _ _ => false

/-- Frames hold a packet's header, and its flit `i`. -/
def hasHead (l : List Frame) (b : Nat) : Bool := l.any (fun f => match f with | .head _ s => s.any (Slot.bornIs b) | _ => false)
def hasFlit (l : List Frame) (b i : Nat) : Bool := l.any (fun f => match f with | .data _ x j => x == b && j == i | _ => false)

/-- The partner's buffer has room for another frame of a channel: 16 frames are reserved for each, and 192 are shared (R336). -/
def creditFree (used : List Nat) (v : Vc) : Bool :=
  decide (used.getD v.idx 0 < 16) || decide (used.foldl (fun s u => s + (u - 16)) 0 < 192)

/-- Add to the count of a channel. -/
def bump (l : List Nat) (v : Vc) (n : Nat) : List Nat := l.set v.idx (l.getD v.idx 0 + n)

/-- Add a frame to a block against a credit, if the block and the buffer have room. -/
def addFrame (st : List Frame × List Nat) (v : Vc) (f : Frame) : List Frame × List Nat :=
  if st.1.length < 15 && creditFree st.2 v then (st.1 ++ [f], bump st.2 v 1) else st

/-- Put a packet's header into a block: into its last frame, where that is a HEAD frame of the same channel with a slot free. -/
def addHead (st : List Frame × List Nat) (p : LinkPkt) : List Frame × List Nat :=
  let s := if p.read then Slot.read p.born else Slot.header p.born
  match st.1.getLast? with
  | some (.head v l) =>
    if v = p.vc ∧ l.length < 4 ∧ l.all (fun x => match x with | .credit _ _ => false | _ => true) = true then (st.1.dropLast ++ [.head v (l ++ [s])], st.2)
    else addFrame st p.vc (.head p.vc [s])
  | _ => addFrame st p.vc (.head p.vc [s])

/-- Put what a packet has still to send into a block; `sent` holds the frames already sent and not yet passed on. -/
def addPkt (sent : List Frame) (st : List Frame × List Nat) (p : LinkPkt) : List Frame × List Nat :=
  let st1 := if hasHead sent p.born then st else addHead st p
  if !hasHead (sent ++ st1.1) p.born then st1
  else (List.range p.flits).foldl (fun st i => if hasFlit sent p.born i then st else addFrame st p.vc (.data p.vc p.born i)) st1

/-- The traffic of the next block: the credits owed, then the ready packets in order, then IDLE frames; and the credits then in use. -/
def nextFrames (owed used : List Nat) (sent : List Frame) (ready : List LinkPkt) : List Frame × List Nat :=
  let cr := ([Vc.req, Vc.rsp, Vc.msg, Vc.prio].filter (fun v => owed.getD v.idx 0 != 0)).map (fun v => Slot.credit v (owed.getD v.idx 0))
  let r := ready.foldl (addPkt sent) (if cr.isEmpty then [] else [.head .req cr], used)
  (r.1 ++ List.replicate (15 - r.1.length) .idle, r.2)

/-- CRC-32C of the difference that noise makes in a block's 15 frames: the CRC is linear, so it verifies when this equals the difference
in the CRC field (R334). -/
def crc32cByte (crc b : Nat) : Nat :=
  (List.range 8).foldl (fun c _ => if c % 2 = 1 then (c / 2) ^^^ 0x82F63B78 else c / 2) (crc ^^^ b)

def blockOk (frames crc : Nat) : Bool :=
  (if frames = 0 then 0 else (leBytes 960 frames).foldl crc32cByte 0) == crc % 2 ^ 32

/-- Traffic of a block: DATA frames, and whether any of its frames is a flit (R334). -/
def dataFrames (l : List Frame) : Nat := (l.filter (fun f => match f with | .data _ _ _ => true | _ => false)).length
def Frame.isFlit : Frame → Bool
  | .idle => false
  | .head _ s => s.any (fun x => match x with | .credit _ _ => false | _ => true)
  | .data _ _ _ => true

/-- A packet has made the crossing at its front. -/
def Path.cross (p : Path) : Path := { p with todo := p.todo.tail }

/-- The packets `done` have crossed at an end on bundle `k`. -/
def Mod.crossed (m : Mod) (die page k : Nat) (done : List LinkPkt) : Mod :=
  let onward := fun (p : Path) => if p.atEnd die page k && done.any (fun x => x.born == p.born) then p.cross else p
  ({ m with
    net := m.net.map (fun (r : Req) => { r with path := onward r.path })
    incs := m.incs.map (fun (x : Inc) => { x with path := onward x.path })
    chuteReqs := m.chuteReqs.map (fun (x : ChuteReq) => { x with path := onward x.path }) } : Mod).hostSettle

/-- Take the acknowledgement and NAK of a CHECK frame (R335): blocks up to `ack` are forgotten. -/
def Bundle.acked (b : Bundle) (ack : Nat) (nak : Bool) : Bundle :=
  let rest := fun (l : List LinkBlock) => l.filter (fun x => decide (32768 ≤ (ack + 65536 - x.seq % 65536) % 65536))
  let kept := rest b.kept
  { b with kept := kept, resend := rest b.resend, replay := b.replay || nak
           replays := if kept.head? = b.kept.head? then b.replays else 0 }

/-- Take the frames of a block that has verified (R335, R336): credits, then frames into the buffer; the packets now whole, and what the
buffer keeps, with the credits for the rest owed. `ready` lists the packets that still are to cross. -/
def Bundle.deliver (b : Bundle) (frames : List Frame) (ready : List LinkPkt) : Bundle × List LinkPkt :=
  let credits := frames.flatMap (fun f => match f with | .head _ s => s | _ => [])
  let used := credits.foldl (fun (u : List Nat) s => match s with | .credit v n => u.set v.idx (u.getD v.idx 0 - n) | _ => u) b.used
  let buf := b.buffer ++ frames.filter Frame.isFlit
  let whole := ready.filter (fun p => hasHead buf p.born && (List.range p.flits).all (fun i => hasFlit buf p.born i))
  let rest := ready.filter (fun p => !whole.contains p)
  let stays := fun (f : Frame) => match f with
    | .data _ x _ => rest.any (fun p => p.born == x)
    | .head _ s => rest.any (fun p => s.any (Slot.bornIs p.born))
    | .idle => false
  let owed := (buf.filter (fun f => !stays f)).foldl (fun (o : List Nat) f => match f with
    | .data v _ _ => bump o v 1 | .head v _ => bump o v 1 | .idle => o) b.owed
  ({ b with expect := (b.expect + 1) % 65536, naking := false, used := used, buffer := buf.filter stays, owed := owed }, whole)

/-- The block that the sender of a bundle sends next: one that a replay still has to send, or a new one while it keeps fewer than 64; and
the sender after it. -/
def Bundle.send (b : Bundle) (held : List Frame) (ready : List LinkPkt) : Option (LinkBlock × Bundle) :=
  match b.resend with
  | x :: t => some (x, { b with resend := t, naking := false })
  | [] =>
    if 64 ≤ b.kept.length then none
    else
      let r := nextFrames b.owed b.used (b.kept.flatMap (fun x => x.frames) ++ held) ready
      let x : LinkBlock := { seq := b.next, frames := r.1 }
      some (x, { b with next := (b.next + 1) % 65536, kept := b.kept ++ [x], used := r.2, owed := [0, 0, 0, 0], naking := false })

/-- DATA frames counted at an end: the register at `off`, and an event of R28 with its port on a compute die. -/
def Mod.linkCount (m : Mod) (die page off ev n : Nat) : Mod :=
  let m1 := m.addReg die page off n
  if die < 4 then m1.dieEv die ev (page - 2304) n else m1

/-- CHECK_FRAME: the next block of bundle `k` (numbered as at the receiving end) is sent, and its CHECK frame arrives at the end (die, page).
The block carries the packets that are ready at the other end. The operands mark the bits that arrive inverted: of the 15 frames, and of
the CHECK frame's sequence number, its reply (the acknowledgement, with NAK as bit 16) and its CRC. The CRC covers the 15 frames alone (R334); the block is delivered, or discarded with NAK in the end's next
CHECK frame. Noise that the CRC does not find is not carried into the packets (log entry 111). -/
def execCheckFrame (die page k frames seq reply crc : Nat) (s : State) : Ans :=
  match linkOf die page, linkPartner die page with
  | some (l, _), some x =>
    let m := s.mod
    let k2 := convBundle l k
    .next (if m.linkState die page ≠ 3 ∨ m.linkState x.1 x.2 ≠ 3 ∨ m.fld die page 0x108 k 1 = 0 ∨ m.fld x.1 x.2 0x108 k2 1 = 0 ∨ linkBundles l ≤ k then s
      else
        let a := m.bundle x.1 x.2 k2
        let ready := m.linkReady x.1 x.2 k2
        match a.send (m.bundle die page k).buffer ready with
        | none => s
        | some (blk, a1) =>
          let n := dataFrames blk.frames
          let m1 := (m.setBundle x.1 x.2 k2 a1).linkCount x.1 x.2 0x158 0x42 n
          let m2 := if blk.frames.any Frame.isFlit then (m1.stir (0x10000 + die)).stir (0x10000 + x.1) else m1
          let b := m2.bundle die page k
          let ack := ((a.expect + 65535) % 65536) ^^^ bits reply 0 16
          let nak := a.naking != (bits reply 16 1 == 1)
          let b1 := if blockOk frames crc then b.acked ack nak else b
          if !blockOk frames crc || (blk.seq ^^^ bits seq 0 16) != b.expect then
            { s with mod := (m2.setBundle die page k { b1 with naking := true }).addReg die page 0x150 1 }
          else
            let r := b1.deliver blk.frames ready
            { s with mod := ((m2.setBundle die page k r.1).crossed x.1 x.2 k2 r.2).linkCount die page 0x160 0x43 n })
  | _, _ => .fault (.noSuchAgent (endKey die page))

/-! ### Training (R338 to R342) -/

/-- An end begins a training with a reason (R348): it leaves data mode. -/
def Mod.endTrain (m : Mod) (die page reason : Nat) : Mod :=
  ((m.linkState1 die page 2).setFld die page 0x108 48 4 reason).addReg die page 0x140 1

/-- The link leaves data mode: what travels over it completes with poison, and the bundles of both ends, replay buffers among them, are
discarded (R10, R345). -/
def Mod.linkDrop (m : Mod) (die page : Nat) : Mod :=
  let one := fun (m : Mod) (d p : Nat) => { m with bundles := SMap.dropRange m.bundles (16 * endKey d p) (16 * endKey d p + 16) }
  ((match linkPartner die page with | some x => one (one m die page) x.1 x.2 | none => one m die page)).cutTraffic

/-- Both ends of a link in DATA, LP or DOWN begin one training; an end in RESET_WAIT or OFF waits, one that trains goes on. -/
def Mod.retrain (m : Mod) (die page reason : Nat) : Mod :=
  let may := fun (m : Mod) (d p : Nat) => decide (3 ≤ m.linkState d p) && m.linkEnabled d p
  match linkPartner die page with
  | none => m
  | some x =>
    if !may m die page then m
    else
      let m1 := m.endTrain die page reason
      (if may m x.1 x.2 then m1.endTrain x.1 x.2 reason else m1).linkDrop die page

/-- CHECK_TIMEOUT: no CHECK frame for 1,024 frame times, or the same block replayed 8 times, retrains with reason REPLAY. -/
def execCheckTimeout (die page : Nat) (s : State) : Ans :=
  if isLinkEnd die page then
    .next (if s.mod.linkState die page ≠ 3 then s
      else { s with mod := (s.mod.errOpen die page 11 0 0).retrain die page 4 })
  else .fault (.noSuchAgent (endKey die page))

/-- REPLAY: after a NAK the sender of bundle `k` replays its blocks from the first not acknowledged, in their original order: the CHECK_FRAME
commands that follow send them. The eighth replay of the same block in a row retrains the link. -/
def execReplay (die page k : Nat) (s : State) : Ans :=
  if isLinkEnd die page then
    let m := s.mod
    let b := m.bundle die page k
    .next (if m.linkState die page ≠ 3 ∨ !b.replay ∨ 16 ≤ k then s
      else
        let m1 := m.setBundle die page k { b with replay := false, replays := b.replays + 1, resend := b.kept }
        let m2 := m1.linkCount die page 0x148 0x44 b.kept.length
        { s with mod := if 7 ≤ b.replays then (m2.errOpen die page 11 0 0).retrain die page 4 else m2 })
  else .fault (.noSuchAgent (endKey die page))

/-- A repair record of R339, 32 bits at a byte of the repair map. -/
def AlwaysOn.repairRec (a : AlwaysOn) (o : Nat) : Nat :=
  if o < 640 then rdBytes a.repair o 4 else 0

/-- Lanes that a record lists. -/
def recLanes (r : Nat) : List Nat :=
  ((List.range 4).map (fun i => bits r (7 * i) 7)).filter (fun n => n != 0x7F) |>.take (bits r 28 3)

/-- A lane fails: its lane test found an error, or the record lists it (R340). Lanes by number: 0 to 63 data, 64 to 67 the spares SP_0 to
SP_3, 68 clock, 69 valid and 70 track, 71 to 73 their redundant lanes (DESIGN CHOICE, log entry 112). -/
def laneBad (r test i : Nat) : Bool := bits test i 1 == 1 || (recLanes r).contains i

/-- The data lanes that failed, and the good spares (R338). -/
def failedLanes (r test : Nat) : List Nat := (List.range 64).filter (laneBad r test)
def goodSpares (r test : Nat) : List Nat := ((List.range 4).map (fun j => 64 + j)).filter (fun j => !laneBad r test j)

/-- The map of failed lanes onto good spares, both ascending, which both ends apply (R338). -/
def laneMap (r test : Nat) : List (Nat × Nat) := (failedLanes r test).zip (goodSpares r test)

/-- A bundle direction is repaired (R338). -/
def dirRepaired (r test : Nat) : Bool :=
  bits r 31 1 == 0 && [68, 69, 70].all (fun i => !(laneBad r test i && laneBad r test (i + 3))) &&
    decide ((failedLanes r test).length ≤ (goodSpares r test).length)

/-- The record of a training in the format of R339: every lane that failed. -/
def trainRecord (r test : Nat) : Nat :=
  let f := (List.range 74).filter (laneBad r test)
  bits r 31 1 * 2 ^ 31 + Nat.min 7 f.length * 2 ^ 28 + (List.range 4).foldl (fun v i => v + f.getD i 0x7F * 2 ^ (7 * i)) 0

/-- A lane that the map does not list failed its test. -/
def newFail (r test : Nat) : Bool := (List.range 74).any (fun i => bits test i 1 == 1 && !(recLanes r).contains i)

/-- The lane test of a bundle direction: a bundle that either record disables is not tested (R338, R340). -/
def laneTest (ra rb test : Nat) : Nat := if bits ra 31 1 = 1 ∨ bits rb 31 1 = 1 then 0 else test

/-- Byte of the record of bundle `k` of link `l` (numbering of its lower-numbered die) for frames received by that die, or by
the other. -/
def recByte (l k : Nat) (low : Bool) : Nat := 8 * (if l < 4 then 12 * l + k else 48 + 8 * (l - 4) + k) + (if low then 0 else 4)

/-- The usable bundles of a link in the numbering of its lower-numbered die, from the lane tests of the two directions. -/
def AlwaysOn.usable (a : AlwaysOn) (l : Nat) (rxLow rxHigh : List Nat) : Nat :=
  (List.range (linkBundles l)).foldl (fun v k =>
    v + b2n (dirRepaired (a.repairRec (recByte l k true)) (rxLow.getD k 0) && dirRepaired (a.repairRec (recByte l k false)) (rxHigh.getD k 0)) * 2 ^ k) 0

/-- What one end stores at the end of a training: local mask, the partner's mask as converted, the adopted mask, the
partner's epoch, the records of each bundle, and DATA or DOWN; an active bundle starts afresh with its lane maps. `rx` and `tx` give the
record of a bundle in this end's numbering, `maps` its lane maps, `fresh` tells that a new failure was found in frames it receives. -/
def Mod.endTrained (m : Mod) (die page l loc partner epoch : Nat) (rx tx : Nat → Nat) (maps : (Nat → List (Nat × Nat)) × (Nat → List (Nat × Nat)))
    (fresh : Bool) : Mod :=
  let act := loc &&& partner
  let n := linkBundles l
  let key := endKey die page
  let before := SMap.get 0 m.lastMask key
  let m1 := (List.range n).foldl (fun (m : Mod) k => m.setReg die page (0x200 + 8 * k) (tx k * 2 ^ 32 + rx k)) m
  let m2 := ((m1.setFld die page 0x108 0 16 act).setFld die page 0x108 16 16 loc).setFld die page 0x108 32 16 partner
  let m3 := m2.setFld die page 0x110 16 16 epoch
  let m4 := if fresh then m3.irq die page 2 else m3
  let m5 := if popc 12 act < popc 12 before then m4.irq die page 1 else m4
  let m6 := { m5 with lastMask := SMap.put 0 m5.lastMask key act, bundles := SMap.dropRange m5.bundles (16 * key) (16 * key + 16) }
  if act = 0 then ((m6.linkState1 die page 5).errOpen die page 10 0 0).irq die page 0
  else
    let m7 := (List.range n).foldl (fun (m : Mod) k =>
      if bits act k 1 = 1 then m.setBundle die page k { rxMap := maps.1 k, txMap := maps.2 k } else m) m6
    (m7.linkState1 die page 3).irq die page 4

/-- An end may train: enabled, its die out of reset, and its state OFF, RESET_WAIT or TRAINING. -/
def Mod.mayTrain (m : Mod) (die page : Nat) : Bool :=
  m.linkEnabled die page && !m.dr.contains die && decide (m.linkState die page ≤ 2)

/-- An end that has not begun a training begins one: start, or after its partner's reset. -/
def Mod.beginTrain (m : Mod) (die page : Nat) : Mod :=
  match m.linkState die page with | 0 => m.endTrain die page 0 | 1 => m.endTrain die page 1 | _ => m

/-- TRAINING: link `l` trains to its end (R342). `rxLow` and `rxHigh` hold the lane tests of each bundle in the numbering of
the lower-numbered die, for frames received by that die and by the other. -/
def execTraining (l : Nat) (rxLow rxHigh : List Nat) (s : State) : Ans :=
  match linkTable[l]? with
  | none => .fault (.noSuchAgent l)
  | some (da, pa, db, pb) =>
    let m := s.mod
    .next (if !(s.aon.powered && m.mayTrain da pa && m.mayTrain db pb) then s
      else
        let a := s.aon
        let m1 := (m.beginTrain da pa).beginTrain db pb
        let u := a.usable l rxLow rxHigh
        let locA := u &&& m1.fld da pa 0x100 16 12
        let locB := convMask l u &&& m1.fld db pb 0x100 16 12
        let ra := fun (k : Nat) => a.repairRec (recByte l k true)
        let rb := fun (k : Nat) => a.repairRec (recByte l k false)
        let xa := fun (k : Nat) => laneTest (ra k) (rb k) (rxLow.getD k 0)
        let xb := fun (k : Nat) => laneTest (ra k) (rb k) (rxHigh.getD k 0)
        let ta := fun (k : Nat) => trainRecord (ra k) (xa k)
        let tb := fun (k : Nat) => trainRecord (rb k) (xb k)
        let ma := fun (k : Nat) => laneMap (ra k) (xa k)
        let mb := fun (k : Nat) => laneMap (rb k) (xb k)
        let cv := convBundle l
        let n := List.range (linkBundles l)
        let m2 := m1.endTrained da pa l locA (convMask l locB) (a.epoch db) ta tb (ma, mb) (n.any (fun k => newFail (ra k) (xa k)))
        let m3 := m2.endTrained db pb l locB (convMask l locA) (a.epoch da) (fun k => tb (cv k)) (fun k => ta (cv k))
          (fun k => mb (cv k), fun k => ma (cv k)) (n.any (fun k => newFail (rb k) (xb k)))
        { s with mod := m3 })

/-- TRAIN_ACK_TIMEOUT: an end that trains, or begins to, has had no TRAIN_ACK for 1 ms and enters DOWN: one still OFF or in RESET_WAIT whose
partner is out of DR begins a training with it (R342, R344). -/
def execTrainAckTimeout (die page : Nat) (s : State) : Ans :=
  match linkPartner die page with
  | some x =>
    let m := s.mod
    .next (if s.aon.powered = true ∧ (m.linkState die page = 2 ∨ (m.linkState die page ≤ 1 ∧ m.linkEnabled die page = true ∧ m.dr.contains die = false ∧
        (m.linkState die page = 0 ∨ m.dr.contains x.1 = false))) then
      { s with mod := (((m.beginTrain die page).linkState1 die page 5).errOpen die page 10 0 0).irq die page 0 } else s)
  | none => .fault (.noSuchAgent (endKey die page))

/-- DOWN_RETRY: a link in DOWN trains again while ENABLE is 1 at both ends. -/
def execDownRetry (die page : Nat) (s : State) : Ans :=
  match linkPartner die page with
  | none => .fault (.noSuchAgent (endKey die page))
  | some x =>
    let m := s.mod
    .next (if m.linkState die page = 5 ∧ m.linkEnabled die page = true ∧ m.linkEnabled x.1 x.2 = true then { s with mod := m.retrain die page 6 } else s)

/-! ### Beacons and notices (R343, R344) -/

/-- BEACON_SEND: an end in DATA or LP sends its epoch and adopted mask to its partner. -/
def execBeaconSend (die page : Nat) (s : State) : Ans :=
  match linkPartner die page with
  | none => .fault (.noSuchAgent (endKey die page))
  | some x =>
    let m := s.mod
    .next (if m.inData die page then
      { s with mod := { m with beacons := m.beacons ++
          [{ die := x.1, page := x.2, epoch := s.aon.epoch die, mask := m.fld die page 0x108 0 12 }] } } else s)

/-- BEACON_RECEIVE: the oldest beacon on its way to an end arrives, and is compared in DATA or LP. -/
def execBeaconReceive (die page : Nat) (s : State) : Ans :=
  match linkOf die page with
  | none => .fault (.noSuchAgent (endKey die page))
  | some (l, _) =>
    let m := s.mod
    .next (match m.beacons.find? (fun b => b.die == die && b.page == page) with
      | none => s
      | some b =>
        let m1 := { m with beacons := m.beacons.erase b }
        let act := m.fld die page 0x108 0 12
        let got := convMask l b.mask
        { s with mod :=
            if !m.inData die page then m1
            else if b.epoch ≠ m.fld die page 0x110 16 16 then m1.retrain die page 2
            else if got = act then m1
            else ((m1.errOpen die page 8 (act + got * 2 ^ 16) 0).irq die page 3).retrain die page 3 })

/-- BEACON_LOST: no beacon for 3 ms in DATA or LP. -/
def execBeaconLost (die page : Nat) (s : State) : Ans :=
  if isLinkEnd die page then .next (if s.mod.inData die page then { s with mod := s.mod.errOpen die page 9 0 0 } else s)
  else .fault (.noSuchAgent (endKey die page))

/-- RESET_NOTICE: the partner's die is in DR, and the end leaves data mode for RESET_WAIT. -/
def execResetNotice (die page : Nat) (s : State) : Ans :=
  match linkPartner die page with
  | none => .fault (.noSuchAgent (endKey die page))
  | some x =>
    .next (if s.mod.dr.contains x.1 && !s.mod.dr.contains die && decide (s.mod.linkState die page ≠ 5 ∨ s.mod.linkEnabled die page = true) then
      { s with mod := (s.mod.linkState1 die page 1).linkDrop die page } else s)

/-! ### Writes of the page (R344, R347) -/

/-- Both ends of a link change between DATA and LP. -/
def Mod.linkLp (m : Mod) (die page from_ goal : Nat) : Mod :=
  let one := fun (m : Mod) (d p : Nat) =>
    if m.linkState d p = from_ then (let m1 := m.linkState1 d p goal; if goal = 3 then m1.irq d p 4 else m1) else m
  match linkPartner die page with
  | some x => one (one m die page) x.1 x.2
  | none => m

/-- What a write of DIELINK_CTRL does beside storing ALLOW and LP: LP set or cleared, and RETRAIN. An unused port ignores it (R8). -/
def Mod.linkCtrl (m : Mod) (q die page we wv : Nat) : Mod :=
  if !isLinkEnd die page then m
  else
    let before := m.fld die page 0x100 1 1
    let m1 := m.commonWrite q die page 0x100 we wv
    let now := m1.fld die page 0x100 1 1
    let m2 := if before = 0 ∧ now = 1 then m1.linkLp die page 3 4 else if before = 1 ∧ now = 0 then m1.linkLp die page 4 3 else m1
    if bits we 0 1 = 1 ∧ bits wv 0 1 = 1 then m2.retrain die page 5 else m2

/-- A write of PAGE_CTRL has changed ENABLE of a DIELINK page: cleared, the end enters DOWN, a training of it ending there, and the other end's
training cannot complete (R344, R348). -/
def Mod.linkDisabled (m : Mod) (die page : Nat) : Mod :=
  match linkPartner die page with
  | none => m
  | some x =>
    let m0 := if m.linkState die page = 2 then m.errOpen die page 10 0 0 else m
    let m1 := (m0.linkState1 die page 5).irq die page 0
    (if m.inData x.1 x.2 then m1.endTrain x.1 x.2 (m.fld x.1 x.2 0x108 48 4) else m1).linkDrop die page

/-- A packet is ready to cross at an end of a link. -/
def Mod.linkWaits (m : Mod) (die page : Nat) : Bool := (List.range 12).any (fun k => !(m.linkReady die page k).isEmpty)

/-- LP_EXIT by a frame that is ready at either end of a link in LP; it has waited until now (R347). -/
def Mod.lpWake (m : Mod) (die page : Nat) : Mod :=
  if m.linkWaits die page || (match linkPartner die page with | some x => m.linkWaits x.1 x.2 | none => false) then m.linkLp die page 4 3 else m

end Sys2Proof.Machine
end

