-- ==== Sys2Proof/Machine/Crypto.lean ====
section
/-! DEFINITION. The Keeper's algorithms (R430), over lists of bytes: SHA-512, HMAC, HKDF and Ed25519. The spec names their
standards (FIPS 180-4, RFC 5869, FIPS 186-5); what these compute is PRESUMED from those standards (log entry 15). -/

namespace Sys2Proof.Machine

/-- The number of a list of bytes, most significant first. -/
def beNat (l : List Nat) : Nat := l.foldl (fun v b => v * 256 + b % 256) 0

/-- The number of a list of bytes, least significant first. -/
def leNat (l : List Nat) : Nat := l.foldr (fun b v => b % 256 + 256 * v) 0

/-- The bytes of a number, most significant first. -/
def beBytes (n v : Nat) : List Nat := (leBytes n v).reverse

/-! ### SHA-512 -/

def sha512K : List Nat :=
  ([ 0x428A2F98D728AE22, 0x7137449123EF65CD, 0xB5C0FBCFEC4D3B2F, 0xE9B5DBA58189DBBC,
     0x3956C25BF348B538, 0x59F111F1B605D019, 0x923F82A4AF194F9B, 0xAB1C5ED5DA6D8118,
     0xD807AA98A3030242, 0x12835B0145706FBE, 0x243185BE4EE4B28C, 0x550C7DC3D5FFB4E2,
     0x72BE5D74F27B896F, 0x80DEB1FE3B1696B1, 0x9BDC06A725C71235, 0xC19BF174CF692694,
     0xE49B69C19EF14AD2, 0xEFBE4786384F25E3, 0x0FC19DC68B8CD5B5, 0x240CA1CC77AC9C65 ] : List Nat) ++
  ([ 0x2DE92C6F592B0275, 0x4A7484AA6EA6E483, 0x5CB0A9DCBD41FBD4, 0x76F988DA831153B5,
     0x983E5152EE66DFAB, 0xA831C66D2DB43210, 0xB00327C898FB213F, 0xBF597FC7BEEF0EE4,
     0xC6E00BF33DA88FC2, 0xD5A79147930AA725, 0x06CA6351E003826F, 0x142929670A0E6E70,
     0x27B70A8546D22FFC, 0x2E1B21385C26C926, 0x4D2C6DFC5AC42AED, 0x53380D139D95B3DF,
     0x650A73548BAF63DE, 0x766A0ABB3C77B2A8, 0x81C2C92E47EDAEE6, 0x92722C851482353B ] : List Nat) ++
  ([ 0xA2BFE8A14CF10364, 0xA81A664BBC423001, 0xC24B8B70D0F89791, 0xC76C51A30654BE30,
     0xD192E819D6EF5218, 0xD69906245565A910, 0xF40E35855771202A, 0x106AA07032BBD1B8,
     0x19A4C116B8D2D0C8, 0x1E376C085141AB53, 0x2748774CDF8EEB99, 0x34B0BCB5E19B48A8,
     0x391C0CB3C5C95A63, 0x4ED8AA4AE3418ACB, 0x5B9CCA4F7763E373, 0x682E6FF3D6B2B8A3,
     0x748F82EE5DEFB2FC, 0x78A5636F43172F60, 0x84C87814A1F0AB72, 0x8CC702081A6439EC ] : List Nat) ++
  ([ 0x90BEFFFA23631E28, 0xA4506CEBDE82BDE9, 0xBEF9A3F7B2C67915, 0xC67178F2E372532B,
     0xCA273ECEEA26619C, 0xD186B8C721C0C207, 0xEADA7DD6CDE0EB1E, 0xF57D4F7FEE6ED178,
     0x06F067AA72176FBA, 0x0A637DC5A2C898A6, 0x113F9804BEF90DAE, 0x1B710B35131C471B,
     0x28DB77F523047D84, 0x32CAAB7B40C72493, 0x3C9EBE0A15C9BEBC, 0x431D67C49C100D4C,
     0x4CC5D4BECB3E42B6, 0x597F299CFC657E2A, 0x5FCB6FAB3AD6FAEC, 0x6C44198C4A475817 ] : List Nat)

def sha512Init : List Nat :=
  [ 0x6A09E667F3BCC908, 0xBB67AE8584CAA73B, 0x3C6EF372FE94F82B, 0xA54FF53A5F1D36F1,
    0x510E527FADE682D1, 0x9B05688C2B3E6C1F, 0x1F83D9ABFB41BD6B, 0x5BE0CD19137E2179 ]

def ror64 (x n : Nat) : Nat := x / 2 ^ n + x % 2 ^ n * 2 ^ (64 - n)

/-- The next word of the message schedule, from the words so far, newest first. -/
def shaNext (w : List Nat) : Nat :=
  let a := w.getD 1 0
  let b := w.getD 14 0
  let s1 := ror64 a 19 ^^^ ror64 a 61 ^^^ (a / 2 ^ 6)
  let s0 := ror64 b 1 ^^^ ror64 b 8 ^^^ (b / 2 ^ 7)
  (s1 + w.getD 6 0 + s0 + w.getD 15 0) % 2 ^ 64

def shaSchedule : Nat → List Nat → List Nat
  | 0, w => w
  | n + 1, w => shaSchedule n (shaNext w :: w)

/-- One round on the eight working variables. -/
def shaRound (v : List Nat) (kw : Nat × Nat) : List Nat :=
  match v with
  | [a, b, c, d, e, f, g, h] =>
    let t1 := h + (ror64 e 14 ^^^ ror64 e 18 ^^^ ror64 e 41) + ((e &&& f) ^^^ ((2 ^ 64 - 1 - e) &&& g)) + kw.1 + kw.2
    let t2 := (ror64 a 28 ^^^ ror64 a 34 ^^^ ror64 a 39) + ((a &&& b) ^^^ (a &&& c) ^^^ (b &&& c))
    [(t1 + t2) % 2 ^ 64, a, b, c, (d + t1) % 2 ^ 64, e, f, g]
  | _ => v

/-- The words of a block, 8 bytes each. -/
def beWords : Nat → List Nat → List Nat
  | 0, _ => []
  | n + 1, l => beNat (l.take 8) :: beWords n (l.drop 8)

def shaBlock (h block : List Nat) : List Nat :=
  let w := (shaSchedule 64 (beWords 16 block).reverse).reverse
  let v := (sha512K.zip w).foldl shaRound h
  (h.zip v).map (fun p => (p.1 + p.2) % 2 ^ 64)

def shaBlocks : Nat → List Nat → List Nat → List Nat
  | 0, h, _ => h
  | n + 1, h, l => shaBlocks n (shaBlock h (l.take 128)) (l.drop 128)

/-- SHA-512 of a list of bytes, as 64 bytes. -/
def sha512 (m : List Nat) : List Nat :=
  let pad := (239 - m.length % 128) % 128
  let l := m ++ [128] ++ List.replicate pad 0 ++ beBytes 16 (8 * m.length)
  (shaBlocks (l.length / 128) sha512Init l).flatMap (beBytes 8)

/-! ### HMAC and HKDF -/

def hmac512 (key msg : List Nat) : List Nat :=
  let k0 := if 128 < key.length then sha512 key else key
  let k := k0 ++ List.replicate (128 - k0.length) 0
  sha512 (k.map (fun b => b ^^^ 0x5C) ++ sha512 (k.map (fun b => b ^^^ 0x36) ++ msg))

/-- HKDF-SHA-512 for at most 64 bytes: one block of the expansion. -/
def hkdf512 (salt ikm info : List Nat) (len : Nat) : List Nat := (hmac512 (hmac512 salt ikm) (info ++ [1])).take len

/-! ### Ed25519 -/

def edP : Nat := 2 ^ 255 - 19
def edL : Nat := 2 ^ 252 + 27742317777372353535851937790883648493
/-- x to the power e modulo m, over `n` bits of e, least significant first. -/
def powMod (m : Nat) : Nat → Nat → Nat → Nat → Nat
  | 0, _, _, acc => acc
  | n + 1, x, e, acc => powMod m n (x * x % m) (e / 2) (if e % 2 = 1 then acc * x % m else acc)

def edPow (x e : Nat) : Nat := powMod edP 256 (x % edP) e 1
def edInv (x : Nat) : Nat := edPow x (edP - 2)
def edSub (x y : Nat) : Nat := (x + edP - y % edP) % edP
def edD : Nat := edSub 0 (121665 * edInv 121666)

/-- A point in extended coordinates. -/
structure EdPoint where
  x : Nat
  y : Nat
  z : Nat
  t : Nat

def edAdd (p q : EdPoint) : EdPoint :=
  let a := edSub p.y p.x * edSub q.y q.x % edP
  let b := (p.y + p.x) * (q.y + q.x) % edP
  let c := 2 * p.t * q.t % edP * edD % edP
  let d := 2 * p.z * q.z % edP
  let e := edSub b a
  let f := edSub d c
  let g := (d + c) % edP
  let h := (b + a) % edP
  { x := e * f % edP, y := g * h % edP, z := f * g % edP, t := e * h % edP }

def edZero : EdPoint := { x := 0, y := 1, z := 1, t := 0 }

def edMul : Nat → Nat → EdPoint → EdPoint → EdPoint
  | 0, _, _, acc => acc
  | n + 1, k, p, acc => edMul n (k / 2) (edAdd p p) (if k % 2 = 1 then edAdd acc p else acc)

/-- The x of a y and a sign; none when no point has them. -/
def edRecover (y sign : Nat) : Option Nat :=
  if edP ≤ y then none
  else
    let x2 := edSub (y * y) 1 * edInv (edD * y * y + 1) % edP
    if x2 = 0 then (if sign = 1 then none else some 0)
    else
      let r := edPow x2 ((edP + 3) / 8)
      let x := if r * r % edP = x2 then r else r * edPow 2 ((edP - 1) / 4) % edP
      if x * x % edP ≠ x2 then none
      else some (if x % 2 = sign then x else edP - x)

def edPoint (x y : Nat) : EdPoint := { x := x, y := y, z := 1, t := x * y % edP }

def edBase : EdPoint :=
  let y := 4 * edInv 5 % edP
  edPoint ((edRecover y 0).getD 0) y

def edDecode (l : List Nat) : Option EdPoint :=
  let v := leNat l
  let y := v % 2 ^ 255
  (edRecover y (v / 2 ^ 255 % 2)).map (fun x => edPoint x y)

def edEncode (p : EdPoint) : List Nat :=
  let zi := edInv p.z
  leBytes 32 (p.y * zi % edP + p.x * zi % edP % 2 * 2 ^ 255)

def edEq (p q : EdPoint) : Bool := p.x * q.z % edP == q.x * p.z % edP && p.y * q.z % edP == q.y * p.z % edP

/-- The public key of a 32-byte seed. -/
def edPublic (seed : List Nat) : List Nat :=
  let h := sha512 seed
  let a := leNat (h.take 32) % 2 ^ 254 / 8 * 8 + 2 ^ 254
  edEncode (edMul 256 a edBase edZero)

/-- The signature of a message under a seed. -/
def edSign (seed msg : List Nat) : List Nat :=
  let h := sha512 seed
  let a := leNat (h.take 32) % 2 ^ 254 / 8 * 8 + 2 ^ 254
  let pub := edEncode (edMul 256 a edBase edZero)
  let r := leNat (sha512 (h.drop 32 ++ msg)) % edL
  let rs := edEncode (edMul 256 r edBase edZero)
  let k := leNat (sha512 (rs ++ pub ++ msg)) % edL
  rs ++ leBytes 32 ((r + k * a) % edL)

/-- A signature verifies under a public key. -/
def edVerify (pub msg sig : List Nat) : Bool :=
  match edDecode pub, edDecode (sig.take 32) with
  | some a, some r =>
    let s := leNat (sig.drop 32)
    let k := leNat (sha512 (sig.take 32 ++ pub ++ msg)) % edL
    sig.length == 64 && decide (s < edL) && edEq (edMul 256 s edBase edZero) (edAdd r (edMul 256 k a edZero))
  | _, _ => false

end Sys2Proof.Machine
end

