-- ==== Sys2Proof/Machine/Keeper.lean ====
section
/-! DEFINITION. The Keeper's boot (R435 to R443, R447): flash and OTP, the image and its checks, keys, and the loading of
stewards; configuration agreement (R31 to R38): die digests, reports and their classification. -/

namespace Sys2Proof.Machine

/-! ### The KEEPER page -/

def Mod.kp (m : Mod) (off lo w : Nat) : Nat := m.fld 4 keeperPage off lo w
def Mod.setKp (m : Mod) (off lo w v : Nat) : Mod := m.setFld 4 keeperPage off lo w v

/-- KEEPER_STAT.STATE: 0 BOOT, 1 RUN, 2 RECOVERY, 3 ERROR, 4 ZEROISED, 5 END. -/
def Mod.kState (m : Mod) : Nat := m.kp 0x100 0 4
def Mod.setKState (m : Mod) (v : Nat) : Mod := m.setKp 0x100 0 4 v
def Mod.setReason (m : Mod) (v : Nat) : Mod := m.setKp 0x100 8 8 v
def Mod.onKeeper (m : Mod) (f : Keeper → Keeper) : Mod := { m with keeper := f m.keeper }

/-! ### Flash (R440) -/

def AlwaysOn.flashByte (a : AlwaysOn) (o : Nat) : Nat := (SMap.get 0xFF a.flash o).toNat
def AlwaysOn.flashBytes (a : AlwaysOn) (o n : Nat) : List Nat := (List.range n).map (fun i => a.flashByte (o + i))

/-- Erase a range of the flash. -/
def AlwaysOn.erase (a : AlwaysOn) (lo hi : Nat) : AlwaysOn := { a with flash := SMap.dropRange a.flash lo hi }

/-- Program bytes at an offset. -/
def AlwaysOn.program (a : AlwaysOn) (o : Nat) (l : List Nat) : AlwaysOn :=
  { a with flash := (l.foldl (fun (x : SMap Byte × Nat) b => (SMap.put 0xFF x.1 x.2 (BitVec.ofNat 8 b), x.2 + 1)) (a.flash, o)).1 }

/-- Bytes of the image region, of the public record block, and the end of the flash. -/
def imageTop : Nat := 0x800000
def recordBase : Nat := 0x3E00000
def recordTop : Nat := 0x3F00000

/-! ### The image (R441, R442) -/

/-- A little-endian field of a list of bytes. -/
def leField (b : List Nat) (o n : Nat) : Nat := leNat ((b.drop o).take n)

/-- Entry `i` of the manifest's table. -/
structure Comp where
  type : Nat
  off : Nat
  len : Nat
  digest : List Nat
  deriving DecidableEq, Repr

def compOf (b : List Nat) (i : Nat) : Comp :=
  let o := 0x40 + 96 * i
  { type := leField b o 4, off := leField b (o + 8) 8, len := leField b (o + 16) 8, digest := (b.drop (o + 32)).take 64 }

def compsOf (b : List Nat) : List Comp := (List.range (leField b 6 2)).map (compOf b)

/-- Zero bytes from an offset. -/
def zeros (b : List Nat) (o n : Nat) : Bool := ((b.drop o).take n).all (fun x => x == 0)

/-- Two components overlap. -/
def Comp.overlaps (x y : Comp) : Bool := decide (x.off < y.off + y.len) && decide (y.off < x.off + x.len)

/-- No component overlaps a later one. -/
def noOverlap : List Comp → Bool
  | [] => true
  | x :: t => t.all (fun y => !x.overlaps y) && noOverlap t

/-- The layout rules of R441. -/
def formatOk (b : List Nat) : Bool :=
  let cs := compsOf b
  let n := leField b 6 2
  let len := leField b 0x10 8
  leField b 0 4 == 0x49564350 && leField b 4 2 == 1 && decide (5 ≤ n) && decide (n ≤ 16) && decide (leField b 8 4 ≤ 64) &&
    zeros b 0xC 4 && decide (4096 ≤ len) && decide (len ≤ imageTop) && zeros b 0x640 0x980 &&
    (List.range 16).all (fun i => let o := 0x40 + 96 * i; if i < n then zeros b (o + 4) 4 && zeros b (o + 24) 8 else zeros b o 96) &&
    (List.range 5).all (fun t => (cs.filter (fun c => c.type == t + 1)).length == 1) &&
    cs.all (fun c => decide (1 ≤ c.type) && decide (c.type ≤ 16) && decide (4096 ≤ c.off) && decide (c.off + c.len ≤ len) &&
      (!(c.type == 2 || c.type == 3) || decide (c.len ≤ 0x100000))) && noOverlap cs

/-- The checks of R442 except for the component digests: the REASON of R436 that fails, or 0. An erased manifest is no
manifest (R446). -/
def AlwaysOn.manifestReason (a : AlwaysOn) (b : List Nat) : Nat :=
  if b.all (fun x => x == 0xFF) then 0x06
  else if !formatOk b then 0x04
  else if beNat (sha512 ((b.drop 0x20).take 32)) ≠ beNat (leBytes 64 a.vendorKey) then 0x05
  else if !edVerify ((b.drop 0x20).take 32) (sha512 (b.take 0xFC0)) ((b.drop 0xFC0).take 64) then 0x01
  else if leField b 8 4 < a.rollback then 0x03
  else 0

/-- The format of a steward firmware component (R77). -/
def fwOk (f : List Nat) : Bool :=
  let p := leField f 4 4
  leField f 0 4 == 0x53564350 && decide (1 ≤ p) && decide (p ≤ 65536) && decide (leField f 8 4 ≤ 0x200000) && zeros f 14 2 &&
    16 + 2 * p + leField f 8 4 == f.length

/-- The REASON of R436 for the components of an image, given their bytes: a digest that differs, or steward firmware that breaks its
format (R77), or 0. -/
def compsReason (cs : List Comp) (bytes : List (List Nat)) : Nat :=
  if !(cs.zip bytes).all (fun x => sha512 x.2 == x.1.digest) then 0x02
  else if !(cs.zip bytes).all (fun x => !(x.1.type == 2 || x.1.type == 3) || fwOk x.2) then 0x04
  else 0

/-- The image in the flash: its REASON, or 0 when it is valid. -/
def AlwaysOn.imageReason (a : AlwaysOn) : Nat :=
  let b := a.flashBytes 0 4096
  let r := a.manifestReason b
  if r ≠ 0 then r
  else
    let cs := compsOf b
    compsReason cs (cs.map (fun c => a.flashBytes c.off c.len))

/-! ### Keys (R447) -/

/-- Bytes of an ASCII string. -/
def ascii (s : String) : List Nat := s.toList.map Char.toNat

/-- LCB of the life-cycle state. -/
def AlwaysOn.lcb (a : AlwaysOn) : Nat := a.lc + 1

/-- The private seeds of DeviceID and alias for an image. -/
def AlwaysOn.seeds (a : AlwaysOn) (cs : List Comp) (svn : Nat) : Nat × Nat :=
  let uds := leBytes 32 a.uds
  let cdiD := hkdf512 (leBytes 64 Config.bootRomDigest) uds (ascii "PCV-DEVID" ++ [a.lcb]) 64
  let m := sha512 ((cs.flatMap (fun c => c.digest)) ++ leBytes 4 svn)
  let cdiA := hkdf512 m cdiD (ascii "PCV-ALIAS" ++ [a.lcb]) 64
  (leNat (cdiD.take 32), leNat (cdiA.take 32))

/-- The protected store's keys, readable while its seal is bound to the present life-cycle state (R440, R447). -/
def AlwaysOn.coPub (a : AlwaysOn) : Option Nat := if a.storeLcb = a.lcb then a.coKey else none
def AlwaysOn.userPub (a : AlwaysOn) : Option Nat := if a.storeLcb = a.lcb then a.userKey else none

/-! ### Stewards -/

/-- Place parcels in a program memory from an address. -/
def loadParcels (c : Nat) : Nat → List Nat → Mod → Mod
  | _, [], m => m
  | i, v :: t, m => loadParcels c (i + 1) t (m.setParcel c i (BitVec.ofNat 14 v))

/-- XP and WL of every segment that holds one of `p` parcels. -/
def loadedSegs (p : Nat) : Nat := (2 ^ ((p + 4095) / 4096) - 1) * 0x10001

/-- Write bytes into a byte memory. -/
def Mod.wrList8 (m : Mod) (k : Nat) (l : List Nat) : Mod := m.wr k l.length (leNat l)

/-- The Keeper loads a die's steward from the flash and starts it (R77, R443). Where in the local memory beyond the firmware's data the
default configuration lies is an open value (log entry 17). -/
def AlwaysOn.loadSteward (a : AlwaysOn) (d : Nat) (m : Mod) : Mod :=
  let cs := compsOf (a.flashBytes 0 4096)
  let c := 0x3F0 + d
  match cs.find? (fun x => x.type == if d < 4 then 2 else 3), cs.find? (fun x => x.type == 5) with
  | some fw, some cfg =>
    let f := a.flashBytes fw.off fw.len
    let p := leField f 4 4
    let dn := leField f 8 4
    let x := m.free
    let at_ := dn + x.1 % (0x200001 - dn)
    let m1 := x.2.wrList8 (loftKey c) ((f.drop (16 + 2 * p)).take dn)
    let m2 := m1.wrList8 (loftKey c + at_) ((a.flashBytes cfg.off cfg.len).take (0x200000 - at_))
    let m3 := loadParcels c 0 ((List.range p).map (fun i => leField f (16 + 2 * i) 2)) m2
    let m4 := m3.setCore c { Core.reset with running := true, seg := loadedSegs p, pc := BitVec.ofNat 16 (leField f 12 2) }
    (m4.onKeeper (fun k => ({ k with running := SMap.put 0 k.running d (leNat fw.digest), reload := k.reload.filter (fun e => e != d) } : Keeper))).setKp
      0x100 (24 + d) 1 1
  | _, _ => m

/-! ### Boot (R443, R435, R444, R451) -/

/-- A failed self-test puts the Keeper into ERROR (R436). -/
def Mod.keeperError (m : Mod) (reason : Nat) : Mod := ((m.setKState 3).setReason reason).irq 4 keeperPage 4

/-- A REASON of the boot ROM's own tests, which come before everything else (R435). -/
def romTest (test : Nat) : Bool := [0x10, 0x11, 0x12, 0x16, 0x17, 0x18].contains test

/-- The STATE that a boot ends in: `test` is the REASON of a self-test that fails, or 0 (R435, R436, R443, R444, R451). -/
def AlwaysOn.bootState (a : AlwaysOn) (test : Nat) : Nat :=
  if romTest test then 3 else if a.lc = 3 then 5 else if a.imageReason ≠ 0 then 2 else if test ≠ 0 then 3 else 1

/-- The Keeper starts after a PO or an MR. -/
def keeperBoot (test : Nat) (a : AlwaysOn) (m : Mod) : AlwaysOn × Mod :=
  match a.bootState test with
  | 5 => (a, { m.setKState 5 with dr := List.range 6 })
  | 3 => (a, { m.keeperError test with dr := List.range 6 })
  | 2 => (a, { (m.setKState 2).setReason a.imageReason with dr := [0, 1, 2, 3, 5] })
  | _ =>
      let b := a.flashBytes 0 4096
      let cs := compsOf b
      let svn := leField b 8 4
      let k := a.seeds cs svn
      let m1 := m.onKeeper (fun x => ({ x with comps := cs.map (fun c => (c.type, leNat c.digest)), svn := svn, vendorPub := leField b 0x20 32,
                                               devid := some k.1, alias_ := some k.2, reload := [] } : Keeper))
      let m2 := (List.range 6).foldl (fun (x : Mod) d => a.loadSteward d x) m1
      let a1 := { a with rollFuses := a.rollFuses ||| (if a.rollback < svn then 2 ^ svn - 2 ^ a.rollback else 0) }
      (a1, m2.setKState 1)

/-- STEWARD_RELOAD: after the DR of a compute die, the Keeper has checked the image, and loads and releases its steward
(R443, R446). An update in progress, or an image that is not valid, holds the steward unloaded. -/
def execStewardReload (d : Nat) (s : State) : Ans :=
  if d < 4 then
    let m := s.mod
    .next (if m.keeper.reload.contains d && !m.dr.contains d && m.keeper.update.isNone && (m.kState == 1 || m.kState == 4) && s.aon.imageReason == 0 then
      { s with mod := s.aon.loadSteward d m } else s)
  else .fault (.noSuchAgent d)

/-! ### Die digests (R31 to R34) -/

/-- A write of DIGEST_CTRL: GO starts a walk unless one is in progress (R32). -/
def Mod.digestCtrl (m : Mod) (q die we wv : Nat) : Mod :=
  let page := digestPage die
  let m1 := m.commonWrite q die page 0x100 we wv
  if bits we 32 1 = 0 ∨ bits wv 32 1 = 0 ∨ m1.walkBusy die = true then m1
  else (m1.setFld die page 0x108 0 5 1).setWalk die { epoch := m1.fld die page 0x100 0 32 }

/-- The walk of a die visits every page it has left. -/
def Mod.digestRest (m : Mod) (die : Nat) : Mod := m.digestVisit die ((diePages die).filter (fun p => decide ((m.walkOn die).next ≤ p)))

/-- The report of a walk that has visited every page: epoch, digest and flags (R33). -/
def DigestWalk.report (w : DigestWalk) : Report0 :=
  { epoch := w.epoch, digest := leNat (sha512 w.bytes), disturbed := w.disturbed, ahead := w.ahead, dirty := w.dirty }

/-- DIGEST_WALK_DONE: the walk of a die visits its last pages and ends, and its report leaves for the Keeper (R33). -/
def execDigestWalkDone (die : Nat) (s : State) : Ans :=
  if 6 ≤ die then .fault (.noSuchAgent die)
  else if !s.mod.walkBusy die then .next s
  else
    let page := digestPage die
    let m := s.mod.digestRest die
    let r := (m.walkOn die).report
    let m1 := (List.range 8).foldl (fun (x : Mod) i => x.setReg die page (0x110 + 8 * i) (bits r.digest (64 * i) 64)) m
    let m2 := (m1.setFld die page 0x108 0 2 2).setWalk die {}
    .next { s with mod := m2.onKeeper (fun k => ({ k with inbox := k.inbox ++ [(die, r)] } : Keeper)) }

/-! ### Classification (R35 to R38) -/

/-- KEEPER_CFG_EXPECT of a die. -/
def Mod.expected (m : Mod) (d : Nat) : Nat := (List.range 8).foldl (fun v i => v + m.reg 4 keeperPage (0x440 + d * 0x40 + 8 * i) * 2 ^ (64 * i)) 0

/-- Result code of a die (R36). A report above E or with AHEAD set reads AHEAD whatever else holds of it, DISTURBED and a report at or below E
among them: the table's conditions overlap, and the spec does not order them (DESIGN CHOICE, log entry 115). -/
def Mod.classify (m : Mod) (d : Nat) : Nat :=
  let e := m.kp 0x400 0 32
  let late := if m.keeper.expired.contains d then 3 else 0
  match SMap.get none m.keeper.reports d with
  | none => late
  | some r =>
    if e < r.epoch ∨ r.ahead = true then 4
    else if r.epoch = e ∧ r.disturbed = false then (if r.digest = m.expected d then 1 else 2)
    else late

/-- Store a result; a transition to DIVERGE, STALE or AHEAD raises its cause (R37). -/
def Mod.setResult (m : Mod) (d v : Nat) : Mod :=
  let old := m.kp 0x410 (4 * d) 4
  let m1 := m.setKp 0x410 (4 * d) 4 v
  if old = v then m1 else if 2 ≤ v then m1.irq 4 keeperPage (v - 1) else m1

/-- Evaluate every die's result; the Keeper does so in RUN only (R433, R436). The DIVERGE of a die stays unless its own report `who` has just
come (R37). -/
def Mod.classifyAll (m : Mod) (who : Option Nat) : Mod :=
  if m.kState = 1 then (List.range 6).foldl (fun (x : Mod) d =>
    if x.kp 0x410 (4 * d) 4 = 2 ∧ who ≠ some d then x else x.setResult d (x.classify d)) m
  else m

/-- KEEPER_DIGEST_REPORT: the oldest report on its way reaches the Keeper. -/
def execKeeperDigestReport (s : State) : Ans :=
  .next (match s.mod.keeper.inbox with
    | [] => s
    | x :: t =>
      let m := s.mod.onKeeper (fun k => ({ k with inbox := t } : Keeper))
      if m.kState ≠ 1 then { s with mod := m }
      else { s with mod := (m.onKeeper (fun k => ({ k with reports := SMap.put none k.reports x.1 (some x.2) } : Keeper))).classifyAll (some x.1) })

/-- A write of KEEPER_CFG_EPOCH (R35): only a raise by 1 is stored, and sets every result to PENDING before the reports are evaluated anew
(R36); 0xFFFF_FFFF is not advanced. -/
def Mod.keeperEpoch (m : Mod) (q we wv : Nat) : Mod :=
  let old := m.kp 0x400 0 32
  let new := (old &&& (2 ^ 32 - 1 - we % 2 ^ 32)) ||| (wv &&& we) % 2 ^ 32
  if new = old + 1 ∧ new < 2 ^ 32 then
    let m1 := (m.setReg 4 keeperPage 0x400 new).onKeeper (fun k => ({ k with expired := [] } : Keeper))
    ((List.range 6).foldl (fun (x : Mod) d => x.setKp 0x410 (4 * d) 4 0) m1).classifyAll none
  else m.err 4 keeperPage 3 q 0 (regMpa 4 keeperPage 0x400)

/-- CONFIG_STALE: KEEPER_CFG_TIMEOUT passes for a die. -/
def execConfigStale (d : Nat) (s : State) : Ans :=
  if d < 6 then
    .next (if s.mod.kState = 1 ∧ s.mod.kp 0x410 (4 * d) 4 = 0 then
      { s with mod := (s.mod.onKeeper (fun k => ({ k with expired := if k.expired.contains d then k.expired else k.expired ++ [d] } : Keeper))).classifyAll none }
      else s)
  else .fault (.noSuchAgent d)

/-- KEEPER_RESET_NOTICE: the notice of a DR reaches the Keeper (R38). -/
def execKeeperResetNotice (s : State) : Ans :=
  .next (match s.mod.keeper.notices with
    | [] => s
    | d :: t =>
      let m := s.mod.onKeeper (fun k => ({ k with notices := t, reports := SMap.put none k.reports d none, expired := k.expired.filter (fun e => e != d) } : Keeper))
      { s with mod := (m.setKp 0x410 (4 * d) 4 0).classifyAll none })

end Sys2Proof.Machine
end

