-- ==== Sys2Proof/Machine/Power.lean ====
section
/-! DEFINITION. Power and thermal management: operating points (R458 to R460), clock stretching (R461, R462), budgets and
power reports (R463 to R465), sensors and throttling (R466), and what the input and J1, J2 pins show (R454, R465, R467). A half
is named by its die and 0 (north, or a Barn's logic) or 1 (south). -/

namespace Sys2Proof.Machine

/-- Key of a half. -/
def halfKey (die half : Nat) : Nat := die * 2 + half

/-- A half that exists: two on a compute die, one on a Barn. -/
def isHalf (die half : Nat) : Bool := (decide (die < 4) && decide (half < 2)) || ((die == 4 || die == 5) && half == 0)

/-- Registers of a PWR page and of a THERM page. -/
def Mod.pwr (m : Mod) (die off lo w : Nat) : Nat := m.fld die (pwrPage die) off lo w
def Mod.setPwr (m : Mod) (die off lo w v : Nat) : Mod := m.setFld die (pwrPage die) off lo w v

/-! ### Pins -/

/-- PWR_GOOD is released. -/
def State.pwrGood (s : State) : Bool := s.aon.powered

/-- A sensor of a die reads at or above ALERT_C. -/
def Mod.dieAlert (m : Mod) (die : Nat) : Bool :=
  (List.range (if die < 4 then 16 else 4)).any (fun n =>
    decide (sext 8 (m.fld die (thermPage die) 0x108 8 8) ≤ sext 8 (m.fld die (thermPage die) (0x200 + 8 * n) 0 8)))

/-- ALERT_N is asserted (R465). -/
def State.alert (s : State) : Bool :=
  decide (s.aon.vin < 4000) || decide (4800 < s.aon.vin) || s.mod.overMean || s.aon.trip.isSome ||
    (List.range 6).any (fun d => s.mod.dieAlert d)

/-- FRAME_OUT is high (R375). -/
def State.frameOutHigh (s : State) : Bool := s.mod.frameOut != 0

/-! ### Operating points (R459, R460) -/

/-- Start the change of a half to the code that PWR_OP names, unless a change is in progress or the code is in effect. -/
def Mod.opStart (m : Mod) (die half : Nat) : Mod :=
  let want := m.pwr die 0x100 (4 * half) 3
  if m.pwr die 0x108 (8 + half) 1 = 1 ∨ want = m.pwr die 0x108 (4 * half) 3 then m
  else { m.setPwr die 0x108 (8 + half) 1 1 with opTarget := SMap.put 0 m.opTarget (halfKey die half) want }

/-- A write of PWR_OP: it starts a change of each half it names; during a change it only sets the next target. -/
def Mod.pwrOp (m : Mod) (q die we wv : Nat) : Mod :=
  ((m.commonWrite q die (pwrPage die) 0x100 we wv).opStart die 0).opStart die 1

/-- OP_CHANGE_DONE: the change of a half completes; a target written meanwhile is then applied. -/
def execOpChangeDone (die half : Nat) (s : State) : Ans :=
  if decide (die < 4) && decide (half < 2) then
    let m := s.mod
    .next (if m.pwr die 0x108 (8 + half) 1 = 0 then s
      else
        let m1 := (m.setPwr die 0x108 (8 + half) 1 0).setPwr die 0x108 (4 * half) 3 (SMap.get 0 m.opTarget (halfKey die half))
        { s with mod := (m1.irq die (pwrPage die) 1).opStart die half })
  else .fault (.noSuchAgent (halfKey die half))

/-! ### Clock stretching (R461, R462) -/

/-- The three requests of a half: droop, cap, thermal. -/
def Mod.requests (m : Mod) (die half : Nat) : List Nat :=
  [SMap.get 0 m.droop (halfKey die half), SMap.get 0 m.cap (halfKey die half), SMap.get 0 m.therm (halfKey die half)]

/-- PWR_STRETCH of a half from its requests: k is the largest of them, and 0 in spine mode; a Barn's clock is stretched for droop alone
(R458, R466). A half that leaves spine mode takes its largest request at once (log entry 113). -/
def Mod.stretch (m : Mod) (die half : Nat) : Mod :=
  let r := if die < 4 then m.requests die half else (m.requests die half).take 1
  let k := if m.spine die half ∧ die < 4 then 0 else r.foldl Nat.max 0
  let cause := b2n (r.getD 0 0 != 0) + 2 * b2n (r.getD 1 0 != 0) + 4 * b2n (r.getD 2 0 != 0)
  (m.setPwr die 0x128 (4 * half) 4 k).setPwr die 0x128 (8 + 4 * half) 3 cause

def Mod.setDroop (m : Mod) (die half v : Nat) : Mod :=
  ({ m with droop := SMap.put 0 m.droop (halfKey die half) v } : Mod).stretch die half

def Mod.setCap (m : Mod) (die half v : Nat) : Mod :=
  ({ m with cap := SMap.put 0 m.cap (halfKey die half) v } : Mod).stretch die half

def Mod.setTherm (m : Mod) (die half v : Nat) : Mod :=
  ({ m with therm := SMap.put 0 m.therm (halfKey die half) v } : Mod).stretch die half

/-- Whether a die's own power hardware acts: the module is on and the die is not in reset. -/
def State.dieOn (s : State) (die : Nat) : Bool := s.aon.powered && !s.mod.dr.contains die

/-- DROOP_DETECT: a detector of the half senses a sag. -/
def execDroopDetect (die half : Nat) (s : State) : Ans :=
  if isHalf die half then
    let m := s.mod
    let key := halfKey die half
    .next (if !s.dieOn die then s
      else
        let m1 := { m with sag := if m.sag.contains key then m.sag else m.sag ++ [key] }
        { s with mod := ((if die < 4 then m1.dieEv die 0x4C 0 1 else m1).addReg die (pwrPage die) 0x148 1).setDroop die half (Nat.max 1 (SMap.get 0 m.droop key)) })
  else .fault (.noSuchAgent (halfKey die half))

/-- DROOP_STEP: 2 ns have passed with a detector of the half still sensing a sag (`up`), or 125 ns with none. -/
def execDroopStep (die half : Nat) (up : Bool) (s : State) : Ans :=
  if isHalf die half then
    let m := s.mod
    let key := halfKey die half
    let d := SMap.get 0 m.droop key
    .next (if !s.dieOn die then s
      else if up then (if m.sag.contains key then { s with mod := m.setDroop die half (Nat.min 8 (d + 1)) } else s)
      else { s with mod := ({ m with sag := m.sag.filter (fun k => k != key) } : Mod).setDroop die half (d - 1) })
  else .fault (.noSuchAgent (halfKey die half))

/-! ### Budgets (R463 to R465) -/

/-- PWR_GRANT's effect: the die's budget takes the value, unless the die is in DR. -/
def Mod.grant (m : Mod) (d watts : Nat) : Mod :=
  if m.dr.contains d then m
  else
    let m1 := (m.setPwr d 0x110 0 16 watts).setPwr d 0x110 16 16 (m.pwr d 0x110 16 16 + 1)
    { m1 with grantOk := if m1.grantOk.contains d then m1.grantOk else m1.grantOk ++ [d] }

/-- POWER_REPORT: 1 ms has passed on a die whose mean power was `avg`, and over whose ten windows the cap requests of both
halves summed to `steps`; the report reaches BW. -/
def execPowerReport (die avg steps : Nat) (s : State) : Ans :=
  if die < 6 then
    let m := s.mod
    .next (if !s.dieOn die then s
      else
        let m1 := m.setPwr die 0x120 0 16 avg
        let demand := if die < 4 then avg * (160 + steps) / 160 else 0
        let m2 := m1.setReg 4 (pwrPage 4) (0x260 + 8 * die) (avg % 65536 + demand % 65536 * 2 ^ 16 + m.pwr die 0x110 16 16 * 2 ^ 32)
        { s with mod := m2.irq 4 (pwrPage 4) 2 })
  else .fault (.noSuchAgent die)

/-- The budget in force on a compute die. -/
def Mod.budget (m : Mod) (die : Nat) : Nat := if m.grantOk.contains die then m.pwr die 0x110 0 16 else m.pwr die 0x118 0 16

/-- The cap request of a half at the end of a window whose mean was `mean`. -/
def Mod.capStep (m : Mod) (die half mean : Nat) : Mod :=
  let c := SMap.get 0 m.cap (halfKey die half)
  let b := m.budget die
  if m.spine die half then m
  else if b < mean then m.setCap die half (Nat.min 8 (c + 1))
  else if mean * 100 < 95 * b then m.setCap die half (c - 1)
  else m

/-- POWER_WINDOW: a 100 µs window of mean power `mean` ends on a die. -/
def execPowerWindow (die mean : Nat) (s : State) : Ans :=
  if die < 6 then
    .next (if !s.dieOn die then s
      else
        let m := s.mod.setPwr die 0x120 16 16 (Nat.max (s.mod.pwr die 0x120 16 16) mean)
        { s with mod := if die < 4 then (m.capStep die 0 mean).capStep die 1 mean else m })
  else .fault (.noSuchAgent die)

/-- BUDGET_LOST: 3 ms without a grant on a compute die. -/
def execBudgetLost (die : Nat) (s : State) : Ans :=
  if die < 4 then
    .next (if !s.dieOn die then s
      else
        let m := { s.mod with grantOk := s.mod.grantOk.filter (fun d => d != die) }
        { s with mod := (m.errOpen die (pwrPage die) 8 0 0).irq die (pwrPage die) 0 })
  else .fault (.noSuchAgent die)

/-- OVER_BUDGET: the 10 ms mean of input power is `mean` watts. -/
def execOverBudget (mean : Nat) (s : State) : Ans :=
  .next (if !s.dieOn 4 then s
    else
      let high := decide (105 * s.mod.pwr 4 0x200 0 12 < 100 * mean)
      let m := { s.mod with overMean := high }
      { s with mod := if high then m.irq 4 (pwrPage 4) 3 else m })

/-- VIN_WARN: VIN is now `vin`, in units of 10 mV. A crossing of 40.0 V or 48.0 V raises VIN_WARN (R465); a module that is off
powers up above 39.0 V with PWR_EN asserted and nothing latched (R454). -/
def execVinWarn (vin : Nat) (s : State) : Ans :=
  let a := { s.aon with vin := vin }
  if a.powered then
    let cross := decide (decide (s.aon.vin < 4000) ≠ decide (vin < 4000) ∨ decide (4800 < s.aon.vin) ≠ decide (4800 < vin))
    .next { s with aon := a, mod := if cross then s.mod.irq 4 (pwrPage 4) 4 else s.mod }
  else if 3900 < vin ∧ a.pwrEn = true ∧ a.overV = false ∧ a.trip.isNone = true then .next { s with aon := { a with powered := true, poDue := true } }
  else .next { s with aon := a }

/-! ### Thermal (R466, R470) -/

/-- A sensor reads `t`; THERM_MAX holds the highest reading and its sensor. -/
def Mod.sensor (m : Mod) (die n t : Nat) : Mod :=
  let p := thermPage die
  let m1 := m.setReg die p (0x200 + 8 * n) (t % 256)
  let rd := fun (i : Nat) => sext 8 (m1.reg die p (0x200 + 8 * i))
  let best := (List.range (if die < 4 then 16 else 4)).foldl (fun (b : Nat) i => if rd b < rd i then i else b) 0
  m1.setReg die p 0x100 (m1.reg die p (0x200 + 8 * best) + best * 256)

/-- A sensor's new reading: one that reaches ALERT_C raises ALERT (R470). -/
def Mod.sensorRead (m : Mod) (die n t : Nat) : Mod :=
  let p := thermPage die
  let lim := sext 8 (m.fld die p 0x108 8 8)
  let before := decide (lim ≤ sext 8 (m.fld die p (0x200 + 8 * n) 0 8))
  let m1 := m.sensor die n t
  if !before && decide (lim ≤ sext 8 (t % 256)) then m1.irq die p 1 else m1

/-- Sensors of a half. -/
def halfSensors (die half : Nat) : List Nat := if die < 4 then (List.range 8).map (fun i => half * 8 + i) else List.range 4

/-- THERMAL_THROTTLE_STEP: the sensors of a half read `temps`. 10 µs with one at THROTTLE_C raise the thermal request by a step;
100 µs with all below THROTTLE_C - 2 lower it. -/
def execThermalThrottleStep (die half : Nat) (temps : List Nat) (s : State) : Ans :=
  if isHalf die half then
    .next (if !s.dieOn die then s
      else
        let p := thermPage die
        let m := ((halfSensors die half).zip temps).foldl (fun (x : Mod) y => x.sensorRead die y.1 y.2) s.mod
        let thr := sext 8 (m.fld die p 0x108 0 8)
        let rd := fun (i : Nat) => sext 8 (m.reg die p (0x200 + 8 * i))
        let hot := (halfSensors die half).any (fun i => decide (thr ≤ rd i))
        let cool := (halfSensors die half).all (fun i => decide (rd i < thr - 2))
        let c := SMap.get 0 m.therm (halfKey die half)
        let c1 := if hot then Nat.min 8 (c + 1) else if cool then c - 1 else c
        let m1 := (m.setTherm die half c1).setFld die p 0x110 half 1 (b2n (c1 != 0))
        { s with mod := if c = 0 ∧ c1 ≠ 0 then m1.irq die p 0 else m1 })
  else .fault (.noSuchAgent (halfKey die half))

/-- THERM_ALERT: sensor `n` of a die reads `t`. Reaching ALERT_C raises ALERT; ALERT_N follows the readings. -/
def execThermAlert (die n t : Nat) (s : State) : Ans :=
  if decide (die < 6) && decide (n < (if die < 4 then 16 else 4)) then
    .next (if !s.dieOn die then s
      else
        { s with mod := s.mod.sensorRead die n t })
  else .fault (.noSuchAgent die)

/-! ### Spine mode (R460) -/

/-- Every populated core of a half is parked or retired. -/
def Mod.halfParked (m : Mod) (die half : Nat) : Bool :=
  (List.range 96).all (fun i => let c := die * 256 + half * 96 + i; !isCore c || m.parked c || m.retired c)

/-- PWR_OP_STAT.SPINE of a half follows its cores; on leaving spine mode the half runs at the point PWR_OP names. -/
def Mod.spineHalf (m : Mod) (die half : Nat) : Mod :=
  let now := m.halfParked die half
  if now = m.spine die half then m
  else
    let m1 := m.setPwr die 0x108 (12 + half) 1 (b2n now)
    let m2 := if now then m1 else m1.setPwr die 0x108 (4 * half) 3 (m1.pwr die 0x100 (4 * half) 3)
    m2.stretch die half

def Mod.spineDie (m : Mod) (die : Nat) : Mod := (m.spineHalf die 0).spineHalf die 1

end Sys2Proof.Machine
end

