-- ==== Sys2Proof/Machine/Resets.lean ====
section
/-! DEFINITION. Resets and sweeps (R409 to R415, R421), power states (R416 to R419), retirement (R422), watchdogs (R423,
R424), and power coming and going (R454 to R457, R467). -/

namespace Sys2Proof.Machine

/-! ### Register defaults (R21) -/

/-- Width of a reset kind; `own` is that of the page's owning reset. -/
def RKind.rank (own : Nat) : RKind → Nat
  | .own => own | .cr => 1 | .pr => 2 | .dr => 3 | .mr => 4 | .po => 5

/-- Rank of a page's owning reset. -/
def ownRank (die page : Nat) : Nat := if die < 4 then (if page < 2048 then 1 else 3) else 4

/-- A register's value after a reset of a rank: its default, but for fields that only a wider reset restores. -/
def resetTo (die page off rank v : Nat) : Nat :=
  (regFields die page off).foldl (fun x f => if rank < f.kind.rank (ownRank die page) then setBits x f.lo f.width (bits v f.lo f.width) else x)
    (resetVal die page off).toNat

/-- Reset the registers of the pages from `lo` to below `hi`, numbered die * 8192 + page; FREEZE's snapshots go with them. -/
def Mod.resetPages (m : Mod) (lo hi rank : Nat) : Mod :=
  let m1 := m.regs.foldl (fun (x : Mod) e =>
    let p := e.1 / 512
    let off := e.1 % 512 * 8
    if lo ≤ p ∧ p < hi then x.setReg (p / 8192) (p % 8192) off (resetTo (p / 8192) (p % 8192) off rank e.2.toNat) else x) m
  let moved := (m.regs.filter (fun e =>
    let p := e.1 / 512
    let off := e.1 % 512 * 8
    decide (lo ≤ p) && decide (p < hi) &&
      ((e.2.toNat ^^^ m1.reg (p / 8192) (p % 8192) off) &&& cMask (regFields (p / 8192) (p % 8192) off)) != 0)).map (fun e => e.1 / 512)
  moved.foldl (fun (x : Mod) p => x.disturb (p / 8192) (p % 8192)) { m1 with frozen := SMap.dropRange m1.frozen (lo * 512) (hi * 512) }

/-- PAGE_STAT.SWEEP_BUSY of a page. -/
def Mod.setSweep (m : Mod) (die page v : Nat) : Mod := m.setFld die page 0x018 4 1 v

/-! ### What a core loses (R411) -/

/-- The core that a far read's key stands for: its own, its Wains' at 0x10000 + w, its translation walks' at 0x30000 + c. -/
def fetchCore (key : Nat) : Option Nat :=
  if key < 0x10000 then some key
  else if key < 0x20000 then wainCore (key - 0x10000)
  else if key < 0x30000 then none
  else some (key - 0x30000)

/-- The core whose reset discards a request's response, and whether the request writes. -/
def Use.owner : Use → Option (Nat × Bool)
  | .load c _ => some (c, false)
  | .fill c _ _ => some (c, false)
  | .piece c _ _ => some (c, false)
  | .store c _ => some (c, true)
  | .tst c _ _ => some (c, true)
  | .wain w _ _ => (wainCore w).map (fun c => (c, true))
  | .host _ => none
  | .fetch key => (fetchCore key).map (fun c => (c, false))
  | .gone key b => (fetchCore key).map (fun c => (c, b))

/-- Tasks that name a core of a reset end as ABORTED (R400). -/
def Mod.abortTasks (m : Mod) (cores : List Nat) : Mod :=
  { m with tasks := m.tasks.map (fun (t : Task) =>
      if t.result.isNone && t.cores.any (fun c => cores.contains c) then { t with result := some (5, 0) } else t) }

/-- A core or steward loses what it holds outside its Loft, program memory and pages: its furrow block, Wains, reservations,
waits and requests in flight. `cut` discards the requests themselves, else they complete at their destination. -/
def Mod.dropAgent (m : Mod) (c : Nat) (cut : Bool) : Mod :=
  let m1 := if isCore c then ((m.wainStop (2 * c)).wainStop (2 * c + 1)).furLeave c else m
  let mine := fun (r : Req) => (r.use.owner).any (fun x => x.1 == c)
  let keep := m1.net.filter (fun r => !(mine r && (cut || r.resp.isSome)))
  let net := keep.map (fun (r : Req) =>
    match r.use.owner with
    | some (d, b) => if d = c then { r with use := Use.gone c b } else r
    | none => r)
  let held := fun (h : Nat) => h != 0 && (h % 0x10000 == reqCode c + 1)
  let m2 := { m1 with
    cores := SMap.put Core.reset m1.cores c Core.reset
    wains := if isCore c then SMap.dropRange m1.wains (2 * c) (2 * c + 2) else m1.wains
    net := net
    incs := m1.incs.map (fun (x : Inc) => if x.sig = some c ∨ x.wain.any (fun (w : Nat × Nat) => wainCore w.1 == some c) then { x with sig := none, wain := none } else x)
    walkers := m1.walkers.filter (fun x => x != c)
    chuteReqs := (m1.chuteReqs.filter (fun (r : ChuteReq) => !(r.q == reqCode c && (r.resp.isSome || cut)))).map
      (fun (r : ChuteReq) => if r.q = reqCode c then { r with core := none, wain := none } else r)
    rsv := m1.rsv.filter (fun (e : Nat × Nat) => !held e.2 && !(e.1 / 8 == c))
    arrivals := m1.arrivals.filter (fun x => x.c != c)
    warned := m1.warned.filter (fun x => x != c)
    debugHalt := m1.debugHalt.filter (fun x => x != c) }
  (if isCore c then m2.stookReset c else m2).abortTasks [c]

/-- Zero a core's Loft, or a steward's local memory, and its program memory (R414). -/
def Mod.sweepCpu (m : Mod) (c : Nat) : Mod :=
  let m1 := m.sweepMem (loftKey c) (loftKey c + (if isStw c then 2 ^ 21 else 2 ^ 22))
  { m1 with pm := SMap.dropRange m1.pm (c * 65536) (c * 65536 + 65536) }

/-- SWEEP_STAT.CORES and STEWARD_RST_STAT follow the resets in progress on a die (R426, R428). -/
def Mod.countResets (m : Mod) (die : Nat) : Mod :=
  let mine := m.inReset.filter (fun x => x % 1024 / 256 == die)
  let m1 := m.setFld die (sweepPage die) 0x100 0 8 mine.length
  let pr := (List.range 16).foldl (fun v p => if mine.any (fun x => x / 1024 == p + 1) then v + 2 ^ p else v) 0
  m1.setReg die (stewardPage die) 0x108 (pr + b2n (mine.any (fun x => decide (x < 1024))) * 2 ^ 16)

/-- STEWARD_PSTAT of a core. -/
def Mod.setParked (m : Mod) (c v : Nat) : Mod :=
  (m.setFld (c / 256) 2309 (0x340 + c % 256 / 64 * 8) (c % 64) 1 v).spineDie (c / 256)

/-- Begin a CR of core `c` (`tag` 0), or its share of the PR of partition tag - 1 (R411). It is absorbed in a DR of its die and in a
reset of the core under way; a PR takes over a CR (R410). -/
def Mod.beginCr (m : Mod) (c tag : Nat) : Mod :=
  if m.dr.contains (c / 256) then m
  else if m.inReset.any (fun x => x % 1024 == c) then
    (if tag = 0 then m else ({ m with inReset := m.inReset.map (fun x => if x = c then c + 1024 * tag else x) } : Mod).countResets (c / 256))
  else
    let base := c / 256 * 8192 + corePage c 0
    let m1 := (((m.digestStep (c / 256)).dropAgent c false).sweepCpu c).resetPages base (base + 8) 1
    let m2 := (m1.setParked c 0).setSweep (c / 256) (corePage c 0) 1
    ({ m2 with inReset := m2.inReset ++ [c + 1024 * tag] } : Mod).countResets (c / 256)

/-- A PR of a partition: every core whose nibble names it and that is not retired (R411, R422). -/
def Mod.beginPr (m : Mod) (die p : Nat) : Mod :=
  ((List.range 256).filter (fun i => isCore (die * 256 + i) && m.partition (die * 256 + i) == p && !m.retired (die * 256 + i))).foldl
    (fun (x : Mod) i => x.beginCr (die * 256 + i) (p + 1)) m

/-- The sweep of a core under CR or PR ends once its writes are acknowledged (R411 steps 6 to 8); a core whose park request
stands is parked again (R417). -/
def Mod.endCr (m : Mod) (c : Nat) : Mod :=
  if !m.inReset.any (fun x => x % 1024 == c) || m.net.any (fun r => match r.use with | .gone d b => d == c && b | _ => false) then m
  else
    let die := c / 256
    let m1 := (({ m with inReset := m.inReset.filter (fun x => x % 1024 != c) } : Mod).setSweep die (corePage c 0) 0).countResets die
    let m2 := m1.irq die (stewardPage die) 2
    if m2.fld die 2309 (0x320 + c % 256 / 64 * 8) (c % 64) 1 = 1 ∧ m2.retired c = false then m2.setParked c 1 else m2

/-! ### DR (R412) -/

/-- Cores of a die. -/
def dieCores (die : Nat) : List Nat := ((List.range 256).map (fun i => die * 256 + i)).filter isCore

/-- A die's epoch rises; the value after 0xFFFF is 1 (R341). -/
def AlwaysOn.bumpEpoch (a : AlwaysOn) (die : Nat) : AlwaysOn :=
  { a with dieEpoch := a.dieEpoch.set die (if a.epoch die = 0xFFFF then 1 else a.epoch die + 1) }

/-- SWEEP_CAUSE of a die; a DR counts (R428). -/
def AlwaysOn.setCause (a : AlwaysOn) (die kind src : Nat) : AlwaysOn :=
  let n := bits (a.cause.getD die 0) 32 32
  let n1 := if kind = 2 then Nat.min 0xFFFFFFFF (n + 1) else n
  { a with cause := a.cause.set die (kind + src % 16 * 256 + n1 * 2 ^ 32) }

/-- Stook state of a die that goes into DR: its flags are lost and BW holds its contribution at 0 (R242). -/
def Mod.stookDr (m : Mod) (die : Nat) : Mod :=
  let m1 := { m with flags := SMap.dropRange m.flags (die * 16) (die * 16 + 16) }
  (List.range 4).foldl (fun (x : Mod) n =>
    if x.fld 4 2071 (0x108 + 8 * n) die 1 = 1 then
      ({ x with held := SMap.put 0 x.held n (setBits (SMap.get 0 x.held n) die 1 1) } : Mod).errOpen 4 2071 11 die 0
    else x) m1

/-- What a compute die loses in a DR, its epoch and cause apart. -/
def Mod.dropDie (m : Mod) (die : Nat) : Mod :=
  let m1 := (dieCores die ++ [0x3F0 + die]).foldl (fun (x : Mod) c => (x.dropAgent c true).sweepCpu c) m
  let m2 := m1.resetPages (die * 8192) (die * 8192 + 8192) 3
  let m3 : Mod := { m2 with
    inReset := m2.inReset.filter (fun x => x % 1024 / 256 != die)
    intakes := m2.intakes.filter (fun x => x.die != die)
    unitLpf := SMap.put 0 m2.unitLpf die 0
    digests := SMap.put {} m2.digests die {}
    stirred := m2.stirred.filter (fun x => x != 0x10000 + die)
    opTarget := SMap.dropRange m2.opTarget (2 * die) (2 * die + 2)
    droop := SMap.dropRange m2.droop (2 * die) (2 * die + 2)
    cap := SMap.dropRange m2.cap (2 * die) (2 * die + 2)
    therm := SMap.dropRange m2.therm (2 * die) (2 * die + 2)
    sag := m2.sag.filter (fun k => k / 2 != die)
    grantOk := m2.grantOk.filter (fun d => d != die) }
  (diePages die).foldl (fun (x : Mod) p => if isLinkEnd die p then x.linkDrop die p else x) ((m3.stookDr die).spineDie die)

/-- The sweeps of a compute die begin: SWEEP_BUSY of its CORE and STEWARD pages, and the count of R428. -/
def Mod.sweepDie (m : Mod) (die : Nat) : Mod :=
  (((dieCores die).foldl (fun (x : Mod) c => x.setSweep die (corePage c 0) 1) m).setSweep die (stewardPage die) 1).setFld die (sweepPage die) 0x100 0 8 144

/-- Begin a DR of compute die `die`; `src` is SWEEP_CAUSE.SRC. During a DR of the die it is absorbed. -/
def beginDr (die src : Nat) (s : State) : State :=
  if s.mod.dr.contains die ∨ 4 ≤ die then s
  else
    let m1 := s.mod.dropDie die
    let m4 := ({ m1 with dr := m1.dr ++ [die] } : Mod).cutTraffic.sweepDie die
    let m5 := (m4.setKp 0x100 (24 + die) 1 0).onKeeper (fun k => ({ k with notices := k.notices ++ [die], inbox := k.inbox.filter (fun x => x.1 != die), running := SMap.put 0 k.running die 0
                                                                           reload := if k.reload.contains die then k.reload else k.reload ++ [die] } : Keeper))
    { s with aon := (s.aon.bumpEpoch die).setCause die 2 src, mod := m5 }

/-- The sweep of a die in DR or MR ends: the die leaves its reset, unless the module is held in reset (R436, R444, R452), and receives the
generations of the module lines from BW (R242). A Barn sweeps its steward's local memory alone. -/
def Mod.endDr (m : Mod) (die : Nat) : Mod :=
  if !m.sweeping die (stewardPage die) then m
  else if 4 ≤ die then m.setSweep die (stewardPage die) 0
  else
    let m1 := (dieCores die).foldl (fun (x : Mod) c => x.setSweep die (corePage c 0) 0) m
    let m2 := (m1.setSweep die (stewardPage die) 0).setFld die (sweepPage die) 0x100 0 8 0
    if m2.dr.contains 5 then m2
    else ({ m2 with dr := m2.dr.filter (fun d => d != die) } : Mod).setFld die 2313 0x288 8 4 (m2.fld 4 2071 0x128 0 4)

/-! ### MR and PO (R413) -/

/-- Clear the module as an MR does: every agent stops, traffic is discarded, pages take their defaults, memories are swept.
What survives: the always-on island, the position and pins of BW's cadence unit, the masks of R348, retained AER bits, and with
`link` the state of the PCIe link. -/
def Mod.cleared (m : Mod) (link : Bool) : Mod :=
  let l := m.reg 4 hostportPage 0x100
  let base : Mod :=
    { dr := [0, 1, 2, 3], regs := m.regs, ticks := m.ticks, unitLpf := SMap.put 0 [] 4 (SMap.get 0 m.unitLpf 4), frameOut := m.frameOut
      lastMask := m.lastMask, nextId := m.nextId, fresh := m.fresh, out := m.out, aer := m.aer, aerCor := m.aerCor
      aerCount := m.aerCount, aerHeader := m.aerHeader }
  let m1 := base.resetPages 0 (6 * 8192) 4
  -- FRAME_NUM and LINE of BW are restored by PO only (R385).
  let m2 := (m1.setReg 4 cadBw 0x148 (m.reg 4 cadBw 0x148)).setFld 4 cadBw 0x150 0 13 (m.fld 4 cadBw 0x150 0 13)
  let m3 := if link then m2.setReg 4 hostportPage 0x100 (l - bits l 1 1 * 2) else m2
  let m4 := [0, 1, 2, 3].foldl (fun (x : Mod) d => x.sweepDie d) m3
  [4, 5].foldl (fun (x : Mod) d =>
    [2064, 2065, 2066, 2067, 2068, stewardPage d].foldl (fun (y : Mod) p => y.setSweep d p 1) (x.setReg d (sweepPage d) 0x100 0x300)) m4

/-- The always-on island at an MR: every die's epoch rises; ALIGN and NOM have taken their defaults. -/
def AlwaysOn.atMr (a : AlwaysOn) (src : Nat) : AlwaysOn :=
  let b := (List.range 6).foldl (fun (x : AlwaysOn) d => (x.bumpEpoch d).setCause d 1 src) a
  { b with phase := 0, incr := 184467440737 + b.trim }

/-- The stacks train (R350): `dead` has a bit for each that fails. The ECS count and the lanes remapped are open values. In RECOVERY and END only BW's train (R444). -/
def Mod.trainStacks (m : Mod) (dead : Nat) : Mod :=
  (List.range 8).foldl (fun (x : Mod) k =>
    let d := 4 + k / 4
    let p := 2064 + k % 4
    if x.dr.contains d then x
    else if bits dead k 1 = 1 then ({ x with deadStacks := x.deadStacks ++ [k] } : Mod).errOpen d p 9 0 0
    else
      let y := x.free
      ((y.2.setFld d p 0x100 0 1 1).setReg d p 0x150 (y.1 % 2 ^ 32)).setReg d p 0x158 (y.1 / 2 ^ 32 % 2 ^ 16)) m

/-- The boot after an MR or PO (R413, R443). `test` is the REASON of a Keeper self-test that fails, or 0. -/
def bootModule (test dead : Nat) (s : State) : State :=
  let r := keeperBoot test s.aon s.mod
  { s with aon := r.1, mod := r.2.trainStacks dead }

/-- An MR with its boot; `link` keeps the PCIe link up. Without power, before the PO, or while JTAG holds the module, there is
none to perform (R410, R452). -/
def moduleReset (src : Nat) (link : Bool) (test dead : Nat) (s : State) : State :=
  if !s.aon.powered || s.aon.poDue || s.aon.jtag then s
  else bootModule test dead { s with aon := s.aon.atMr src, mod := s.mod.cleared link }

/-- What power-on reset leaves of the always-on island: OTP, flash and pins (R421). -/
def AlwaysOn.atPo (a : AlwaysOn) : AlwaysOn :=
  { uds := a.uds, vendorKey := a.vendorKey, serial := a.serial, rollFuses := a.rollFuses, lcFuses := a.lcFuses, repair := a.repair
    flash := a.flash, certLen := a.certLen, storeLcb := a.storeLcb, coKey := a.coKey, userKey := a.userKey, trip := a.trip, overV := a.overV
    powered := a.powered, poDue := false, vin := a.vin, pwrEn := a.pwrEn, perstN := a.perstN }

/-- PO: power has come up (R409, R413). The always-on state takes its reset values, and the boot of an MR follows. -/
def execPo (test dead : Nat) (s : State) : Ans :=
  .next (if s.aon.powered ∧ s.aon.poDue = true then
    bootModule test dead { s with aon := s.aon.atPo, mod := ({ nextId := s.mod.nextId, fresh := s.mod.fresh, out := s.mod.out } : Mod).cleared false }
    else s)

/-- Power goes: every item of R421 but OTP and flash is lost (R457). -/
def powerOff (s : State) : State :=
  { s with aon := { s.aon.atPo with powered := false }, mod := { nextId := s.mod.nextId, fresh := s.mod.fresh, out := s.mod.out } }

/-! ### Commands of resets -/

/-- A sweep ends. `what` is 0 for core `n` under CR or PR, 1 for die `n` in DR or MR, 2 for the Granary and 3 for the HBM of Barn
die `n` (R414, R415). -/
def sweepEnd (what n : Nat) (s : State) : Ans :=
  match what with
  | 0 => if isCore n then .next { s with mod := s.mod.endCr n } else .fault (.noSuchAgent n)
  | 1 => if n < 6 then .next { s with mod := s.mod.endDr n } else .fault (.noSuchAgent n)
  | _ =>
    if n = 4 ∨ n = 5 then
      let m := s.mod
      let m1 := if what = 2 then (m.setFld n (sweepPage n) 0x100 8 1 0).setSweep n granaryPage 0
        else [2064, 2065, 2066, 2067].foldl (fun (y : Mod) p => y.setSweep n p 0) (m.setFld n (sweepPage n) 0x100 9 1 0)
      .next { s with mod := m1 }
    else .fault (.noSuchAgent n)

/-- PERST_N: the pin falls and an MR begins; the host port stays in reset until it rises (R403, R456). During a PO it is part
of that PO. -/
def execPerstN (test dead : Nat) (s : State) : Ans :=
  .next (if s.aon.perstN then moduleReset 1 false test dead { s with aon := { s.aon with perstN := false } } else s)

/-- HOT_RESET: an MR (R403). -/
def execHotReset (test dead : Nat) (s : State) : Ans :=
  .next (if s.mod.fld 4 hostportPage 0x100 0 1 = 1 then moduleReset 2 false test dead s else s)

/-- FLR: an MR with the link kept up (R403). -/
def execFlr (test dead : Nat) (s : State) : Ans :=
  .next (if s.mod.fld 4 hostportPage 0x100 0 1 = 1 then moduleReset 3 true test dead s else s)

/-- PERST_N_DEASSERT: the pin rises and the host port leaves reset (R456). -/
def execPerstNDeassert (s : State) : Ans := .next { s with aon := { s.aon with perstN := true } }

/-- JTAG_EXTEST: EXTEST or CLAMP is selected: an MR that holds the module in reset (R452). SWEEP_CAUSE.SRC has no code for it and
is an open value. -/
def execJtagExtest (s : State) : Ans :=
  .next (if !s.aon.powered || s.aon.poDue || s.aon.jtag then s
    else
      let x := s.mod.free
      { s with aon := { s.aon.atMr x.1 with jtag := true }, mod := { x.2.cleared false with dr := List.range 6 } })

/-- EXTEST_RELEASE: the hold ends and the boot follows (R452). -/
def execExtestRelease (test dead : Nat) (s : State) : Ans :=
  .next (if s.aon.jtag then bootModule test dead { s with aon := { s.aon with jtag := false }, mod := { s.mod with dr := [0, 1, 2, 3] } } else s)

/-! ### Power states (R416 to R419) -/

/-- The quiescence conditions of R407. -/
def Mod.quiescent (m : Mod) (c : Nat) : Bool :=
  let k := m.core c
  let wq := fun (w : Nat) => (m.wainState w == 0 || decide (5 ≤ m.wainState w)) && bits (m.wreg w 0x110) 4 1 == 1
  !k.running && !(m.fur c).stream && k.mxq.isEmpty && wq (2 * c) && wq (2 * c + 1)

/-- PARK_ENTER: a core with a park request is quiescent, its write-combining buffer written out, and is power-gated (R417). -/
def execParkEnter (c : Nat) (s : State) : Ans :=
  if isCore c then
    let m := s.mod
    let k := m.core c
    .next (if m.fld (c / 256) 2309 (0x320 + c % 256 / 64 * 8) (c % 64) 1 = 1 ∧ m.parked c = false ∧ m.coreSweep c = false ∧ m.retired c = false ∧
        m.quiescent c = true ∧ k.wcb.isEmpty = true ∧ m.writesOut c = false then
      { s with mod := (m.setCore c Core.reset).setParked c 1 } else s)
  else .fault (.noSuchAgent c)

/-- A write of STEWARD_PARK: bits cleared return their cores to stopped program mode; bits set stand as requests. -/
def Mod.parkWrite (m : Mod) (q die w we wv : Nat) : Mod :=
  let m1 := m.commonWrite q die 2309 (0x320 + 8 * w) we wv
  let req := m1.reg die 2309 (0x320 + 8 * w)
  let was := m1.reg die 2309 (0x340 + 8 * w)
  (m1.setReg die 2309 (0x340 + 8 * w) (was &&& req)).spineDie die

/-- DOZE_ENTER: every core of a die with a DOZE request is parked or retired (R418). -/
def execDozeEnter (die : Nat) (s : State) : Ans :=
  if die < 4 then
    let m := s.mod
    .next (if m.fld die 2309 0x110 0 1 = 1 ∧ m.halfParked die 0 = true ∧ m.halfParked die 1 = true then { s with mod := m.setFld die 2309 0x110 1 1 1 } else s)
  else .fault (.noSuchAgent die)

/-- A write of STEWARD_DOZE: clearing REQ leaves DOZE (R418). -/
def Mod.dozeWrite (m : Mod) (q die we wv : Nat) : Mod :=
  let m1 := m.commonWrite q die 2309 0x110 we wv
  if m1.fld die 2309 0x110 0 1 = 0 then m1.setFld die 2309 0x110 1 1 0 else m1

/-- D3HOT_ENTRY: the function enters D3hot and the module STANDBY (R387, R419): park and DOZE are requested everywhere, quiescent
cores park, dies of parked cores doze, the Granaries write their dirty lines back (R354), reads of the
host window under way end as access errors (R393), and every Barn Wain stops. -/
def execD3hotEntry (s : State) : Ans :=
  .next (if !s.aon.powered || s.mod.d3 || s.mod.fld 4 hostportPage 0x100 0 1 == 0 then s
    else
      let m1 := ({ s.mod with d3 := true, standby := true } : Mod).setFld 4 hostportPage 0x100 1 1 1
      let park := fun (x : Mod) (c : Nat) =>
        let y := x.setFld (c / 256) 2309 (0x320 + c % 256 / 64 * 8) (c % 64) 1 1
        if y.quiescent c && (y.core c).wcb.isEmpty && !y.writesOut c && !y.coreSweep c && !y.retired c && !y.parked c then
          (y.setCore c Core.reset).setParked c 1 else y
      let m2 := ((List.range 4).flatMap dieCores).foldl park m1
      let m3 := ((List.range 4).foldl (fun (x : Mod) d =>
        let y := x.setFld d 2309 0x110 0 1 1
        if y.halfParked d 0 && y.halfParked d 1 then y.setFld d 2309 0x110 1 1 1 else y) m2).gFlush.failReads
      { s with mod := (List.range 32).foldl (fun (x : Mod) i => x.wainStop (2048 + i)) m3 })

/-- D0_RETURN: the module leaves self-refresh and DOZE; cores remain parked (R419). -/
def execD0Return (s : State) : Ans :=
  .next (if s.mod.d3 then
    let m1 := ({ s.mod with d3 := false, standby := false } : Mod).setFld 4 hostportPage 0x100 1 1 0
    { s with mod := (List.range 4).foldl (fun (x : Mod) d => x.setFld d 2309 0x110 0 2 0) m1 } else s)

/-! ### Partitions, retirement, reset requests (R407, R409, R422) -/

/-- A write of STEWARD_PMAP: refused whole when a changed nibble names a core that may not change (R407). -/
def Mod.pmapWrite (m : Mod) (q die k we wv : Nat) : Mod :=
  let off := 0x200 + 8 * k
  let m1 := m.commonWrite q die 2309 off we wv
  let bad := (List.range 16).find? (fun i =>
    let c := die * 256 + 16 * k + i
    bits (m.reg die 2309 off) (4 * i) 4 != bits (m1.reg die 2309 off) (4 * i) 4 && isCore c && !(m.retired c || m.parked c || m.quiescent c))
  match bad with
  | some i => m.err die 2309 8 q (16 * k + i) 0
  | none => m1

/-- A write of STEWARD_RETIRE: each changed bit performs a CR of its core (R422), and a retired participant of a stook line contributes 1
from then on (R242). -/
def Mod.retireWrite (m : Mod) (q die w we wv : Nat) : Mod :=
  let off := 0x300 + 8 * w
  let m1 := m.commonWrite q die 2309 off we wv
  let changed := (List.range 64).filter (fun b => bits (m.reg die 2309 off) b 1 != bits (m1.reg die 2309 off) b 1)
  let m2 := (changed.foldl (fun (x : Mod) b =>
    if isCore (die * 256 + 64 * w + b) then x.beginCr (die * 256 + 64 * w + b) 0 else x) m1).spineDie die
  if changed.isEmpty then m2 else (List.range 12).foldl (fun (x : Mod) l => x.stookEval die l) m2

/-- A write of STEWARD_RST: CR of SLOT and PR of PART (R409, R426). -/
def Mod.rstWrite (m : Mod) (q die we wv : Nat) : Mod :=
  let m1 := m.commonWrite q die 2309 0x100 we wv
  let slot := m1.fld die 2309 0x100 0 8
  let m2 := if bits (we &&& wv) 8 1 = 0 then m1
    else if isCore (die * 256 + slot) then m1.beginCr (die * 256 + slot) 0 else m1.err die 2309 9 q slot 0
  if bits (we &&& wv) 20 1 = 0 then m2 else m2.beginPr die (m1.fld die 2309 0x100 16 4)

/-- A write of SWEEP_DIE_RST in BW: a DR of DIE (R409, R428). -/
def dieRstWrite (q we wv : Nat) (s : State) : State :=
  let m1 := s.mod.commonWrite q 4 (sweepPage 4) 0x118 we wv
  let s1 := { s with mod := m1 }
  if bits (we &&& wv) 8 1 = 0 then s1 else beginDr (m1.fld 4 (sweepPage 4) 0x118 0 2) 4 s1

/-! ### Watchdogs (R423, R424) -/

def Mod.warn (m : Mod) (c : Nat) : Mod := { m with warned := if m.warned.contains c then m.warned else m.warned ++ [c] }
def Mod.kick (m : Mod) (c : Nat) : Mod := { m with warned := m.warned.filter (fun x => x != c) }

/-- CORE_WATCHDOG_EXPIRY: 2^PERIOD_LOG2 reference cycles without a kick of a core that runs or idles. -/
def execCoreWatchdogExpiry (c : Nat) (s : State) : Ans :=
  if isCore c then
    let m := s.mod
    let die := c / 256
    let k := m.core c
    let w := m.reg die (corePage c 0) 0x180
    .next (if bits w 0 1 = 0 ∨ m.coreSweep c = true ∨ !(k.running || k.idle) then s
      else if m.warned.contains c && bits w 1 1 == 1 then { s with mod := m.beginCr c 0 }
      else
        let m1 := ((m.warn c).orReg die 2309 (0x380 + c % 256 / 64 * 8) (2 ^ (c % 64))).irq die 2309 1
        { s with mod := m1.notice die 5 c 0 })
  else .fault (.noSuchAgent c)

/-- STEWARD_WATCHDOG_EXPIRY: the watchdog of a die's steward. -/
def execStewardWatchdogExpiry (die test dead : Nat) (s : State) : Ans :=
  if die < 6 then
    let m := s.mod
    .next (if m.fld die (sweepPage die) 0x110 0 1 = 0 ∨ m.dr.contains die = true then s
      else if m.warned.contains (0x3F0 + die) then (if die < 4 then beginDr die 5 s else moduleReset 5 true test dead s)
      else
        let m1 := (m.warn (0x3F0 + die)).irq die (sweepPage die) 0
        { s with mod := if die = 4 then m1 else m1.notice 4 7 die 0 })
  else .fault (.noSuchAgent die)

/-! ### Power input (R454 to R457, R467) -/

/-- VIN_UNDERVOLTAGE: VIN has been below 38.0 V for 100 µs. -/
def execVinUndervoltage (vin : Nat) (s : State) : Ans :=
  .next (if 3800 ≤ vin then s else powerOff { s with aon := { s.aon with vin := vin } })

/-- VIN_OVERVOLTAGE: VIN has been above 50.0 V for 10 µs; the module stays off until PWR_EN has been low. -/
def execVinOvervoltage (vin : Nat) (s : State) : Ans :=
  .next (if vin ≤ 5000 then s else powerOff { s with aon := { s.aon with vin := vin, overV := true } })

/-- PWR_EN_ASSERT: the latches of a trip and an overvoltage end, and with VIN above 39.0 V power comes up. -/
def execPwrEnAssert (s : State) : Ans :=
  .next (if s.aon.pwrEn then s
    else
      let a := { s.aon with pwrEn := true, overV := false, trip := none }
      { s with aon := if 3900 < a.vin then { a with powered := true, poDue := true } else a })

/-- PWR_EN_DEASSERT: power goes (R457). -/
def execPwrEnDeassert (s : State) : Ans := .next (powerOff { s with aon := { s.aon with pwrEn := false } })

/-- THERMAL_TRIP: source `src` of THERM_STAT.TRIP_SRC trips: power goes, and the trip stays latched (R467). -/
def execThermalTrip (src : Nat) (s : State) : Ans :=
  if decide (src < 6) || (decide (8 ≤ src) && decide (src < 16)) then
    .next (if s.aon.powered then powerOff { s with aon := { s.aon with trip := some src } } else s)
  else .fault (.noSuchAgent src)

end Sys2Proof.Machine
end

