-- ==== Sys2Proof/Machine/KeeperOps.lean ====
section
/-! DEFINITION. The Keeper's services (R431 to R437, R444 to R446, R451, R452), through the mailbox of R434, and its attestation and
management replies (R404, R405, R448, R449). Byte layouts of payloads beyond the token are the model's (log entry 19). -/

namespace Sys2Proof.Machine

/-- What the environment supplies to a command that may end in an MR: the REASON of a self-test that fails or 0, and the stacks
that fail training. -/
structure Env where
  test : Nat := 0
  dead : Nat := 0
  deriving DecidableEq, Repr

/-! ### The mailbox (R434) -/

def Mod.mboxBytes (m : Mod) (o n : Nat) : List Nat :=
  (List.range n).map (fun i => bits (m.reg 4 keeperPage (0x800 + (o + i) / 8 * 8)) ((o + i) % 8 * 8) 8)

/-- Service code and payload of the request in the mailbox. -/
def Mod.mboxCode (m : Mod) : Nat := m.kp 0x800 0 16
def Mod.mboxPayload (m : Mod) : List Nat := m.mboxBytes 8 (Nat.min 2040 (m.kp 0x800 16 16))

/-- The response overwrites the request, and MBOX_DONE is raised. -/
def Mod.mboxReply (m : Mod) (status : Nat) (body : List Nat) : Mod :=
  let m1 := m.setReg 4 keeperPage 0x800 (status + body.length * 2 ^ 16)
  let m2 := (List.range ((body.length + 7) / 8)).foldl (fun (x : Mod) i =>
    let part := (body.drop (8 * i)).take 8
    x.setFld 4 keeperPage (0x808 + 8 * i) 0 (8 * part.length) (leNat part)) m1
  (m2.setKp 0x110 1 1 0).irq 4 keeperPage 0

def mbox (s : State) (status : Nat) (body : List Nat) : State := { s with mod := s.mod.mboxReply status body }

/-! ### Tokens (R432) -/

/-- The token of a request: for a service, with the signers it admits and the ARG it must carry. -/
def tokenOk (s : State) (tok : List Nat) (code : Nat) (signers : List Nat) (arg : List Nat) : Bool :=
  let signer := leField tok 2 1
  let key : Option Nat := match signer with | 0 => some s.mod.keeper.vendorPub | 1 => s.aon.coPub | 2 => s.aon.userPub | _ => none
  leField tok 0 2 == code && signers.contains signer && leField tok 8 8 == s.aon.serial && s.mod.keeper.chal == some (leField tok 16 32) &&
    (tok.drop 48).take 32 == arg &&
    (match key with | some k => edVerify (leBytes 32 k) (tok.take 80) ((tok.drop 80).take 64) | none => false)

/-- Check the token that begins a payload; it consumes the challenge. A failed check sets TOKEN_REJECT and returns AUTH_FAIL. -/
def withToken (q code : Nat) (signers : List Nat) (arg : List Nat → List Nat) (s : State) (f : List Nat → State → State) : State :=
  let p := s.mod.mboxPayload
  if p.length < 144 then mbox s 1 []
  else
    let ok := tokenOk s p code signers (arg p)
    let s1 := { s with mod := s.mod.onKeeper (fun k => ({ k with chal := none } : Keeper)) }
    if ok then f p s1 else mbox { s1 with mod := s1.mod.err 4 keeperPage 8 q 0 0 } 2 []

/-- ARG of a token whose ARG is itself the request: a key, a target, a level. -/
def ownArg (p : List Nat) : List Nat := (p.drop 48).take 32
def noArg (_p : List Nat) : List Nat := List.replicate 32 0
def byteArg (p : List Nat) : List Nat := leField p 48 1 :: List.replicate 31 0

/-! ### Reading memory -/

/-- Bytes of HBM that the Keeper reads, granule by granule; none when a response is poison or an access error. -/
def readFar (a : AlwaysOn) : Nat → Nat → Nat → Mod → Option (List Nat) × Mod
  | 0, _, _, m => (some [], m)
  | fuel + 1, mpa, n, m =>
    if n = 0 then (some [], m)
    else
      let k := Nat.min n (64 - mpa % 64)
      let r := fetchFar a m 0xF04 mpa k
      match r.1 with
      | .data v =>
        (match readFar a fuel (mpa + k) (n - k) r.2 with
          | (some l, m1) => (some (leBytes k v ++ l), m1)
          | (none, m1) => (none, m1))
      | _ => (none, r.2)

def readHbm (s : State) (mpa n : Nat) : Option (List Nat) × Mod := readFar s.aon (n / 64 + 2) mpa n s.mod

/-- The bytes of an image's components, as read from a base; none where a read fails. -/
def readComps (a : AlwaysOn) (base : Nat) : List Comp → Mod → Option (List (List Nat)) × Mod
  | [], m => (some [], m)
  | c :: t, m =>
    match readFar a (c.len / 64 + 2) (base + c.off) c.len m with
    | (some l, m1) =>
      (match readComps a base t m1 with
        | (some r, m2) => (some (l :: r), m2)
        | (none, m2) => (none, m2))
    | (none, m1) => (none, m1)

/-- An image staged in HBM: its manifest and component bytes, and the REASON that refuses it, or 0 (R442). -/
def checkStaged (s : State) (mpa len : Nat) : Nat × List Nat × List (List Nat) × Mod :=
  match readHbm s mpa 4096 with
  | (none, m) => (0x04, [], [], m)
  | (some b, m) =>
    let r := s.aon.manifestReason b
    if r ≠ 0 then (r, b, [], m)
    else if leField b 0x10 8 ≠ len then (0x04, b, [], m)
    else match readComps s.aon mpa (compsOf b) m with
      | (none, m1) => (0x02, b, [], m1)
      | (some l, m1) => (compsReason (compsOf b) l, b, l, m1)

/-- Program an image: its components, then the manifest (R445). -/
def AlwaysOn.programImage (a : AlwaysOn) (b : List Nat) (parts : List (List Nat)) : AlwaysOn :=
  (((compsOf b).zip parts).foldl (fun (x : AlwaysOn) y => x.program y.1.off y.2) (a.erase 0 imageTop)).program 0 b

/-! ### Zeroisation (R437) -/

/-- Secrets are overwritten and the protected store erased; an UPDATE in progress ends with ERROR_STATE (R446). -/
def zeroise (s : State) : State :=
  let m := s.mod
  let m1 := m.onKeeper (fun k => ({ k with chal := none, devid := none, alias_ := none, update := none } : Keeper))
  let m2 := if m.keeper.update.isSome then m1.mboxReply 8 [] else m1
  { s with aon := { s.aon with coKey := none, userKey := none }, mod := if m.kState = 3 then m2 else m2.setKState 4 }

/-! ### Services (R433) -/

/-- STATUS. -/
def statusBody (s : State) : List Nat := [s.mod.kState, s.aon.lc, s.aon.rollback, s.mod.kp 0x100 8 8]

/-- SELF_TEST: the firmware's tests run again. A failure ends an UPDATE in progress with ERROR_STATE (R436). -/
def selfTest (test : Nat) (m : Mod) : Mod :=
  if test = 0 then m
  else
    let m1 := m.keeperError test
    if m.keeper.update.isSome then (m1.onKeeper (fun k => ({ k with update := none } : Keeper))).mboxReply 8 [] else m1

def svcChallenge (s : State) : State :=
  let x := s.mod.free
  let c := x.1 % 2 ^ 256
  mbox { s with mod := x.2.onKeeper (fun k => ({ k with chal := some c } : Keeper)) } 0 (leBytes 32 c)

def svcRandom (q : Nat) (s : State) : State :=
  withToken q 0x20 [2, 1, 0] noArg s (fun p t =>
    let n := leField p 144 2
    if p.length < 146 ∨ n = 0 ∨ 1024 < n then mbox t 1 []
    else
      let x := t.mod.free
      mbox { t with mod := x.2 } 0 (leBytes n x.1))

/-- A key is written to the protected store, which is sealed anew. -/
def AlwaysOn.enrol (a : AlwaysOn) (co : Bool) (key : Nat) : AlwaysOn :=
  { a with coKey := if co then some key else a.coPub, userKey := if co then a.userPub else some key, storeLcb := a.lcb }

def svcEnrol (q code : Nat) (co : Bool) (signers : List Nat) (s : State) : State :=
  withToken q code signers ownArg s (fun p t => mbox { t with aon := t.aon.enrol co (leField p 48 32) } 0 [])

/-- First 32 bytes of the SHA-512 digest of bytes that a request stages in HBM, by the MPA and length after its token. -/
def stagedArg (s : State) (n : Option Nat) (p : List Nat) : List Nat :=
  match readHbm s (leField p 144 8) (n.getD (Nat.min 16384 (leField p 152 8))) with
  | (some l, _) => (sha512 l).take 32
  | (none, _) => []

def svcEnrolCert (q : Nat) (s : State) : State :=
  withToken q 0x32 [0] (stagedArg s none) s (fun p t =>
    let n := leField p 152 8
    if p.length < 160 ∨ n = 0 ∨ 16384 < n then mbox t 1 []
    else match readHbm t (leField p 144 8) n with
      | (some l, m) => mbox { t with aon := { ((t.aon.erase recordBase recordTop).program recordBase l) with certLen := n }, mod := m } 0 []
      | (none, m) => mbox { t with mod := m } 4 [])

/-- UPDATE (R445): checks, then the image region is erased and the service goes on until UPDATE_DONE. -/
def svcUpdate (q : Nat) (s : State) : State :=
  withToken q 0x40 [1, 0] (stagedArg s (some 4096)) s (fun p t =>
    if p.length < 160 then mbox t 1 []
    else
      let mpa := leField p 144 8
      let len := leField p 152 8
      let r := checkStaged t mpa len
      let t1 := { t with mod := r.2.2.2 }
      if r.1 = 0x03 then mbox t1 5 []
      else if r.1 ≠ 0 then mbox t1 4 []
      else { t1 with aon := t1.aon.erase 0 imageTop
                     mod := (t1.mod.onKeeper (fun k => ({ k with update := some ⟨mpa, len, true, leNat r.2.1⟩ } : Keeper))).setKp 0x110 1 1 1 })

/-- UPDATE_DONE: the components are read again and programmed; bytes that have changed end the UPDATE with TAMPERED (R445). -/
def execUpdateDone (s : State) : Ans :=
  .next (match s.mod.keeper.update with
    | none => s
    | some u =>
      let s0 := { s with mod := s.mod.onKeeper (fun k => ({ k with update := none } : Keeper)) }
      let b := leBytes 4096 u.manifest
      match readComps s.aon u.mpa (compsOf b) s0.mod with
      | (none, m) => mbox { s0 with mod := m } 6 []
      | (some l, m) =>
        if compsReason (compsOf b) l = 0 then mbox { s0 with aon := s0.aon.programImage b l, mod := m.irq 4 keeperPage 5 } 0 []
        else mbox { s0 with mod := m } 6 [])

/-- The signers of a life-cycle transition (R451); none when there is no such transition. -/
def lifecycleSigners (from_ goal : Nat) : Option (List Nat) :=
  match from_, goal with
  | 0, 1 => some [0] | 1, 2 => some [0] | 1, 3 => some [1] | 0, 3 => some [0] | 2, 3 => some [0]
  | _, _ => none

/-- LIFECYCLE (R451): the fuse, zeroisation, the erase of record block and store, then an MR. -/
def svcLifecycle (q : Nat) (env : Env) (s : State) : State :=
  let t := leField s.mod.mboxPayload 48 1
  match lifecycleSigners s.aon.lc t with
  | none => mbox s 3 []
  | some sg =>
    withToken q 0x50 sg byteArg s (fun _ x =>
      let a := { x.aon.erase recordBase 0x4000000 with lcFuses := x.aon.lcFuses ||| 3 * 4 ^ (t - 1), certLen := 0 }
      moduleReset 7 false env.test env.dead (zeroise { x with aon := a }))

/-- DEBUG_UNLOCK (R452). -/
def svcDebug (q : Nat) (s : State) : State :=
  let level := leField s.mod.mboxPayload 48 1
  if (level = 1 ∧ s.aon.lc < 3) ∨ (level = 2 ∧ s.aon.lc = 2) then
    withToken q 0x60 (if level = 1 then [1, 0] else [0]) byteArg s (fun _ x =>
      mbox { x with mod := x.mod.onKeeper (fun k => ({ k with debug := level, unlocked := true } : Keeper)) } 0 [])
  else mbox s 3 []

/-- A request of the mailbox, by its service code (R433, R434). -/
def serve (q : Nat) (env : Env) (s : State) : State :=
  let st := s.mod.kState
  let lc := s.aon.lc
  let on := fun (ok : Bool) (t : State) => if ok then t else mbox s (if st = 3 then 8 else 3) []
  match s.mod.mboxCode with
  | 0x0001 => mbox s 0 (statusBody s)
  | 0x0002 => on (st == 1 || st == 3) (mbox { s with mod := selfTest env.test s.mod } (if env.test = 0 then 0 else 8) [])
  | 0x0003 => on (st == 1 || st == 2) (svcChallenge s)
  | 0x0020 => on (st == 1) (svcRandom q s)
  | 0x0030 => on (st == 1 && lc == 1) (svcEnrol q 0x30 true [0] s)
  | 0x0031 => on (st == 1 && lc == 1) (svcEnrol q 0x31 false [1, 0] s)
  | 0x0032 => on (st == 1 && decide (lc ≤ 1)) (svcEnrolCert q s)
  | 0x0040 => on (st == 1 && (lc == 1 || lc == 2)) (svcUpdate q s)
  | 0x0050 => on (st == 1) (svcLifecycle q env s)
  | 0x0060 => on (st == 1) (svcDebug q s)
  | 0x0070 => on (st != 5) (mbox (zeroise s) 0 [])
  | _ => on (st == 1) (mbox s 1 [])

/-- A write of KEEPER_MBOX: GO starts the request in the mailbox; during a long service it is answered BUSY (R433). -/
def mboxGo (q we wv : Nat) (env : Env) (s : State) : State :=
  if bits (we &&& wv) 0 1 = 0 then s
  else if s.mod.kp 0x110 1 1 = 1 then { s with mod := (s.mod.setKp 0x800 0 32 7).irq 4 keeperPage 0 }
  else serve q env s

/-- A write of KEEPER_CTRL: SELFTEST and ZEROISE (R437, R453), in the states that permit them. -/
def keeperCtrl (we wv : Nat) (env : Env) (s : State) : State :=
  let s1 := if bits (we &&& wv) 1 1 = 1 ∧ (s.mod.kState = 1 ∨ s.mod.kState = 3) then { s with mod := selfTest env.test s.mod } else s
  if bits (we &&& wv) 0 1 = 1 ∧ s1.mod.kState ≠ 5 then zeroise s1 else s1

/-- A write of KEEPER_RECOV: GO checks and programs a recovery image and performs an MR (R444); ignored outside RECOVERY. -/
def recovWrite (q we wv : Nat) (env : Env) (s : State) : State :=
  let s1 := { s with mod := s.mod.commonWrite q 4 keeperPage 0x120 we wv }
  if bits (we &&& wv) 63 1 = 0 ∨ s1.mod.kState ≠ 2 then s1
  else
    let r := checkStaged s1 0 (s1.mod.kp 0x120 0 23)
    let s2 := { s1 with mod := r.2.2.2 }
    if r.1 ≠ 0 then { s2 with mod := s2.mod.setReason r.1 }
    else moduleReset 6 false env.test env.dead { s2 with aon := s2.aon.programImage r.2.1 r.2.2.1 }

/-! ### Attestation (R404, R448, R449) -/

/-- Reply to an attestation or management message. Over DOE one request is served at a time: a request while a response is
pending is discarded and sets the DOE Error bit. The Keeper attests in RUN (R433). -/
def answer (doe : Bool) (kind status : Nat) (body : List Nat) (s : State) : State :=
  if s.mod.kState ≠ 1 then s
  else if doe ∧ s.mod.doeBusy = true then { s with mod := { s.mod with doeErr := true } }
  else { s with mod := { s.mod with doeBusy := s.mod.doeBusy || doe, out := s.mod.out ++ [Out.reply kind status body] } }

/-- DOE_DISCOVERY at an index: vendor ID of PCI-SIG, the data object type, the next index. -/
def execDoeDiscovery (index : Nat) (s : State) : Ans :=
  .next (answer true 0 0 (match index with | 0 => [1, 0, 0, 1] | 1 => [1, 0, 1, 0] | _ => [0xFF, 0xFF, 0, 0]) s)

/-- GET_VERSION: SPDM 1.2. -/
def execGetVersion (doe : Bool) (s : State) : Ans := .next (answer doe 0x84 0 [0x12] s)

/-- GET_CAPABILITIES: certificates, challenges and signed measurements. -/
def execGetCapabilities (doe : Bool) (s : State) : Ans := .next (answer doe 0xE1 0 (leBytes 4 0x16) s)

/-- NEGOTIATE_ALGORITHMS: Ed25519 and SHA-512 only. -/
def execNegotiateAlgorithms (doe : Bool) (s : State) : Ans := .next (answer doe 0xE3 0 (leBytes 4 0x200 ++ leBytes 4 4) s)

/-- Open bytes: signatures over transcripts, nonces, digests of encoded certificates. -/
def openBytes (n : Nat) (m : Mod) : List Nat × Mod := let x := m.free; (leBytes n x.1, x.2)

/-- An answer that ends in open bytes. -/
def answerOpen (doe : Bool) (kind : Nat) (body : List Nat) (n : Nat) (s : State) : State :=
  let r := openBytes n s.mod
  answer doe kind 0 (body ++ r.1) { s with mod := r.2 }

/-- GET_DIGESTS: slot 0 alone holds a chain; the digest of its encoding is open. -/
def execGetDigests (doe : Bool) (s : State) : Ans := .next (answerOpen doe 0x81 [1] 64 s)

/-- The value m of R447 for the booted image. -/
def Keeper.aliasM (k : Keeper) : List Nat := sha512 ((k.comps.flatMap (fun c => leBytes 64 c.2)) ++ leBytes 4 k.svn)

/-- Contents of the slot 0 chain (R448), their X.509 encoding aside: the enrolled chain, or the self-signed DeviceID key; then the alias
key, m and the SVN, signed by the DeviceID key. -/
def chainBody (s : State) : List Nat :=
  let dev := leBytes 32 (s.mod.keeper.devid.getD 0)
  let devPub := edPublic dev
  let root := if s.aon.certLen = 0 then devPub ++ edSign dev devPub else s.aon.flashBytes recordBase s.aon.certLen
  let leaf := edPublic (leBytes 32 (s.mod.keeper.alias_.getD 0)) ++ s.mod.keeper.aliasM ++ leBytes 4 s.mod.keeper.svn
  root ++ leaf ++ edSign dev leaf

/-- GET_CERTIFICATE of a slot: slots 1 to 7 are empty. -/
def execGetCertificate (doe : Bool) (slot : Nat) (s : State) : Ans :=
  .next (if slot = 0 then answer doe 0x82 0 (chainBody s) s else answer doe 0x7F 1 [] s)

/-- SPDM CHALLENGE: nonce and signature by the alias key are open here. -/
def execSpdmChallenge (doe : Bool) (s : State) : Ans := .next (answerOpen doe 0x83 [0] 160 s)

/-- A measurement block of R449. -/
def measurement (s : State) (i : Nat) : List Nat :=
  let k := s.mod.keeper
  let comp := fun (t : Nat) => leBytes 64 (((k.comps.find? (fun c => c.1 == t)).map (fun c => c.2)).getD 0)
  if i = 1 then leBytes 64 Config.bootRomDigest
  else if i = 2 then comp 1
  else if i < 7 then leBytes 64 (SMap.get 0 k.running (i - 3))
  else if i = 7 then comp 3
  else if i = 8 then comp 4
  else if i = 9 then comp 5
  else if i = 10 then leBytes 4 k.svn ++ [s.aon.rollback, s.aon.lc, b2n k.unlocked]
  else if i < 17 then
    let d := i - 11
    let r := (SMap.get none k.reports d).getD ⟨0, 0, false, false, false⟩
    leBytes 64 r.digest ++ leBytes 4 r.epoch ++ [b2n r.disturbed + 2 * b2n r.ahead, s.mod.kp 0x410 (4 * d) 4]
  else leBytes 4 (s.mod.kp 0x400 0 32)

/-- GET_MEASUREMENTS: index 0 asks for the count, 255 for all blocks; the signature by the alias key is open here. -/
def execGetMeasurements (doe : Bool) (index : Nat) (s : State) : Ans :=
  .next (if index = 0 then answerOpen doe 0xE0 [17] 64 s
    else if index = 255 then answerOpen doe 0xE0 ((List.range 17).flatMap (fun i => measurement s (i + 1))) 64 s
    else if index ≤ 17 then answerOpen doe 0xE0 (measurement s index) 64 s
    else answer doe 0x7F 1 [] s)

/-- KEY_EXCHANGE: refused with ERROR UnsupportedRequest. -/
def execKeyExchange (doe : Bool) (s : State) : Ans := .next (answer doe 0x7F 7 [] s)

/-! ### Management (R405) -/

/-- MCTP_CONTROL: 1 sets the endpoint ID, 2 gets it, 4 the version, 5 the message types: control, PLDM, SPDM. -/
def execMctpControl (cmd arg : Nat) (s : State) : Ans :=
  .next (if s.mod.kState = 0 ∨ s.aon.powered = false then s
    else
      let s1 := if cmd = 1 then { s with aon := { s.aon with eid := arg % 256 } } else s
      let body : Option (List Nat) := match cmd with
        | 1 => some [s1.aon.eid] | 2 => some [s1.aon.eid] | 4 => some [1] | 5 => some [0, 1, 5] | _ => none
      { s1 with mod := { s1.mod with out := s1.mod.out ++ [Out.reply 0x100 (if body.isSome then 0 else 5) (body.getD [])] } })

/-- PLDM_REQUEST: sensors 0 to 5 are the dies' temperatures, 6 to 13 the stacks', 14 to 16 input voltage, current and power, 17 the latched
trip. During an MR the answer is NOT_READY; after a trip the path still reports it (R467). -/
def execPldmRequest (sensor : Nat) (s : State) : Ans :=
  let say := fun (m : Mod) (status v : Nat) => ({ s with mod := { m with out := m.out ++ [Out.reply 0x101 status (leBytes 4 v)] } } : State)
  .next (if s.aon.powered = false then
      (match s.aon.trip with | some t => if sensor = 17 then say s.mod 0 (256 + t) else say s.mod 4 0 | none => s)
    else if s.mod.kState = 0 then s
    else if s.mod.barnSweep 0 || s.mod.barnSweep 1 then say s.mod 4 0
    else if sensor < 6 then say s.mod 0 (s.mod.fld sensor (thermPage sensor) 0x100 0 8)
    else if sensor < 14 then say s.mod 0 (s.mod.fld (4 + (sensor - 6) / 4) (2064 + (sensor - 6) % 4) 0x100 8 8)
    else if sensor = 14 then say s.mod 0 s.aon.vin
    else if sensor < 17 then (let x := s.mod.free; say x.2 0 (x.1 % 2 ^ 16))
    else if sensor = 17 then say s.mod 0 0
    else say s.mod 0x80 0)

end Sys2Proof.Machine
end

