-- ==== Sys2Proof/Machine/CoreCtl.lean ====
section
/-! DEFINITION. Control of a core from its CORE page (R42, R43, R71), IDLE (R416), and the MTS forms of the units (R53, R268, R423). -/

namespace Sys2Proof.Machine

/-! ### CORE_RUN (R71) -/

/-- The core starts at START_PC in bank 0 at kernel level with interrupts off, all other state as it stands. -/
def Mod.startCore (m : Mod) (c : Nat) : Mod :=
  m.onCore c (fun k =>
    { k with running := true, stopReq := false, restart := false, bank := 0
             bank0 := { k.bank0 with cs := { k.bank0.cs with le := true, level := true, ie := false } }
             pc := BitVec.ofNat 16 (m.fld (c / 256) (corePage c 0) 0x100 16 16) })

/-- A change of RUN: a start, or the request of a stop. A halted core stays halted, and one that is parked or retired does not
start (R417, R422). A start while a stop is pending follows it. -/
def Mod.runEdge (m : Mod) (c : Nat) (up : Bool) : Mod :=
  let k := m.core c
  if k.halted then m
  else if up then
    if k.running then (if k.stopReq then m.setCore c { k with restart := true } else m)
    else if m.parked c || m.retired c then m
    else m.startCore c
  else if k.running then m.setCore c { k with stopReq := true, restart := false }
  else m

/-- A write of CORE_RUN. RUN is ignored in stream mode (R289) and its rise in a page that accepts no work (R19). -/
def Mod.coreRun (m : Mod) (q c we wv : Nat) : Mod :=
  let d := c / 256
  let p := corePage c 0
  let deaf := (m.fur c).stream || (!m.enabled d p && bits wv 0 1 == 1)
  let old := m.reg d p 0x100
  let m1 := m.commonWrite q d p 0x100 (if deaf then we &&& (2 ^ 64 - 2) else we) wv
  let new := m1.reg d p 0x100
  if old % 2 = new % 2 then m1 else m1.runEdge c (new % 2 == 1)

/-- CORE_STOP: a stop that was requested takes effect at a boundary that R62 allows, CS.IE disregarded; a held WAIT, WAITG, SEND or
RECV is withdrawn as for an interrupt, a SEND that has been accepted completes first (R259). A start requested meanwhile follows. -/
def execCoreStop (c : Nat) (s : State) : Ans :=
  if isCore c then
    let m := s.mod
    let k := (m.core c).commitDue
    let heldOk := match k.hold with
      | none => true
      | some h => decide (h.kind = .wait ∨ h.kind = .waitg ∨ h.kind = .send ∨ h.kind = .recv)
    .next (if k.running && k.stopReq && k.trap.isNone && heldOk && k.quietBoundary && !m.sendTaken c then
      let m1 := m.withdrawSend c
      let m2 := m1.setCore c { k with running := false, stopReq := false, idle := false, hold := none }
      { s with mod := if k.restart then m2.startCore c else m2 } else s)
  else .fault (.noSuchAgent c)

/-! ### CORE_PM_DATA (R42, R43) -/

/-- A write of CORE_PM_DATA: the parcels that lie wholly in the written half or halves, all or none; ADDR advances by 4. -/
def Mod.pmData (m : Mod) (q c we wv : Nat) : Mod :=
  let d := c / 256
  let p := corePage c 0
  let ad := m.reg d p 0x118
  let slots := (List.range 4).filter (fun i => bits we (14 * i) 14 == 2 ^ 14 - 1)
  let refused := slots.find? (fun i =>
    let g := (ad + i) % 65536 / 4096
    bits (m.seg c) (16 + g) 1 == 1 || ((m.core c).running && bits (m.seg c) g 1 == 1))
  let m1 := match refused with
    | some i => m.err d p 8 q ((ad + i) % 65536) 0
    | none => slots.foldl (fun (x : Mod) i => x.setParcel c (ad + i) (BitVec.ofNat 14 (wv / 2 ^ (14 * i)))) m
  m1.setReg d p 0x118 ((ad + 4) % 65536)

/-! ### IDLE (R416) -/

/-- IDLE: it waits as R63 requires, and has no effect while an interrupt is pending. A steward has it as well. -/
def execIdle (c : Nat) (f : SysF) (s : State) : Ans :=
  onCpu c s (issue c 3 (marked [f.a.toNat, f.b.toNat, f.c.toNat, f.imm.toNat]) false false [] (fun m k =>
    if !k.cs.level then .trap m 3 5 0
    else if !k.settled then .stay m
    else .ok (m.setCore c { k.drain with idle := m.pendingIrq c == 0 })))

/-- IDLE_WAKE: INTP has become non-zero. -/
def execIdleWake (c : Nat) (s : State) : Ans :=
  onCpu c s (fun m => if (m.core c).idle && m.pendingIrq c != 0 then m.onCore c (fun k => { k with idle := false }) else m)

/-! ### MTS -/

/-- MTS of WDKICK (R423): kernel level only. -/
def doWdkick (c : Nat) (m : Mod) (k : Core) : Res := if !k.cs.level then .trap m 3 0 0 else .ok (m.kick c)

/-- An MTS, by the number of its register. -/
def mtsBody (c : Nat) (f : SysF) (m : Mod) (k : Core) : Res :=
  match SysF.num f with
  | 0 => doMtsCs c f m k
  | 0x40 => doMtsPmseg c f m k
  | 0x55 => doWdkick c m k
  | 0x58 => wgoMts c f m k
  | 0x59 => wgoMts c f m k
  | 0x61 => doTlbinv c f m k
  | _ => doMts c f m k

def execMts (c : Nat) (f : SysF) (s : State) : Ans := onCpu c s (issue c 3 (srIlls c f) false false [f.a.toNat] (mtsBody c f))

/-- An MTS of WGO_w, `w` the low bit of its number, whose STOP bit is as the command's name says. -/
def wgoIssue (stop : Bool) (c : Nat) (f : SysF) (s : State) : Ans :=
  onCpu c s (issue c 3 ((if isStw c then [0] else []) ++ marked [f.imm.toNat / 1024]) false false [f.a.toNat] (fun m k =>
    if bits (k.gr f.a.toNat).toNat 63 1 == b2n stop then wgoBody c f stop m k else .stay m))

def execWgoStart (c : Nat) (f : SysF) (s : State) : Ans := wgoIssue false c f s
def execWgoStop (c : Nat) (f : SysF) (s : State) : Ans := wgoIssue true c f s

def execWdkick (c : Nat) (f : SysF) (s : State) : Ans :=
  onCpu c s (issue c 3 ((if isStw c then [0] else []) ++ marked [f.imm.toNat / 1024]) false false [f.a.toNat] (doWdkick c))

/-! ### Performance counters (R27) -/

/-- PERF_COUNTER_WRAP: counter `k` of a PERF page, whose event is one that time alone counts (log entry 10), wraps to 0. -/
def execPerfCounterWrap (die page k : Nat) (s : State) : Ans :=
  match blockAt die page with
  | some (.perf, _) =>
    .next (if decide (k < 8) && s.mod.perfRuns die page k then
      let m1 := s.mod.setReg die page (0x180 + 8 * k) 0
      { s with mod := if s.mod.fld die page (0x140 + 8 * k) 9 1 = 1 then m1.irq die page k else m1 } else s)
  | _ => .fault (.noSuchAgent page)

/-- A write of PERF_CTRL: EN, CLEAR and SNAP. The counters are first brought to this moment; SNAP takes the counts before a CLEAR of the same write. -/
def Mod.perfCtrl (m : Mod) (q die page we wv : Nat) : Mod :=
  let on := fun (b : Nat) => bits (we &&& wv) b 1 == 1
  let all := fun (x : Mod) (f : Mod → Nat → Mod) => (List.range 8).foldl f x
  let m0 := all m (fun (x : Mod) k => x.settleTimed die page (0x180 + 8 * k))
  let m1 := if on 2 then all m0 (fun (x : Mod) k => x.setReg die page (0x1C0 + 8 * k) (x.reg die page (0x180 + 8 * k))) else m0
  let m2 := if on 1 then all m1 (fun (x : Mod) k => x.setReg die page (0x180 + 8 * k) 0) else m1
  m2.commonWrite q die page 0x100 we wv

/-- A write of PERF_SEL_k: a code the page does not accept sets BAD_EVENT. -/
def Mod.perfSel (m : Mod) (q die page off we wv : Nat) : Mod :=
  let k := (off - 0x140) / 8
  let m1 := (m.settleTimed die page (0x180 + 8 * k)).commonWrite q die page off we wv
  if bits we 0 8 ≠ 0 ∧ perfEvent die page (m1.fld die page off 0 8) = false then m1.err die page 8 q k 0 else m1

end Sys2Proof.Machine
end

