-- ==== Sys2Proof/Machine/Rings.lean ====
section
/-! DEFINITION. Intake rings, task descriptors and completion rings as BW's steward firmware runs them (R396 to R402). -/

namespace Sys2Proof.Machine

/-! ### The rings' registers (R396, R402) -/

def ringIn (r : Nat) : Nat := 0x200 + r * 0x20
def ringCq (r : Nat) : Nat := 0x208 + r * 0x20
def ringCtl (r : Nat) : Nat := 0x210 + r * 0x20
/-- BW's steward as a requester. -/
def fwCode : Nat := 0xF04

def Mod.ring (m : Mod) (r : Nat) : Ring := SMap.get {} m.rings r
def Mod.setRing (m : Mod) (r : Nat) (x : Ring) : Mod := { m with rings := SMap.put {} m.rings r x }
def Mod.ringOn (m : Mod) (r : Nat) : Bool := m.fld 4 hostportPage (ringIn r) 63 1 == 1
def Mod.ringBase (m : Mod) (r : Nat) : Nat := m.fld 4 hostportPage (ringIn r) 8 36 * 256
def Mod.ringSize (m : Mod) (r : Nat) : Nat := 2 ^ m.fld 4 hostportPage (ringIn r) 56 5

/-- Firmware forgets its view of the ring; completions it still owes stay owed. -/
def Mod.ringView (m : Mod) (r : Nat) : Mod := m.setRing r { waiting := (m.ring r).waiting }

/-- A register of slot `r` of BW's cadence unit, as firmware writes it. -/
def Mod.slotPut (m : Mod) (r i v : Nat) : Mod := m.commonWrite fwCode 4 cadBw (0x800 + r * 0x20 + 8 * i) (2 ^ 64 - 1) v

/-- A ring is enabled: firmware sets up sampling slot `r` and enables it (R396). -/
def Mod.ringEnable (m : Mod) (r : Nat) : Mod :=
  let m1 := (m.setRing r { waiting := (m.ring r).waiting }).slotPut r 0 (4 * 2 ^ 61 + 16 * 2 ^ 32 + 1)
  ((m1.slotPut r 1 (m.ringBase r)).slotPut r 2 (2 ^ 33)).slotCtrl fwCode 4 (2 ^ r) (2 ^ r)

/-- A write of HOSTPORT_RING_r_IN: enable, disable, or a rewrite, which also resumes a stopped ring (R398, R402). -/
def Mod.ringWrite (m : Mod) (q r we wv : Nat) : Mod :=
  let old := m.reg 4 hostportPage (ringIn r)
  let m1 := m.commonWrite q 4 hostportPage (ringIn r) we wv
  let new := m1.reg 4 hostportPage (ringIn r)
  match bits old 63 1, bits new 63 1 with
  | 0, 1 => m1.ringEnable r
  | 1, 0 => (m1.ringView r).slotCtrl fwCode 4 (2 ^ r) 0
  | 1, _ => if old ≠ new ∨ (m.ring r).stopped = true then (m1.ringView r).slotPut r 1 (m1.ringBase r) else m1
  | _, _ => m1

/-! ### Entries (R397, R398) -/

/-- A number read from HBM by firmware; none when the read fails. -/
def readNum (a : AlwaysOn) (mpa n : Nat) (m : Mod) : Option Nat × Mod :=
  match readFar a (n / 64 + 2) mpa n m with
  | (some l, m1) => (some (leNat l), m1)
  | (none, m1) => (none, m1)

/-- Firmware takes RIDX and CHEAD from memory if its view is new, then reads WIDX: the ring as it now knows it. -/
def sampleRing (a : AlwaysOn) (r : Nat) (m : Mod) : Option Ring × Mod :=
  let base := m.ringBase r
  let sync : Option Ring × Mod :=
    if (m.ring r).synced then (some (m.ring r), m)
    else match readNum a (base + 0x40) 8 m with
      | (some ridx, m1) => (match readNum a (base + 0x80) 8 m1 with
          | (some ch, m2) => (some { m.ring r with synced := true, ridx := ridx, cq := ch, widx := ridx }, m2)
          | (none, m2) => (none, m2))
      | (none, m1) => (none, m1)
  match sync with
  | (some x, m1) => (match readNum a base 8 m1 with
      | (some w, m2) => (some { x with widx := w, stopped := x.stopped || decide (w < x.widx) || decide (x.ridx + m.ringSize r < w) }, m2)
      | (none, m2) => (none, m2))
  | (none, m1) => (none, m1)

/-- Owe a completion entry: TAG, SEQ, FRAME_NUM at completion, STATUS, DETAIL, FLAGS. -/
def Mod.owe (m : Mod) (r tag seq frame status detail flags : Nat) : Mod :=
  let x := m.ring r
  m.setRing r { x with waiting := x.waiting ++ [[tag, seq, frame, status, detail, flags]] }

/-- STATUS of work that succeeded: LATE after DUE (R401). -/
def okStatus (a : AlwaysOn) (due : Nat) : Nat := if due ≠ 0 ∧ due < a.frameNum then 1 else 0

/-- An entry completes: its completion entry is owed when FLAGS bit 0 wants one, and always for BAD_ENTRY and OVERRUN. -/
def complete (a : AlwaysOn) (r tag seq flags status detail : Nat) (m : Mod) : Mod :=
  if bits flags 0 1 = 1 ∨ status = 2 ∨ status = 3 then m.owe r tag seq a.frameNum status detail flags else m

/-- The entry is well formed: SEQ equals its index, OPCODE and FLAGS are assigned. -/
def entryOk (e ridx : Nat) : Bool :=
  bits e 0 64 == ridx && (decide (bits e 64 16 ≤ 3) || decide (0x8000 ≤ bits e 64 16)) && decide (bits e 80 16 ≤ 3)

/-- RIDX rises past an entry, in firmware's view and in memory: a ring lies in HBM (R396); where a driver puts one into a Loft, firmware's
write goes to that Loft as its reads do. -/
def Mod.consume (m : Mod) (r : Nat) : Mod :=
  let x := m.ring r
  let at_ := m.ringBase r + 0x40
  let n := (x.ridx + 1) % 2 ^ 64
  (m.setRing r { x with ridx := n }).putFar fwCode at_ n

/-- Take the next entry of ring `r` when its OPCODE is `op`: `act` gets the entry as a number. Any INTAKE command deals with what
stops a ring, with a malformed entry, and with a session's own opcode, which is passed on (R397). -/
def intake (op r : Nat) (act : AlwaysOn → Nat → Mod → Mod) (s : State) : Ans :=
  if 16 ≤ r then .fault (.noSuchAgent r)
  else if !s.aon.powered || !s.mod.ringOn r || (s.mod.ring r).stopped || s.mod.barnSweep 0 then .next s
  else
    let a := s.aon
    let g := sampleRing a r s.mod
    .next { s with mod :=
      match g.1 with
      | none => g.2
      | some x =>
        let m := g.2.setRing r x
        if !x.stopped && x.ridx == x.widx then m
        else match readNum a (m.ringBase r + 0x100 + 64 * (x.ridx % m.ringSize r)) 64 m with
          | (none, m1) => m1
          | (some e, m1) =>
            let tag := bits e 128 64
            if x.stopped then complete a r tag (bits e 0 64) (bits e 80 16) 3 0 (m1.err 4 hostportPage 12 fwCode 0 0)
            else if !entryOk e x.ridx then complete a r tag (bits e 0 64) (bits e 80 16) 2 0 (m1.consume r)
            else if 0x8000 ≤ bits e 64 16 then m1.consume r
            else if bits e 64 16 = op then act a e (m1.consume r)
            else m1 }

/-- INTAKE_NOP: a NOP entry of ring `r` completes. -/
def execIntakeNop (r : Nat) (s : State) : Ans :=
  intake 0 r (fun a e m => complete a r (bits e 128 64) (bits e 0 64) (bits e 80 16) (okStatus a (bits e 192 64)) 0 m) s

/-- INTAKE_SIGNAL: the counter that ARG0 names rises by ARG1. -/
def execIntakeSignal (r : Nat) (s : State) : Ans :=
  intake 3 r (fun a e m =>
    let m1 := match m.sendInc (bits e 256 32) (bits e 320 64) fwCode 4 .prio with | some x => x | none => m
    complete a r (bits e 128 64) (bits e 0 64) (bits e 80 16) (okStatus a (bits e 192 64)) 0 m1) s

/-- INTAKE_FENCE: the entry completes once every earlier entry of its ring has. -/
def execIntakeFence (r : Nat) (s : State) : Ans :=
  intake 2 r (fun a e m =>
    if m.tasks.any (fun t => t.ring == r) then
      { m with tasks := m.tasks ++ [{ ring := r, seq := bits e 0 64, tag := bits e 128 64, flags := bits e 80 16, due := bits e 192 64
                                      ref := 0, target := 0, stopWait := false, cores := [], fence := true, result := none }] }
    else complete a r (bits e 128 64) (bits e 0 64) (bits e 80 16) (okStatus a (bits e 192 64)) 0 m) s

/-! ### Task descriptors (R399, R400) -/

/-- The fields of a descriptor's header; bytes as one number. -/
structure TaskDesc where
  ncore : Nat
  ref : Nat
  count : Nat
  args : Nat
  argsLen : Nat
  argsLoft : Nat
  flags : Nat
  deriving DecidableEq, Repr

def taskDesc (d : Nat) : TaskDesc :=
  { ncore := bits d 48 16, ref := bits d 64 32, count := bits d 96 32, args := bits d 128 64, argsLen := bits d 192 32
    argsLoft := bits d 224 32, flags := bits d 256 32 }

/-- A core entry of a descriptor. -/
structure TaskCore where
  core : Nat
  pc : Nat
  xp : Nat
  wl : Nat
  pm : Nat
  pmN : Nat
  pmDst : Nat
  loft : Nat
  loftLen : Nat
  loftDst : Nat
  arg : Nat
  zero : Bool
  deriving DecidableEq, Repr

def taskCore (e : Nat) : TaskCore :=
  { core := bits e 0 16, pc := bits e 16 16, xp := bits e 32 16, wl := bits e 48 16, pm := bits e 64 64, pmN := bits e 128 32
    pmDst := bits e 160 16, loft := bits e 192 64, loftLen := bits e 256 32, loftDst := bits e 288 32, arg := bits e 320 128
    zero := bits e 176 16 == 0 && bits e 448 64 == 0 }

def TaskDesc.keepPm (t : TaskDesc) : Bool := bits t.flags 0 1 == 1

/-- The header passes the check of phase 1. -/
def TaskDesc.ok (t : TaskDesc) (d : Nat) : Bool :=
  bits d 0 32 == 0x54564350 && bits d 32 16 == 1 && decide (1 ≤ t.ncore) && decide (t.ncore ≤ 576) &&
    (match cntOf t.ref with | some x => x.kind != 0 | none => false) && decide (1 ≤ t.count) && t.argsLen % 16 == 0 &&
    decide (t.argsLen ≤ 4096) && t.argsLoft % 16 == 0 && decide (t.argsLoft + t.argsLen + 16 ≤ 0x400000) && decide (t.flags < 4) &&
    bits d 288 224 == 0

/-- A core entry passes the check of phase 1 that BW's steward makes. -/
def TaskCore.ok (x : TaskCore) (t : TaskDesc) : Bool :=
  x.zero && x.loftLen % 16 == 0 && x.loftDst % 16 == 0 && decide (x.loftDst + x.loftLen ≤ 0x400000) &&
    (t.keepPm || decide (x.pmDst + x.pmN ≤ 65536))

/-- The steward of the core's die finds the core available. -/
def Mod.taskCoreFree (m : Mod) (x : TaskCore) (t : TaskDesc) : Bool :=
  let k := m.core x.core
  isCore x.core && !m.dr.contains (x.core / 256) && !m.coreSweep x.core && !m.retired x.core && !k.running && !k.halted && m.quiescent x.core &&
    (t.keepPm || (List.range 16).all (fun g => bits (m.seg x.core) (16 + g) 1 == 0 ||
      decide (x.pmDst + x.pmN ≤ g * 4096) || decide (g * 4096 + 4096 ≤ x.pmDst)))

/-- The core entries of a descriptor. -/
def readCores (a : AlwaysOn) (mpa : Nat) : Nat → Mod → Option (List TaskCore) × Mod
  | 0, m => (some [], m)
  | n + 1, m =>
    match readNum a mpa 64 m with
    | (some e, m1) => (match readCores a (mpa + 64) n m1 with
        | (some l, m2) => (some (taskCore e :: l), m2)
        | (none, m2) => (none, m2))
    | (none, m1) => (none, m1)

/-- Copy `n` bytes of HBM to Loft; none when a read fails. -/
def copyLoft (a : AlwaysOn) (c src n dst : Nat) (m : Mod) : Option Mod :=
  if n = 0 then some m
  else match readFar a (n / 64 + 2) src n m with
    | (some l, m1) => some (m1.wr (loftKey c + dst) n (leNat l))
    | (none, _) => none

/-- Load program memory with `n` parcels; CORE_PM_ADDR is left at an open value. -/
def loadPm (a : AlwaysOn) (x : TaskCore) (m : Mod) : Option Mod :=
  match readFar a (2 * x.pmN / 64 + 2) x.pm (2 * x.pmN) m with
  | (some l, m1) =>
    let m2 := (List.range x.pmN).foldl (fun (y : Mod) i => y.setParcel x.core (x.pmDst + i) (BitVec.ofNat 14 (leNat ((l.drop (2 * i)).take 2)))) m1
    let f := m2.free
    some (f.2.setReg (x.core / 256) (corePage x.core 0) 0x118 (f.1 % 65536))
  | (none, _) => none

/-- Phase 2 for one core; none when a transfer fails. -/
def startTaskCore (a : AlwaysOn) (t : TaskDesc) (x : TaskCore) (m : Mod) : Option Mod :=
  let d := x.core / 256
  let p := corePage x.core 0
  let q := 0xF00 + d
  let pm := if t.keepPm then some m else loadPm a x m
  match pm with
  | none => none
  | some m1 =>
    let m2 := (m1.commonWrite q d p 0x110 0xFFFF x.xp).commonWrite q d p 0x110 0xFFFF0000 (x.wl * 65536)
    match copyLoft a x.core x.loft (if x.loft = 0 then 0 else x.loftLen) x.loftDst m2 with
    | none => none
    | some m3 => match copyLoft a x.core t.args (if t.args = 0 then 0 else t.argsLen) t.argsLoft m3 with
      | none => none
      | some m4 =>
        let m5 := m4.wr (loftKey x.core + t.argsLoft + t.argsLen) 16 x.arg
        some (m5.coreRun q x.core 0xFFFF0001 (x.pc * 65536 + 1))

/-- Stop a core through CORE_RUN.RUN. -/
def Mod.stopCore (m : Mod) (c : Nat) : Mod := m.coreRun (0xF00 + c / 256) c 1 0

/-- Start the cores in turn; where a transfer fails, those already started are stopped. -/
def startCores (a : AlwaysOn) (t : TaskDesc) : List TaskCore → List Nat → Mod → Bool × Mod
  | [], _, m => (true, m)
  | x :: l, done, m =>
    match startTaskCore a t x m with
    | some m1 => startCores a t l (x.core :: done) m1
    | none => (false, done.foldl (fun (y : Mod) c => y.stopCore c) m)

/-- INTAKE_RUN: check, then start (R400). -/
def execIntakeRun (r : Nat) (s : State) : Ans :=
  intake 1 r (fun a e m =>
    let mpa := bits e 256 64
    let fail := fun (detail : Nat) (m : Mod) => complete a r (bits e 128 64) (bits e 0 64) (bits e 80 16) 4 detail m
    if mpa % 64 ≠ 0 ∨ 2 ^ 39 ≤ mpa then fail 1 m
    else match readNum a mpa 64 m with
      | (none, m1) => fail 1 m1
      | (some d, m1) =>
        let t := taskDesc d
        if !t.ok d then fail 1 m1
        else match readCores a (mpa + 64) t.ncore m1 with
          | (none, m2) => fail 1 m2
          | (some l, m2) =>
            let ids := l.map (fun x => x.core)
            if !(l.all (fun x => x.ok t)) || ids.eraseDups.length != ids.length then fail 1 m2
            else if !(l.all (fun x => m2.taskCoreFree x t)) then fail 2 m2
            else
              let base := match cntOf t.ref with | some x => m2.cntVal x | none => 0
              let g := startCores a t l [] m2
              if !g.1 then fail 3 g.2
              else { g.2 with tasks := g.2.tasks ++ [{
                ring := r, seq := bits e 0 64, tag := bits e 128 64, flags := bits e 80 16, due := bits e 192 64
                ref := t.ref, target := base + t.count, stopWait := bits t.flags 1 1 == 1, cores := ids, result := none }] }) s

/-- Status and detail of a task that has come to its end, with the effects of its end; none while it goes on. -/
def Mod.taskEnd (m : Mod) (a : AlwaysOn) (i : Nat) (t : Task) : Option (Nat × Nat × Mod) :=
  match t.result with
  | some x => some (x.1, x.2, m)
  | none =>
    if t.fence then (if (m.tasks.take i).any (fun x => x.ring == t.ring) then none else some (okStatus a t.due, 0, m))
    else if t.cores.any (fun c => (m.core c).halted) then
      some (4, 4, (t.cores.filter (fun c => !(m.core c).halted)).foldl (fun (x : Mod) c => x.stopCore c) m)
    else
      let reached := match cntOf t.ref with | some x => decide (t.target ≤ m.cntVal x) | none => false
      if reached && (!t.stopWait || t.cores.all (fun c => !(m.core c).running)) then some (okStatus a t.due, 0, m) else none

/-- TASK_COMPLETION: the `i`-th task, oldest first, has come to its end, and its entry completes (R400). -/
def execTaskCompletion (i : Nat) (s : State) : Ans :=
  match s.mod.tasks[i]? with
  | none => .next s
  | some t =>
    match s.mod.taskEnd s.aon i t with
    | none => .next s
    | some x =>
      let m := { x.2.2 with tasks := x.2.2.tasks.eraseIdx i }
      .next { s with mod := complete s.aon t.ring t.tag t.seq t.flags x.1 x.2.1 m }

/-! ### Completion rings (R401) -/

/-- The 32 bytes of completion entry `j` of a ring with `size` entries. -/
def completionEntry (r j size : Nat) (l : List Nat) : Nat :=
  let f := fun (i : Nat) => l.getD i 0
  f 0 + f 1 * 2 ^ 64 + f 2 % 2 ^ 64 * 2 ^ 128 + f 3 * 2 ^ 192 + r * 2 ^ 224 + f 4 * 2 ^ 240 + (1 - j / size % 2) * 2 ^ 248

/-- COMPLETION_ENTRY: the oldest completion that ring `r` owes is written once j - CHEAD < S, then its MSI-X sent if wanted. -/
def execCompletionEntry (r : Nat) (s : State) : Ans :=
  if 16 ≤ r then .fault (.noSuchAgent r)
  else
    let x := s.mod.ring r
    match x.waiting with
    | [] => .next s
    | e :: rest =>
      if !x.synced then .next s
      else match readNum s.aon (s.mod.ringBase r + 0x80) 8 s.mod with
        | (none, m) => .next { s with mod := m }
        | (some head, m) =>
          let size := 2 ^ m.fld 4 hostportPage (ringCq r) 56 5
          if size ≤ (x.cq + 2 ^ 64 - head) % 2 ^ 64 then .next { s with mod := m }
          else
            let mpa := m.fld 4 hostportPage (ringCq r) 5 39 * 32 + 32 * (x.cq % size)
            let m1 := m.setRing r { x with waiting := rest, cq := (x.cq + 1) % 2 ^ 64 }
            let m2 := match decodeMpa mpa, m1.hostAddr mpa with
              | .host _, some p => if m1.hostUp then m1.tlp (Out.memWrite p.1 32 (2 ^ 32 - 1) (completionEntry r x.cq size e) p.2) else m1.hostErr fwCode mpa
              | .host _, none => m1.hostErr fwCode mpa
              | _, _ => m1
            .next { s with mod := if bits (e.getD 5 0) 1 1 = 1 then m2.raiseVector (m2.fld 4 hostportPage (ringCtl r) 0 8) else m2 }

end Sys2Proof.Machine
end

