-- ==== Sys2Proof/Machine/RegBus.lean ====
section
/-! DEFINITION. Writing page registers: the common rules (R19, R20, R22, R31) and what a write of each block's registers does,
in one function; and the commands that are accesses to registers. -/

namespace Sys2Proof.Machine

/-! ### Blocks -/

/-- Mask of the bits of a register that start an operation. -/
def startMask (die page off : Nat) : Nat :=
  (regFields die page off).foldl (fun v f => if f.acc = .w1z then v ||| spanMask f.lo f.width else v) 0

/-- A write bit is addressed and 1. -/
def wrote (we wv b : Nat) : Bool := bits (we &&& wv) b 1 == 1

/-- A write bit is addressed and 0. -/
def wrote0 (we wv b : Nat) : Bool := bits we b 1 == 1 && bits wv b 1 == 0

/-- A write of PAGE_CTRL: counters that ENABLE stops are first brought to this moment; FREEZE takes or drops the snapshot (R22); a DIELINK
end whose ENABLE goes enters DOWN (R344). -/
def pageCtrl (a : AlwaysOn) (q die page we wv : Nat) (m0 : Mod) : Mod :=
  let m := if m0.enabled die page && bits we 0 1 == 1 && bits wv 0 1 == 0 then m0.settlePage die page else m0
  let m1 := m.commonWrite q die page 0x010 we wv
  let m2 := if !m.isFrozen die page && m1.isFrozen die page then freezePage a m1 die page
    else if m.isFrozen die page && !m1.isFrozen die page then unfreezePage m1 die page else m1
  if isLinkEnd die page && m.enabled die page && !m2.enabled die page then m2.linkDisabled die page else m2

/-- A write of CFG_EPOCH (R31). A digest walk under way reads the old epoch where it has visited the page. -/
def Mod.cfgEpoch (m : Mod) (q die page we wv : Nat) : Mod :=
  let old := m.reg die page 0x058
  let new := ((old &&& (2 ^ 64 - 1 - we)) ||| (wv &&& we)) % 2 ^ 32
  if we % 2 ^ 32 = 0 then m
  else if new < old then m.err die page 3 q 0 (regMpa die page 0x058)
  else ((m.digestStep die).setReg die page 0x058 new).setFld die page 0x018 5 1 0

/-- A write of HOSTPORT_BAR2_APER (R390): refused when it is no multiple of the BAR's size or reaches past 512 GiB. -/
def Mod.aperWrite (m : Mod) (q we wv : Nat) : Mod :=
  let m1 := m.commonWrite q 4 hostportPage 0x108 we wv
  let a := m1.fld 4 hostportPage 0x108 28 11 * 2 ^ 28
  if a % 2 ^ m.bar2Log ≠ 0 ∨ 2 ^ 39 < a + 2 ^ m.bar2Log then m.err 4 hostportPage 9 q 0 (regMpa 4 hostportPage 0x108) else m1

/-- A write of a GRANARY register (R358, R360, R362). -/
def Mod.granaryWrite (m : Mod) (q die off we wv : Nat) : Mod :=
  if off = 0x100 then m.granaryCtrl q die we wv
  else if off < 0x400 ∨ 0x800 ≤ off then m.commonWrite q die granaryPage off we wv
  else
    let n := (off - 0x400) / 0x40
    match (off - 0x400) % 0x40 / 8 with
    | 0 => m.accBaseWrite q die n (if m.enabled die granaryPage || bits wv 0 1 == 0 then we else we &&& (2 ^ 64 - 2)) wv
    | 1 => if m.accEn die n then m else m.commonWrite q die granaryPage off we wv
    | 2 => if m.accEn die n then m else m.commonWrite q die granaryPage off we wv
    | 3 => if m.enabled die granaryPage then m.accCmd q die n (we &&& wv) else m
    | _ => m.commonWrite q die granaryPage off we wv

/-- A write of a STEWARD register: steward chutes on every die (R75), and R426 on a compute die. -/
def Mod.stewardWrite (m : Mod) (q die off we wv : Nat) : Mod :=
  let p := stewardPage die
  if 0x600 ≤ off ∧ off < 0x700 ∧ off % 0x20 = 0 then m.chuteCtrl q (0x3F0 + die) ((off - 0x600) / 0x20) we wv
  else if 4 ≤ die then m.commonWrite q die p off we wv
  else if off = 0x100 then m.rstWrite q die we wv
  else if off = 0x110 then m.dozeWrite q die we wv
  else if 0x200 ≤ off ∧ off < 0x260 then m.pmapWrite q die ((off - 0x200) / 8) we wv
  else if 0x300 ≤ off ∧ off < 0x320 then m.retireWrite q die ((off - 0x300) / 8) we wv
  else if 0x320 ≤ off ∧ off < 0x340 then m.parkWrite q die ((off - 0x320) / 8) we wv
  else m.commonWrite q die p off we wv

/-- A write of a FURROW register: the class C ones are refused in stream mode (R315). -/
def Mod.furrowWrite (m : Mod) (q c off we wv : Nat) : Mod :=
  let d := c / 256
  let p := corePage c 4
  if off = 0x100 then (m.commonWrite q d p off we wv).furCtrl c we wv
  else if cMask (regFields d p off) ≠ 0 ∧ (m.fur c).stream = true then m.err d p 11 q 0 0
  else m.commonWrite q d p off we wv

/-- A write of WAIN_CTRL: GO starts the program at WAIN_PROG, at kernel level (R267); STOP ends the one that runs (R284). -/
def Mod.wainCtrl (m : Mod) (q w we wv : Nat) : Mod :=
  let m1 := if wrote we wv 1 then m.wainStop w else m
  if wrote we wv 0 then m1.wainStart q w (m1.wreg w 0x108) true else m1

/-- A write of a CAD register (R366, R367, R379). -/
def cadWrite (q die page off we wv : Nat) (s : State) : State :=
  if off = 0x140 then { s with mod := s.mod.slotCtrl q die we wv }
  else
    let old := s.mod.reg die page off
    let s1 := { s with mod := s.mod.commonWrite q die page off we wv }
    if die = 4 ∧ off = 0x110 then timeCtrl q old (we &&& wv) s1
    else if die = 4 ∧ off = 0x118 then timeCtrl q (s.mod.reg 4 cadBw 0x110) 0 s1
    else s1

/-- A write of a KEEPER register of BW (R35, R434, R453); mailbox bytes are kept while BUSY. -/
def keeperWrite (env : Env) (q off we wv : Nat) (s : State) : State :=
  let common := { s with mod := s.mod.commonWrite q 4 keeperPage off we wv }
  match off with
  | 0x108 => keeperCtrl we wv env s
  | 0x110 => mboxGo q we wv env s
  | 0x120 => recovWrite q we wv env s
  | 0x400 => if we % 2 ^ 32 = 0 then s else { s with mod := s.mod.keeperEpoch q we wv }
  | _ => if 0x800 ≤ off ∧ s.mod.kp 0x110 1 1 = 1 then s else common

/-- A write of a HOSTPORT register of BW (R390, R394, R402). -/
def Mod.hostportWrite (m : Mod) (q off we wv : Nat) : Mod :=
  if off = 0x108 then m.aperWrite q we wv
  else if off = 0x110 then (if bits we 0 8 = 0 then m else m.raiseVector (bits (we &&& wv) 0 8))
  else if 0x200 ≤ off ∧ off < 0x400 ∧ off % 0x20 = 0 then m.ringWrite q ((off - 0x200) / 0x20) we wv
  else m.commonWrite q 4 hostportPage off we wv

/-- What a write beyond the header does, by block. ALLOW and LP written to the page of an unused port are stored and read back, as is its
ENABLE, and have no effect on the port: R8 says only that writes that would enable or train it are ignored (DESIGN CHOICE, log entry 116). -/
def blockWrite (env : Env) (q die page off we wv : Nat) (s : State) : State :=
  let m := s.mod
  let on := fun (f : Mod) => { s with mod := f }
  let common := on (m.commonWrite q die page off we wv)
  match blockAt die page with
  | none => s
  | some (.core, slot) =>
    if off = 0x100 then on (m.coreRun q (die * 256 + slot) we wv)
    else if off = 0x120 then on (m.pmData q (die * 256 + slot) we wv)
    else common
  | some (.wain, n) =>
    if off = 0x100 then
      on (m.wainCtrl q (if die < 4 then (die * 256 + n) * 2 + (page % 8 - 2) else 2048 + 16 * (die - 4) + n) we wv)
    else common
  | some (.furrow, slot) => on (m.furrowWrite q (die * 256 + slot) off we wv)
  | some (.chute, slot) =>
    if 0x100 ≤ off ∧ off < 0x200 ∧ off % 0x20 = 0 then on (m.chuteCtrl q (die * 256 + slot) ((off - 0x100) / 0x20) we wv) else common
  | some (.sheaf, _) => if off = 0x100 then on (m.sheafInc q die page (we &&& wv)) else common
  | some (.perf, _) =>
    if off = 0x100 then on (m.perfCtrl q die page we wv)
    else if 0x140 ≤ off ∧ off < 0x180 then on (m.perfSel q die page off we wv)
    else common
  | some (.dielink, _) =>
    if off = 0x100 then (if isLinkEnd die page then on (m.linkCtrl q die page we wv) else common) else common
  | some (.cad, _) => cadWrite q die page off we wv s
  | some (.steward, _) => on (m.stewardWrite q die off we wv)
  | some (.stook, _) => on (common.mod.stookMaskEffects die off)
  | some (.watch, _) =>
    if off = 0x100 ∧ wrote we wv 63 = true then on (common.mod.watchCapture (s.aon.time / 2 ^ 32 % 2 ^ 64) die) else common
  | some (.pwr, _) =>
    if die < 4 ∧ off = 0x100 then on (m.pwrOp q die we wv)
    else if die = 4 ∧ 0x220 ≤ off ∧ off < 0x240 then (if bits we 0 16 = 0 then s else on (m.grant ((off - 0x220) / 8) (bits (we &&& wv) 0 16)))
    else common
  | some (.sweep, _) =>
    if off = 0x110 ∧ wrote we wv 16 = true then on (common.mod.kick (0x3F0 + die))
    else if die = 4 ∧ off = 0x118 then dieRstWrite q we wv s
    else common
  | some (.digest, _) => if off = 0x100 then on (m.digestCtrl q die we wv) else common
  | some (.granary, _) => on (m.granaryWrite q die off we wv)
  | some (.place, _) => if 0x200 ≤ off ∧ off < 0x400 then on (m.placeWrite q die off we wv) else common
  | some (.hostport, _) => if die = 4 then on (m.hostportWrite q off we wv) else common
  | some (.keeper, _) => if die = 4 then keeperWrite env q off we wv s else common
  | _ => common

/-- A write by requester `q` of the bits `we` of a register with the bits of `wv`. The pages of a core under CR or PR ignore it
(R411); start bits of a page whose ENABLE is 0 do nothing (R19, log entry 21). -/
def regWrite (env : Env) (q die page off we0 wv : Nat) (s : State) : State :=
  let m := s.mod
  let on := fun (f : Mod) => { s with mod := f }
  let we := if m.enabled die page then we0 else we0 &&& (2 ^ 64 - 1 - startMask die page off)
  if decide (die < 4) && decide (page < 2048) && m.coreSweep (die * 256 + page / 8) then s
  else
  let seen := fun (x : Mod) =>
    match blockAt die page with
    | some (.furrow, slot) => x.furTest m (die * 256 + slot)
    | _ => x
  match off with
    | 0x010 => on (pageCtrl s.aon q die page we wv m)
    | 0x028 => on (seen ((m.commonWrite q die page off we wv).vectorEdge (m.irqBits die page) die page))
    | 0x030 => on (seen ((m.orReg die page 0x020 (we &&& wv)).vectorEdge (m.irqBits die page) die page))
    | 0x058 => on (m.cfgEpoch q die page we wv)
    | _ => if off < 0x100 then on (m.commonWrite q die page off we wv) else blockWrite env q die page off we wv s

/-! ### An access -/

/-- A write that only SYS-tagged requesters may make: reset requests (R409). -/
def sysOnly (die page off : Nat) : Bool :=
  (decide (die < 4) && page == 2309 && off / 8 * 8 == 0x100) || (die == 4 && page == sweepPage 4 && off / 8 * 8 == 0x118)

/-- Perform an access to register space, as R14 and R20 admit it: the response, and the state after. -/
def regAccess (env : Env) (q die page off len : Nat) (write : Bool) (full : Bool) (data : Nat) (s : State) : Resp × State :=
  if write then
    match s.mod.regRefused q die page off len with
    | some x => (.err, { s with mod := s.mod.err x.1 x.2.1 x.2.2 q 0 (regMpa die page off) })
    | none =>
      if !full || (sysOnly die page off && isCore q) then (.err, { s with mod := s.mod.err die page 0 q 0 (regMpa die page off) })
      else
        let hi := if off % 8 = 4 then 2 ^ 32 else 1
        let we := (2 ^ (8 * len) - 1) * hi
        let wv := data % 2 ^ (8 * len) * hi
        let inc := (match blockAt die page with | some (.sheaf, _) => off / 8 * 8 == 0x100 | _ => false)
        (if inc && s.mod.incRefused q die page wv then .err else .ok, regWrite env q die page (off / 8 * 8) we wv s)
  else
    match readReg s.aon s.mod q die page off len with
    | (some v, m) => (.data v, { s with mod := m })
    | (none, m) => (.err, { s with mod := m })

/-- A requester code of R23. -/
def isReq (q : Nat) : Bool := isCore q || (decide (0xF00 ≤ q) && decide (q < 0xF06)) || q == hostCode

/-- What a register command tests of its access: state, die, page, register, bits written, their values. -/
abbrev RegTest := State → Nat → Nat → Nat → Nat → Nat → Bool

/-- Run a register command: the access it names, if it is one for the register that the command is about. An access that another
must precede, or that the test turns away, leaves the state as it is. -/
def regRow (write : Bool) (ok : RegTest) (a : RegAcc) (s : State) : Ans :=
  if a.id.isNone && !isReq a.q then .fault (.noSuchAgent a.q)
  else if !s.aon.powered || s.aon.poDue then .next s
  else
    let env : Env := { test := a.test, dead := a.dead }
    let go := fun (b : State) (q mpa len : Nat) (full : Bool) (data : Nat) (done : Resp → State → State) =>
      match decodeMpa mpa with
      | .reg die page off =>
        let sh := if off % 8 = 4 then 2 ^ 32 else 1
        if ok s die page (off / 8 * 8) ((2 ^ (8 * len) - 1) * sh) (data % 2 ^ (8 * len) * sh) then
          let r := regAccess env q die page off len write full data b
          done r.1 r.2
        else s
      | _ => s
    .next (match a.id with
      | none => go s a.q a.mpa a.size true a.v.toNat (fun _ t => t)
      | some id =>
        match s.mod.findReq id with
        | none => s
        | some r =>
          if !r.waiting || s.mod.mustFollow r then s
          else if (s.mod.ejected r).2 then { s with mod := (s.mod.ejected r).1 }
          else
            let b := { s with mod := (s.mod.ejected r).1 }
            let done := fun (x : Resp) (t : State) => { t with mod := t.mod.respond id x }
            match r.op, write with
            | .read, false => go b r.q r.mpa r.len true 0 done
            | .write mask data, true => go b r.q r.mpa r.len (decide (mask = 2 ^ r.len - 1)) data done
            | .accFast _ data _, true => go b r.q r.mpa r.len false data done
            | .accExact _ data _, true => go b r.q r.mpa r.len false data done
            | _, _ => s)

/-! ### The commands -/

/-- Any register: the access goes through the rules of its block. -/
def anyReg : RegTest := fun _ _ _ _ _ _ => true
/-- A register of blocks of one type. -/
def inBlock (b : Block) (f : Nat → Nat → Nat → Bool) : RegTest := fun _ die page off we wv =>
  (match blockAt die page with | some (x, _) => decide (x = b) | none => false) && f off we wv
/-- A register at one offset, with a bit of it set. -/
def bitOf (b : Block) (off bit : Nat) : RegTest := inBlock b (fun o we wv => o == off && wrote we wv bit)

def execRegisterWrite (write : Bool) (a : RegAcc) (s : State) : Ans := regRow write anyReg a s
def execRegisterReadClear (a : RegAcc) (s : State) : Ans := regRow false (fun _ d p o _ _ => rcMask d p o != 0) a s
def execLock (a : RegAcc) (s : State) : Ans := regRow true (fun _ _ _ o we wv => o == 0x010 && wrote we wv 2) a s
def execFreeze (a : RegAcc) (s : State) : Ans := regRow true (fun _ _ _ o we _ => o == 0x010 && bits we 1 1 == 1) a s
def execIrqTest (a : RegAcc) (s : State) : Ans := regRow true (fun _ _ _ o _ _ => o == 0x030) a s
def execCfgEpochWrite (a : RegAcc) (s : State) : Ans := regRow true (fun _ _ _ o _ _ => o == 0x058) a s
def execPerfClear (a : RegAcc) (s : State) : Ans := regRow true (bitOf .perf 0x100 1) a s
def execPerfSnap (a : RegAcc) (s : State) : Ans := regRow true (bitOf .perf 0x100 2) a s
def execDigestGo (a : RegAcc) (s : State) : Ans := regRow true (bitOf .digest 0x100 32) a s
def execKeeperCfgEpochWrite (a : RegAcc) (s : State) : Ans := regRow true (inBlock .keeper (fun o _ _ => o == 0x400)) a s
def execPlaceEntWrite (a : RegAcc) (s : State) : Ans := regRow true (inBlock .place (fun o _ _ => decide (0x200 ≤ o) && decide (o < 0x400))) a s
def execCorePmDataWrite (a : RegAcc) (s : State) : Ans := regRow true (inBlock .core (fun o _ _ => o == 0x120)) a s
def execCorePmDataRead (a : RegAcc) (s : State) : Ans := regRow false (inBlock .core (fun o _ _ => o == 0x120)) a s
def execCoreRunStart (a : RegAcc) (s : State) : Ans :=
  regRow true (fun s d p o we wv => bitOf .core 0x100 0 s d p o we wv && s.mod.fld d p 0x100 0 1 == 0) a s
def execCoreRunStop (a : RegAcc) (s : State) : Ans :=
  regRow true (fun s d p o we wv => inBlock .core (fun o we wv => o == 0x100 && wrote0 we wv 0) s d p o we wv && s.mod.fld d p 0x100 0 1 == 1) a s
def execSheafInc (a : RegAcc) (s : State) : Ans := regRow true (inBlock .sheaf (fun o _ _ => o == 0x100)) a s
def execStookMaskWrite (a : RegAcc) (s : State) : Ans :=
  regRow true (fun s d p o we wv => inBlock .stook (fun _ _ _ => true) s d p o we wv &&
    decide (0x100 ≤ o) && decide (o < (if d < 4 then 0x280 else if d = 4 then 0x128 else 0x108))) a s
def execWatchCapture (a : RegAcc) (s : State) : Ans := regRow true (bitOf .watch 0x100 63) a s
def execChuteEnable (a : RegAcc) (s : State) : Ans :=
  regRow true (fun s d p o we wv =>
    inBlock .chute (fun o we wv => decide (0x100 ≤ o) && decide (o < 0x200) && o % 0x20 == 0 && wrote we wv 0) s d p o we wv ||
    inBlock .steward (fun o we wv => decide (0x600 ≤ o) && decide (o < 0x700) && o % 0x20 == 0 && wrote we wv 0) s d p o we wv) a s
def execWainGo (a : RegAcc) (s : State) : Ans := regRow true (bitOf .wain 0x100 0) a s
def execWainStop (a : RegAcc) (s : State) : Ans := regRow true (bitOf .wain 0x100 1) a s
def execFurrowEnter (a : RegAcc) (s : State) : Ans := regRow true (bitOf .furrow 0x100 0) a s
def execFurrowDrain (a : RegAcc) (s : State) : Ans := regRow true (bitOf .furrow 0x100 3) a s
def execFurrowExit (a : RegAcc) (s : State) : Ans := regRow true (bitOf .furrow 0x100 4) a s
def execDielinkRetrain (a : RegAcc) (s : State) : Ans := regRow true (bitOf .dielink 0x100 0) a s
def execLpEnter (a : RegAcc) (s : State) : Ans := regRow true (bitOf .dielink 0x100 1) a s
/-- LP_EXIT: LP is cleared, or a frame is ready at the end `wake` names. -/
def execLpExit (wake : Option (Nat × Nat)) (a : RegAcc) (s : State) : Ans :=
  match wake with
  | some x => if isLinkEnd x.1 x.2 then .next (if s.aon.powered then { s with mod := s.mod.lpWake x.1 x.2 } else s) else .fault (.noSuchAgent x.2)
  | none => regRow true (inBlock .dielink (fun o we wv => o == 0x100 && wrote0 we wv 1)) a s
/-- A register of an accumulation descriptor: word `i` of it. -/
def accWord (i : Nat) (f : Nat → Nat → Bool) : RegTest :=
  inBlock .granary (fun o we wv => decide (0x400 ≤ o) && decide (o < 0x800) && (o - 0x400) % 0x40 / 8 == i && f we wv)
def execAccEnable (a : RegAcc) (s : State) : Ans := regRow true (accWord 0 (fun we wv => wrote we wv 0)) a s
def execAccDisable (a : RegAcc) (s : State) : Ans := regRow true (accWord 0 (fun we wv => wrote0 we wv 0)) a s
def execFinalise (a : RegAcc) (s : State) : Ans := regRow true (accWord 3 (fun we wv => wrote we wv 1)) a s
def execZero (a : RegAcc) (s : State) : Ans := regRow true (accWord 3 (fun we wv => wrote we wv 0)) a s
def execGranaryCtrlWrite (a : RegAcc) (s : State) : Ans := regRow true (inBlock .granary (fun o _ _ => o == 0x100)) a s
def execSecApply (a : RegAcc) (s : State) : Ans := regRow true (bitOf .cad 0x110 1) a s
def execLoad (a : RegAcc) (s : State) : Ans := regRow true (bitOf .cad 0x110 2) a s
def execCadTimeLowRead (a : RegAcc) (s : State) : Ans := regRow false (inBlock .cad (fun o we _ => o == 0x100 && we == 2 ^ 32 - 1)) a s
def execFrameCfgWrite (a : RegAcc) (s : State) : Ans := regRow true (inBlock .cad (fun o _ _ => o == 0x138)) a s
def execSlotEnable (a : RegAcc) (s : State) : Ans := regRow true (inBlock .cad (fun o we wv => o == 0x140 && (we &&& wv) != 0)) a s
def execMsixSend (a : RegAcc) (s : State) : Ans := regRow true (inBlock .hostport (fun o _ _ => o == 0x110)) a s
def execBar2AperWrite (a : RegAcc) (s : State) : Ans := regRow true (inBlock .hostport (fun o _ _ => o == 0x108)) a s
/-- A write of a ring's IN register that leaves EN 1, from EN `was`. -/
def ringTest (was : Nat) : RegTest := fun s d p o we wv =>
  inBlock .hostport (fun o _ _ => decide (0x200 ≤ o) && decide (o < 0x400) && o % 0x20 == 0) s d p o we wv &&
    s.mod.fld d p o 63 1 == was && (if was = 0 then wrote we wv 63 else !wrote0 we wv 63)
def execRingEnable (a : RegAcc) (s : State) : Ans := regRow true (ringTest 0) a s
def execRingRewrite (a : RegAcc) (s : State) : Ans := regRow true (ringTest 1) a s
/-- A register of a compute die's STEWARD page in a span, with a test of the change from `old`. -/
def stwReg (lo hi : Nat) (f : Nat → Nat → Nat → Bool) : RegTest := fun s d p o we wv =>
  inBlock .steward (fun o _ _ => decide (lo ≤ o) && decide (o < hi)) s d p o we wv && decide (d < 4) && f (s.mod.reg d p o) we wv
def execPmapWrite (a : RegAcc) (s : State) : Ans := regRow true (stwReg 0x200 0x260 (fun _ _ _ => true)) a s
def execParkRequest (a : RegAcc) (s : State) : Ans := regRow true (stwReg 0x320 0x340 (fun _ we wv => (we &&& wv) != 0)) a s
def execParkClear (a : RegAcc) (s : State) : Ans := regRow true (stwReg 0x320 0x340 (fun old we wv => (old &&& we &&& (2 ^ 64 - 1 - wv)) != 0)) a s
def execDozeRequest (a : RegAcc) (s : State) : Ans := regRow true (stwReg 0x110 0x118 (fun _ we wv => wrote we wv 0)) a s
def execDozeClear (a : RegAcc) (s : State) : Ans := regRow true (stwReg 0x110 0x118 (fun _ we wv => wrote0 we wv 0)) a s
def execRetire (a : RegAcc) (s : State) : Ans := regRow true (stwReg 0x300 0x320 (fun _ we wv => (we &&& wv) != 0)) a s
def execUnretire (a : RegAcc) (s : State) : Ans := regRow true (stwReg 0x300 0x320 (fun old we wv => (old &&& we &&& (2 ^ 64 - 1 - wv)) != 0)) a s
def execCr (a : RegAcc) (s : State) : Ans := regRow true (stwReg 0x100 0x108 (fun _ we wv => wrote we wv 8)) a s
def execPr (a : RegAcc) (s : State) : Ans := regRow true (stwReg 0x100 0x108 (fun _ we wv => wrote we wv 20)) a s
def execDr (a : RegAcc) (s : State) : Ans := regRow true (fun s d p o we wv => bitOf .sweep 0x118 8 s d p o we wv && d == 4) a s
def execStewardWatchdogKick (a : RegAcc) (s : State) : Ans := regRow true (bitOf .sweep 0x110 16) a s
/-- GO of a request whose service code is `code`. -/
def service (code : Nat) : RegTest := fun s d p o we wv => bitOf .keeper 0x110 0 s d p o we wv && d == 4 && s.mod.mboxCode == code
/-- The same service asked for by a bit of KEEPER_CTRL. -/
def serviceOr (code bit : Nat) : RegTest := fun s d p o we wv => service code s d p o we wv || (bitOf .keeper 0x108 bit s d p o we wv && d == 4)
def execStatus (a : RegAcc) (s : State) : Ans := regRow true (service 0x01) a s
def execSelfTest (a : RegAcc) (s : State) : Ans := regRow true (serviceOr 0x02 1) a s
def execChallenge (a : RegAcc) (s : State) : Ans := regRow true (service 0x03) a s
def execRandom (a : RegAcc) (s : State) : Ans := regRow true (service 0x20) a s
def execEnrolCo (a : RegAcc) (s : State) : Ans := regRow true (service 0x30) a s
def execEnrolUser (a : RegAcc) (s : State) : Ans := regRow true (service 0x31) a s
def execEnrolCert (a : RegAcc) (s : State) : Ans := regRow true (service 0x32) a s
def execUpdate (a : RegAcc) (s : State) : Ans := regRow true (service 0x40) a s
def execLifecycle (a : RegAcc) (s : State) : Ans := regRow true (service 0x50) a s
def execDebugUnlock (a : RegAcc) (s : State) : Ans := regRow true (service 0x60) a s
def execZeroise (a : RegAcc) (s : State) : Ans := regRow true (serviceOr 0x70 0) a s
def execRecoveryGo (a : RegAcc) (s : State) : Ans := regRow true (bitOf .keeper 0x120 63) a s
def execPwrOpWrite (a : RegAcc) (s : State) : Ans := regRow true (inBlock .pwr (fun o _ _ => o == 0x100)) a s
def execPwrGrant (a : RegAcc) (s : State) : Ans := regRow true (inBlock .pwr (fun o _ _ => decide (0x220 ≤ o) && decide (o < 0x240))) a s

end Sys2Proof.Machine
end

