-- ==== Sys2Proof/Machine/Host.lean ====
section
/-! DEFINITION. The host port: BARs and host accesses (R386 to R391), the host window and its responses (R392, R393), MSI-X (R394), AER
(R395), link and configuration (R387, R403), and authorised debug (R452). -/

namespace Sys2Proof.Machine

/-! ### The link -/

/-- A TLP arrives: HOSTPORT_CNT_RX and event 0x88 count it (R28, R402). -/
def Mod.rx (m : Mod) : Mod := (m.addReg 4 hostportPage 0x140 1).dieEv 4 0x88 0 1

/-- The function takes TLPs: power is on, the link is up, and PERST_N is high. -/
def State.linkUp (s : State) : Bool := s.aon.powered && !s.aon.poDue && s.aon.perstN && s.mod.fld 4 hostportPage 0x100 0 1 == 1

/-- An MR's sweeps are under way (R403). -/
def Mod.mrSweep (m : Mod) : Bool := m.barnSweep 0 || m.barnSweep 1

/-- HOST_LINK_TRAINING: the port trains to a rate (1 to 6: 2.5 to 64 GT/s) and a width (R387). -/
def execHostLinkTraining (rate width : Nat) (s : State) : Ans :=
  .next (if s.aon.powered && !s.aon.poDue && !s.aon.jtag && s.aon.perstN && decide (1 ≤ rate) && decide (rate ≤ 6) && [1, 2, 4, 8, 16].contains width then
    { s with mod := s.mod.setReg 4 hostportPage 0x100 (rate * 2 ^ 16 + width * 2 ^ 8 + b2n s.mod.d3 * 2 + 1) }
    else s)

/-- HOST_LINK_DOWN: UP clears, and reads of the host window under way become access errors (R393). -/
def execHostLinkDown (s : State) : Ans :=
  .next (if s.mod.fld 4 hostportPage 0x100 0 1 = 1 then { s with mod := (s.mod.setFld 4 hostportPage 0x100 0 1 0).failReads } else s)

/-! ### AER (R395) -/

/-- An uncorrectable error is logged; the header log holds the first TLP that caused one. Bits are those of PCIe's Uncorrectable
Error Status (log entry 20). -/
def Mod.logUncor (m : Mod) (bit : Nat) (hdr : Option Nat) : Mod :=
  { m with aer := m.aer ||| 2 ^ bit, aerHeader := match m.aerHeader with | some h => some h | none => hdr }

/-- UNSUPPORTED_REQUEST: a request that is neither memory nor configuration is answered with UR. -/
def execUnsupportedRequest (tag hdr : Nat) (s : State) : Ans :=
  .next (if s.linkUp then { s with mod := (s.mod.rx.logUncor 20 (some (hdr % 2 ^ 128))).tlp (.unsupported tag) } else s)

/-- UNEXPECTED_COMPLETION: it, or a TLP with an ECRC error, is discarded. -/
def execUnexpectedCompletion (ecrc : Bool) (hdr : Nat) (s : State) : Ans :=
  .next (if s.linkUp then { s with mod := s.mod.rx.logUncor (if ecrc then 19 else 16) (some (hdr % 2 ^ 128)) } else s)

/-- MALFORMED_TLP: `kind` 0 a malformed TLP, 1 a flow control protocol error, 2 an uncorrectable internal error; the link retrains,
so that it is not up until HOST_LINK_TRAINING. -/
def execMalformedTlp (kind hdr : Nat) (s : State) : Ans :=
  .next (if s.linkUp then
    let bit := match kind with | 0 => 18 | 1 => 13 | _ => 22
    { s with mod := (s.mod.logUncor bit (if kind = 0 then some (hdr % 2 ^ 128) else none)).setFld 4 hostportPage 0x100 0 1 0 } else s)

/-- RECEIVER_ERROR: a correctable error of kind 0 receiver, 1 bad TLP, 2 bad DLLP, 3 replay rollover, 4 replay timeout, 5 corrected
internal, is counted. -/
def execReceiverError (kind : Nat) (s : State) : Ans :=
  .next (if s.linkUp then
    let bit := [0, 6, 7, 8, 12, 14].getD kind 14
    { s with mod := { s.mod with aerCor := s.mod.aerCor ||| 2 ^ bit, aerCount := SMap.put 0 s.mod.aerCount bit (SMap.get 0 s.mod.aerCount bit + 1) } }
    else s)

/-! ### BARs (R388 to R391) -/

/-- Where an offset of a BAR leads; BAR4 nowhere in RECOVERY and END (R444, R451): an MPA, a doubleword of the MSI-X table (12 bits of offset), one of the PBA, nowhere. -/
inductive BarTo where
  | mpa (a : Nat)
  | table (o : Nat)
  | pba (o : Nat)
  | none
  deriving DecidableEq, Repr

def Mod.barTo (m : Mod) (bar o : Nat) : BarTo :=
  match bar with
  | 0 =>
    if o < 0xC000000 then .mpa (0x50000000000 + o)
    else if o < 0xC001000 then .table (o - 0xC000000)
    else if o < 0xC002000 then .pba (o - 0xC001000)
    else .none
  | 2 => if o < 2 ^ m.bar2Log then .mpa (m.fld 4 hostportPage 0x108 28 11 * 2 ^ 28 + o) else .none
  | _ => if o < 2 ^ 32 ∧ m.kState ≠ 2 ∧ m.kState ≠ 5 then .mpa (0x40000000000 + o) else .none

/-- A vector that is pending and masked neither by its own bit nor by the function sends its message (R394). -/
def Mod.deliverVector (m : Mod) (v : Nat) : Mod :=
  if m.pba.getLsbD v && !m.vectorMasked v && m.msixOn then
    ({ m with pba := m.pba &&& ~~~(BitVec.ofNat 256 (2 ^ v)) } : Mod).sendVector v
  else m

/-- A write within the MSI-X table: entry v's address at 16 v, data and control above it. Unmasking a pending vector sends it. -/
def Mod.tableWrite (m : Mod) (o len data : Nat) : Mod :=
  let v := o / 16
  let old := (SMap.get 0 m.msixTab (3 * v)).toNat + (SMap.get 0 m.msixTab (3 * v + 1)).toNat % 2 ^ 32 * 2 ^ 64 + (SMap.get 1 m.msixTab (3 * v + 2)).toNat % 2 ^ 32 * 2 ^ 96
  let new := setBits old (o % 16 * 8) (8 * len) data
  let t := SMap.put 0 (SMap.put 0 m.msixTab (3 * v) (BitVec.ofNat 64 (bits new 0 64))) (3 * v + 1) (BitVec.ofNat 64 (bits new 64 32))
  ({ m with msixTab := SMap.put 1 t (3 * v + 2) (BitVec.ofNat 64 (bits new 96 1)) } : Mod).deliverVector v

/-- A doubleword or quadword of the table or the PBA as the host reads it. -/
def Mod.tableRead (m : Mod) (o len : Nat) : Nat :=
  let v := o / 16
  bits ((SMap.get 0 m.msixTab (3 * v)).toNat + (SMap.get 0 m.msixTab (3 * v + 1)).toNat % 2 ^ 32 * 2 ^ 64 +
    (SMap.get 1 m.msixTab (3 * v + 2)).toNat % 2 ^ 32 * 2 ^ 96) (o % 16 * 8) (8 * len)

/-- The granules of an access of `n` bytes at an MPA: MPA and length of each (R213). -/
def granules : Nat → Nat → Nat → List (Nat × Nat)
  | 0, _, _ => []
  | fuel + 1, mpa, n =>
    if n = 0 then []
    else
      let k := Nat.min n (64 - mpa % 64)
      (mpa, k) :: granules fuel (mpa + k) (n - k)

/-- A TLP to memory becomes a request for each of its granules, which the network takes to their homes (R213, R389, R391): `data` are the bytes
of a write. -/
def Mod.hostAccess (m : Mod) (write : Bool) (mpa len data tag : Nat) : Mod :=
  let n := m.nextId
  let m1 : Mod := { m with nextId := n + 1 }
  let m2 := (granules (len / 64 + 2) mpa len).foldl (fun (x : Mod) g =>
    x.post (.host n) hostCode 4 g.1 g.2 (if write then .write (byteMask g.2) (bits data (8 * (g.1 - mpa)) (8 * g.2)) else .read)) m1
  ({ m2 with hostQ := m2.hostQ ++ [{ id := n, write := write, len := len, tag := tag }] } : Mod).hostSettle

/-- A write of the host to memory is still to be performed: a later write of it waits (R391). -/
def Mod.hostWrites (m : Mod) : Bool := m.hostQ.any (fun h => h.write)

/-- A TLP of a memory request fits its BAR and the link's limits. -/
def tlpFits (bar len max : Nat) : Bool := (bar == 0 || bar == 2 || bar == 4) && decide (1 ≤ len) && decide (len ≤ max)

/-- HOST_MEMORY_WRITE: `len` bytes at an offset of a BAR; a register write behind a memory write that is not yet performed travels as a request
of its own (R391). A poisoned TLP is discarded; during an MR's sweeps and in D3hot the write is
discarded (R403). -/
def execHostMemoryWrite (bar off len data : Nat) (ep : Bool) (hdr test dead : Nat) (s0 : State) : Ans :=
  .next (if !s0.linkUp || !tlpFits bar len 512 then s0
    else
      let s := { s0 with mod := s0.mod.rx }
      let m := s.mod
      let dst := m.barTo bar off
      if m.mrSweep || m.d3 then s
      else if ep then
        let mpa := match dst with | .mpa a => a | _ => 0
        { s with mod := (m.err 4 hostportPage 11 hostCode 0 mpa).logUncor 12 (some (hdr % 2 ^ 128)) }
      else match dst with
        | .table o =>
          if (len = 4 ∨ len = 8) ∧ o % len = 0 then { s with mod := m.tableWrite o len data } else { s with mod := m.hostErr hostCode 0 }
        | .mpa a =>
          (match decodeMpa a with
            | .reg die page o =>
              if m.hostWrites then { s with mod := m.hostAccess true a len data 0 }
              else (regAccess { test := test, dead := dead } hostCode die page o len true true data s).2
            | _ => { s with mod := m.hostAccess true a len data 0 })
        | .pba _ => s
        | .none => { s with mod := m.hostErr hostCode 0 } )

/-- A management read of a SWEEP or THERM page through BAR0, which is served whatever the module does (R425). -/
def managementRead : BarTo → Bool
  | .mpa a => (match decodeMpa a with | .reg die page _ => page == sweepPage die || page == thermPage die | _ => false)
  | _ => false

/-- HOST_MEMORY_READ: `len` bytes at an offset of a BAR, completed with the tag (R389); during an MR's sweeps and in D3hot it ends as UR
(R403), management reads during an MR excepted. -/
def execHostMemoryRead (bar off len tag : Nat) (s0 : State) : Ans :=
  .next (if !s0.linkUp || !tlpFits bar len 4096 then s0
    else
      let s := { s0 with mod := s0.mod.rx }
      let m := s.mod
      let say := fun (m : Mod) (v : Nat) (ep : Bool) => { s with mod := m.tlp (.completion tag len v ep) }
      if (m.mrSweep && !managementRead (m.barTo bar off)) || m.d3 then { s with mod := m.tlp (.unsupported tag) }
      else match m.barTo bar off with
        | .table o => say m (m.tableRead o len) false
        | .pba o => say m (bits m.pba.toNat (8 * o) (8 * len)) false
        | .none => say (m.hostErr hostCode 0) 0 false
        | .mpa a =>
          (match decodeMpa a with
            | .reg die page o =>
              (match readReg s.aon m hostCode die page o len with
                | (some v, m1) => say m1 v false
                | (none, m1) => say m1 0 false)
            | _ => { s with mod := m.hostAccess false a len 0 tag }))

/-- SWEEP_DONE: a sweep ends (`sweepEnd`). -/
def execSweepDone (what n : Nat) (s : State) : Ans := sweepEnd what n s

/-! ### The host window (R392, R393) -/

/-- HOST_WINDOW_ACCESS: a module request to the host window is mapped and sent, or ends as an access error. A write is acknowledged
once accepted for transmission. -/
def execHostWindowAccess (id : Nat) (s : State) : Ans :=
  match s.mod.findReq id with
  | none => .next s
  | some r =>
    .next (match decodeMpa r.mpa with
      | .host _ =>
        if !r.waiting || r.sent || s.mod.mustFollow r then s
        else
          let e := s.mod.ejected r
          let m := e.1
          let bad := (m.hostErr r.q r.mpa).respond id .err
          { s with mod :=
            if e.2 then m
            else match m.hostAddr r.mpa with
            | none => bad
            | some p =>
              if !m.hostUp then bad
              else match r.op with
                | .read => ({ m with net := m.net.map (fun (x : Req) => if x.id = id then { x with sent := true } else x) } : Mod).tlp (.memRead id p.1 r.len p.2)
                | .write mask data => (m.tlp (.memWrite p.1 r.len mask data p.2)).respond id .ok
                | _ => bad }
      | _ => s)

/-- A read of the host window that waits for its completion. -/
def Mod.hostWaits (m : Mod) (id : Nat) : Option Req :=
  match m.findReq id with
  | some r => (match decodeMpa r.mpa with | .host _ => if r.resp.isNone && r.sent then some r else none | _ => none)
  | none => none

/-- HOST_COMPLETION of a read: `status` 0 successful, 1 Unsupported Request or Completer Abort, 2 with EP set (R393). -/
def execHostCompletion (id status data : Nat) (s : State) : Ans :=
  .next (match s.mod.hostWaits id with
    | none => s
    | some r =>
      let m := s.mod.rx
      { s with mod := match status with
          | 0 => m.respond id (.data (data % 2 ^ (8 * r.len)))
          | 1 => (m.hostErr r.q r.mpa).respond id .err
          | _ => m.respond id .poison })

/-- COMPLETION_TIMEOUT: 50 ms have passed without a completion. -/
def execCompletionTimeout (id : Nat) (s : State) : Ans :=
  .next (match s.mod.hostWaits id with
    | none => s
    | some r => { s with mod := ((((s.mod.hostErr r.q r.mpa).err 4 hostportPage 10 r.q 0 r.mpa).logUncor 14 none).respond id .err) })

/-! ### MSI-X, BAR size, configuration -/

/-- MSIX_UNMASK: the host clears a vector's mask bit, and a pending message is sent (R394). -/
def execMsixUnmask (v : Nat) (s : State) : Ans :=
  if 256 ≤ v then .fault (.noSuchAgent v)
  else .next (if s.linkUp then
    { s with mod := ({ s.mod with msixTab := SMap.put 1 s.mod.msixTab (3 * v + 2) 0 } : Mod).deliverVector v } else s)

/-- BAR_RESIZE: BAR2 becomes 2^n bytes; an APER that no longer meets R390 becomes 0, a change of a C field (R19, R34). -/
def execBarResize (n : Nat) (s : State) : Ans :=
  .next (if s.linkUp && decide (28 ≤ n) && decide (n ≤ 39) then
    let m := { s.mod with bar2Log := n }
    let a := m.fld 4 hostportPage 0x108 28 11 * 2 ^ 28
    { s with mod := if a % 2 ^ n ≠ 0 ∨ 2 ^ 39 < a + 2 ^ n then
        ((((m.digestStep 4).setFld 4 hostportPage 0x108 28 11 0).orReg 4 hostportPage 0x018 0x20).disturb 4 hostportPage) else m } else s)

/-- A doubleword of configuration space (R386): identity, BARs with their sizes and types, and what has been written elsewhere. -/
def Mod.cfgRead (m : Mod) (dw : Nat) : Nat :=
  let v := (SMap.get 0 m.cfgSpace dw).toNat
  match dw with
  | 0 => 0xC4A01E6B
  | 2 => 0x120000B1
  | 0xB => 0x05121E6B
  | 4 => v / 2 ^ 28 * 2 ^ 28 + 4
  | 6 => v / 2 ^ Nat.min m.bar2Log 32 * 2 ^ Nat.min m.bar2Log 32 + 12
  | 7 => v / 2 ^ (m.bar2Log - 32) * 2 ^ (m.bar2Log - 32)
  | 8 => 12
  | _ => v

/-- CONFIGURATION_REQUEST: a doubleword is read or written, or during an MR's sweeps answered with Request Retry Status (R403).
A write of the DOE read mailbox (doubleword 0x204) takes the response; one of MSI-X control (0x2C) may end the function mask
(log entry 20). -/
def execConfigurationRequest (tag dw : Nat) (write : Bool) (v : BitVec 32) (s : State) : Ans :=
  .next (if !s.linkUp then s
    else
      let m := s.mod.rx
      if m.mrSweep then { s with mod := m.tlp (.retry tag) }
      else if write then
        let m1 := { m with cfgSpace := SMap.put 0 m.cfgSpace (dw % 1024) v }
        let m2 := if dw % 1024 = 0x2C then (List.range 256).foldl (fun (x : Mod) k => x.deliverVector k) m1 else m1
        { s with mod := (if dw % 1024 = 0x204 then { m2 with doeBusy := false, doeErr := false } else m2).tlp (.completion tag 0 0 false) }
      else { s with mod := m.tlp (.completion tag 4 (m.cfgRead (dw % 1024)) false) })

/-! ### Authorised debug (R452) -/

/-- AUTHORISED_DEBUG through JTAG: 0 halt and 1 release core or steward `c`; 2 read and 3 write 8 bytes of its Loft or local memory at `x`;
4 read and 5 write the register at MPA `x`. It needs DEBUG_UNLOCK, the KEEPER page level 2; in life cycle TEST debug is open. -/
def execAuthorisedDebug (op c x : Nat) (v : Word) (s : State) : Ans :=
  let level := if s.aon.lc = 0 then 2 else s.mod.keeper.debug
  let say := fun (m : Mod) (l : List Nat) => { s with mod := { m with out := m.out ++ [Out.reply 0x14 0 l] } }
  if op < 4 ∧ isCpu c = false then .fault (.noSuchAgent c)
  else .next (if level = 0 || !s.aon.powered || s.aon.poDue then s
    else match op with
      | 0 => { s with mod := { s.mod with debugHalt := if s.mod.debugHalt.contains c then s.mod.debugHalt else s.mod.debugHalt ++ [c] } }
      | 1 => { s with mod := { s.mod with debugHalt := s.mod.debugHalt.filter (fun y => y != c) } }
      | 2 => if x % 8 = 0 ∧ x < ownTop c then say s.mod (leBytes 8 (s.mod.rd (loftKey c + x) 8)) else s
      | 3 => if x % 8 = 0 ∧ x < ownTop c then { s with mod := s.mod.wr (loftKey c + x) 8 v.toNat } else s
      | _ =>
        match decodeMpa x with
        | .reg die page off =>
          if level < 2 ∧ die = 4 ∧ page = keeperPage then s
          else
            let r := regAccess {} fwCode die page off 8 (op == 5) true v.toNat s
            (match r.1 with
              | .data w => { r.2 with mod := { r.2.mod with out := r.2.mod.out ++ [Out.reply 0x14 0 (leBytes 8 w)] } }
              | _ => r.2)
        | _ => s)

end Sys2Proof.Machine
end

