-- ==== Sys2Proof/Machine/Scalar.lean ====
section
/-! DEFINITION. The scalar arithmetic of R48, R50 and R60, R61: one meaning per instruction over shared operations. -/

namespace Sys2Proof.Machine

/-! ### Operations -/

def aluShl (a b : Word) : Word := a <<< (b.toNat % 64)
def aluShr (a b : Word) : Word := a >>> (b.toNat % 64)
def aluSar (a b : Word) : Word := a.sshiftRight (b.toNat % 64)
def aluRor (a b : Word) : Word := a.rotateRight (b.toNat % 64)
def aluSlt (a b : Word) : Word := if a.toInt < b.toInt then 1 else 0
def aluSltu (a b : Word) : Word := if a.toNat < b.toNat then 1 else 0
def aluSeq (a b : Word) : Word := if a = b then 1 else 0
def aluMin (a b : Word) : Word := if a.toInt < b.toInt then a else b
def aluMax (a b : Word) : Word := if a.toInt < b.toInt then b else a
def aluMinu (a b : Word) : Word := if a.toNat < b.toNat then a else b
def aluMaxu (a b : Word) : Word := if a.toNat < b.toNat then b else a
def aluClz (b : Word) : Word := BitVec.ofNat 64 (64 - bitLen b.toNat)
def aluPopc (b : Word) : Word := BitVec.ofNat 64 (popc 64 b.toNat)
def aluSx (w : Nat) (b : Word) : Word := BitVec.ofInt 64 (sext w b.toNat)

/-- ALU3's functions by code (R50); none for a reserved code. -/
def alu3Fn (fn : Nat) (a b : Word) : Option Word :=
  match fn with
  | 0 => some (a + b) | 1 => some (a - b) | 2 => some (a &&& b) | 3 => some (a ||| b) | 4 => some (a ^^^ b)
  | 5 => some (aluShl a b) | 6 => some (aluShr a b) | 7 => some (aluSar a b) | 8 => some (aluRor a b)
  | 9 => some (aluSlt a b) | 10 => some (aluSltu a b) | 11 => some (aluSeq a b)
  | 12 => some (aluMin a b) | 13 => some (aluMax a b) | 14 => some (aluMinu a b) | 15 => some (aluMaxu a b)
  | 16 => some (a &&& ~~~b) | _ => none

/-- g[d] = f g[d] g[s] (R48). -/
def alu2 (f : Word → Word → Word) (c : Nat) (d s : BitVec 4) (m : Mod) : Mod :=
  issue c 1 [] false false [d.toNat, s.toNat]
    (fun m k => .ok (m.setCore c (k.setG d.toNat (f (k.gr d.toNat) (k.gr s.toNat))))) m

/-- g[d] = f g[s] (R48). -/
def alu1 (f : Word → Word) (c : Nat) (d s : BitVec 4) (m : Mod) : Mod :=
  issue c 1 [] false false [s.toNat] (fun m k => .ok (m.setCore c (k.setG d.toNat (f (k.gr s.toNat))))) m

/-- g[d] = f g[a], form I of R49; `ills` where imm12 breaks a mark. -/
def aluImm (f : Word → Word) (ills : List Nat) (c : Nat) (d a : BitVec 4) (m : Mod) : Mod :=
  issue c 2 ills false false [a.toNat] (fun m k => .ok (m.setCore c (k.setG d.toNat (f (k.gr a.toNat))))) m

/-- imm12 sign-extended and zero-extended. -/
def immS (imm : BitVec 12) : Word := imm.signExtend 64
def immZ (imm : BitVec 12) : Word := imm.setWidth 64

/-- A shift immediate has imm12[11:6] marked 0. -/
def shiftIll (imm : BitVec 12) : List Nat := if imm.toNat / 64 = 0 then [] else [1]

def execIll (c : Nat) (_d _s : BitVec 4) (s : State) : Ans :=
  onCpu c s (issue c 1 [0] false false [] (fun m _ => .ok m))
def execNop (c : Nat) (_d _s : BitVec 4) (s : State) : Ans :=
  onCpu c s (issue c 1 [] false false [] (fun m _ => .ok m))
def execMov (c : Nat) (d r : BitVec 4) (s : State) : Ans := onCpu c s (alu1 (fun b => b) c d r)
def execAdd (c : Nat) (d r : BitVec 4) (s : State) : Ans := onCpu c s (alu2 (fun a b => a + b) c d r)
def execSub (c : Nat) (d r : BitVec 4) (s : State) : Ans := onCpu c s (alu2 (fun a b => a - b) c d r)
def execAnd (c : Nat) (d r : BitVec 4) (s : State) : Ans := onCpu c s (alu2 (fun a b => a &&& b) c d r)
def execOr (c : Nat) (d r : BitVec 4) (s : State) : Ans := onCpu c s (alu2 (fun a b => a ||| b) c d r)
def execXor (c : Nat) (d r : BitVec 4) (s : State) : Ans := onCpu c s (alu2 (fun a b => a ^^^ b) c d r)
def execShl (c : Nat) (d r : BitVec 4) (s : State) : Ans := onCpu c s (alu2 aluShl c d r)
def execShr (c : Nat) (d r : BitVec 4) (s : State) : Ans := onCpu c s (alu2 aluShr c d r)
def execSar (c : Nat) (d r : BitVec 4) (s : State) : Ans := onCpu c s (alu2 aluSar c d r)
def execRor (c : Nat) (d r : BitVec 4) (s : State) : Ans := onCpu c s (alu2 aluRor c d r)
def execSlt (c : Nat) (d r : BitVec 4) (s : State) : Ans := onCpu c s (alu2 aluSlt c d r)
def execSltu (c : Nat) (d r : BitVec 4) (s : State) : Ans := onCpu c s (alu2 aluSltu c d r)
def execSeq (c : Nat) (d r : BitVec 4) (s : State) : Ans := onCpu c s (alu2 aluSeq c d r)
def execNot (c : Nat) (d r : BitVec 4) (s : State) : Ans := onCpu c s (alu1 (fun b => ~~~b) c d r)
def execNeg (c : Nat) (d r : BitVec 4) (s : State) : Ans := onCpu c s (alu1 (fun b => 0 - b) c d r)
def execMin (c : Nat) (d r : BitVec 4) (s : State) : Ans := onCpu c s (alu2 aluMin c d r)
def execMax (c : Nat) (d r : BitVec 4) (s : State) : Ans := onCpu c s (alu2 aluMax c d r)
def execClz (c : Nat) (d r : BitVec 4) (s : State) : Ans := onCpu c s (alu1 aluClz c d r)
def execPopc (c : Nat) (d r : BitVec 4) (s : State) : Ans := onCpu c s (alu1 aluPopc c d r)
def execSxb (c : Nat) (d r : BitVec 4) (s : State) : Ans := onCpu c s (alu1 (aluSx 8) c d r)
def execSxh (c : Nat) (d r : BitVec 4) (s : State) : Ans := onCpu c s (alu1 (aluSx 16) c d r)
def execSxw (c : Nat) (d r : BitVec 4) (s : State) : Ans := onCpu c s (alu1 (aluSx 32) c d r)

def execAddi (c : Nat) (d a : BitVec 4) (imm : BitVec 12) (s : State) : Ans :=
  onCpu c s (aluImm (fun x => x + immS imm) [] c d a)
def execAndi (c : Nat) (d a : BitVec 4) (imm : BitVec 12) (s : State) : Ans :=
  onCpu c s (aluImm (fun x => x &&& immZ imm) [] c d a)
def execOri (c : Nat) (d a : BitVec 4) (imm : BitVec 12) (s : State) : Ans :=
  onCpu c s (aluImm (fun x => x ||| immZ imm) [] c d a)
def execXori (c : Nat) (d a : BitVec 4) (imm : BitVec 12) (s : State) : Ans :=
  onCpu c s (aluImm (fun x => x ^^^ immZ imm) [] c d a)
def execShli (c : Nat) (d a : BitVec 4) (imm : BitVec 12) (s : State) : Ans :=
  onCpu c s (aluImm (fun x => aluShl x (immZ imm)) (shiftIll imm) c d a)
def execShri (c : Nat) (d a : BitVec 4) (imm : BitVec 12) (s : State) : Ans :=
  onCpu c s (aluImm (fun x => aluShr x (immZ imm)) (shiftIll imm) c d a)
def execSari (c : Nat) (d a : BitVec 4) (imm : BitVec 12) (s : State) : Ans :=
  onCpu c s (aluImm (fun x => aluSar x (immZ imm)) (shiftIll imm) c d a)
def execSlti (c : Nat) (d a : BitVec 4) (imm : BitVec 12) (s : State) : Ans :=
  onCpu c s (aluImm (fun x => aluSlt x (immS imm)) [] c d a)
def execMovi (c : Nat) (d : BitVec 4) (imm : BitVec 16) (s : State) : Ans :=
  onCpu c s (issue c 2 [] false false [] (fun m k => .ok (m.setCore c (k.setG d.toNat (imm.signExtend 64)))))
def execMovk (c : Nat) (d : BitVec 4) (imm : BitVec 16) (s : State) : Ans :=
  onCpu c s (aluImm (fun x => (x <<< 16) ||| imm.setWidth 64) [] c d d)

/-- ALU3; a reserved fn raises ILLEGAL with SUB 0. -/
def execAlu3 (c : Nat) (d a b : BitVec 4) (fn : BitVec 8) (s : State) : Ans :=
  onCpu c s (issue c 2 (if (alu3Fn fn.toNat 0 0).isSome then [] else [0]) false false [a.toNat, b.toNat]
    (fun m k => match alu3Fn fn.toNat (k.gr a.toNat) (k.gr b.toNat) with
      | some v => .ok (m.setCore c (k.setG d.toNat v))
      | none => .ok m))

/-! ### Multiply and divide -/

/-- PL and PH as one 128-bit number: what every multiply-divide instruction in program order so far leaves there. -/
def Core.phplLast (k : Core) : Nat :=
  match k.md.getLast? with
  | some x => x.val
  | none => k.ph.toNat * 2 ^ 64 + k.pl.toNat

/-- The 128-bit results of R48 and R61 from g[d], g[s] and the previous PL and PH. -/
def mulRes (a b : Word) : Nat := ofInt 128 (a.toInt * b.toInt)
def muluRes (a b : Word) : Nat := a.toNat * b.toNat
def mulhRes (a b : Word) : Nat := ofInt 128 (a.toInt * (b.toNat : Int))
def macRes (prev : Nat) (a b : Word) : Nat := ofInt 128 ((prev : Int) + a.toInt * b.toInt)
def divRes (a b : Word) : Nat :=
  if b = 0 then a.toNat * 2 ^ 64 + (2 ^ 64 - 1)
  else ofInt 64 (a.toInt.tmod b.toInt) * 2 ^ 64 + ofInt 64 (a.toInt.tdiv b.toInt)
def divuRes (a b : Word) : Nat :=
  if b = 0 then a.toNat * 2 ^ 64 + (2 ^ 64 - 1) else a.toNat % b.toNat * 2 ^ 64 + a.toNat / b.toNat

/-- Start a multiply-divide instruction (R60): it waits while a division is outstanding. -/
def mulDiv (isDiv : Bool) (f : Nat → Word → Word → Nat) (c : Nat) (d s : BitVec 4) (m : Mod) : Mod :=
  issue c 1 [] false false [d.toNat, s.toNat] (fun m k =>
    if k.md.any (fun x => x.div) then .stay m
    else .ok (m.setCore c { k with md := k.md ++ [{ val := f k.phplLast (k.gr d.toNat) (k.gr s.toNat), div := isDiv }] })) m

def execMul (c : Nat) (d r : BitVec 4) (s : State) : Ans := onCpu c s (mulDiv false (fun _ a b => mulRes a b) c d r)
def execMulu (c : Nat) (d r : BitVec 4) (s : State) : Ans := onCpu c s (mulDiv false (fun _ a b => muluRes a b) c d r)
def execMulh (c : Nat) (d r : BitVec 4) (s : State) : Ans := onCpu c s (mulDiv false (fun _ a b => mulhRes a b) c d r)
def execMac (c : Nat) (d r : BitVec 4) (s : State) : Ans := onCpu c s (mulDiv false macRes c d r)
def execDiv (c : Nat) (d r : BitVec 4) (s : State) : Ans := onCpu c s (mulDiv true (fun _ a b => divRes a b) c d r)
def execDivu (c : Nat) (d r : BitVec 4) (s : State) : Ans := onCpu c s (mulDiv true (fun _ a b => divuRes a b) c d r)

/-- The oldest multiply-divide result in flight is written to PL and PH (R60). -/
def Core.writeMd (k : Core) : Core :=
  match k.md with
  | [] => k
  | x :: t => { k with md := t, pl := BitVec.ofNat 64 x.val, ph := BitVec.ofNat 64 (x.val / 2 ^ 64) }

def execMuldivResult (c : Nat) (s : State) : Ans := onCpu c s (fun m => m.onCore c Core.writeMd)

def execMfpl (c : Nat) (d _s : BitVec 4) (s : State) : Ans :=
  onCpu c s (issue c 1 [] false false [] (fun m k => .ok (m.setCore c (k.setG d.toNat k.pl))))
def execMfph (c : Nat) (d _s : BitVec 4) (s : State) : Ans :=
  onCpu c s (issue c 1 [] false false [] (fun m k => .ok (m.setCore c (k.setG d.toNat k.ph))))
/-- MTPL waits until CS.MBUSY is 0 (R60). -/
def execMtpl (c : Nat) (_d r : BitVec 4) (s : State) : Ans :=
  onCpu c s (issue c 1 [] false false [r.toNat] (fun m k =>
    if k.md.isEmpty then .ok (m.setCore c { k with pl := k.gr r.toNat }) else .stay m))
def execMtph (c : Nat) (_d r : BitVec 4) (s : State) : Ans :=
  onCpu c s (issue c 1 [] false false [r.toNat] (fun m k =>
    if k.md.isEmpty then .ok (m.setCore c { k with ph := k.gr r.toNat }) else .stay m))

/-- MTP: d below 8 names a pointer, otherwise a step register (R48). -/
def execMtp (c : Nat) (d r : BitVec 4) (s : State) : Ans :=
  onCpu c s (issue c 1 [] false false [r.toNat] (fun m k =>
    .ok (m.setCore c (if d.toNat < 8 then k.setPtr d.toNat (k.gr r.toNat) else k.setStep (d.toNat - 8) (k.gr r.toNat)))))
def execMfp (c : Nat) (d r : BitVec 4) (s : State) : Ans :=
  onCpu c s (issue c 1 [] false false [] (fun m k =>
    .ok (m.setCore c (k.setG d.toNat (if r.toNat < 8 then k.pr r.toNat else k.sr (r.toNat - 8))))))

/-! ### Branches and loops (R50, R64, R67) -/

/-- A conditional branch of form B: the condition is read at issue. -/
def branchB (f : Word → Word → Bool) (c : Nat) (a b : BitVec 4) (off : BitVec 12) (m : Mod) : Mod :=
  issue c 2 [] true true [a.toNat, b.toNat] (fun m k =>
    .branch m (if f (k.gr a.toNat) (k.gr b.toNat) then some (k.pc + off.signExtend 16) else none) none) m

def branchZ (f : Word → Bool) (c : Nat) (a : BitVec 4) (off : BitVec 16) (m : Mod) : Mod :=
  issue c 2 [] true true [a.toNat] (fun m k =>
    .branch m (if f (k.gr a.toNat) then some (k.pc + off) else none) none) m

def execBeq (c : Nat) (a b : BitVec 4) (off : BitVec 12) (s : State) : Ans := onCpu c s (branchB (fun x y => x == y) c a b off)
def execBne (c : Nat) (a b : BitVec 4) (off : BitVec 12) (s : State) : Ans := onCpu c s (branchB (fun x y => x != y) c a b off)
def execBlt (c : Nat) (a b : BitVec 4) (off : BitVec 12) (s : State) : Ans :=
  onCpu c s (branchB (fun x y => decide (x.toInt < y.toInt)) c a b off)
def execBge (c : Nat) (a b : BitVec 4) (off : BitVec 12) (s : State) : Ans :=
  onCpu c s (branchB (fun x y => decide (y.toInt ≤ x.toInt)) c a b off)
def execBltu (c : Nat) (a b : BitVec 4) (off : BitVec 12) (s : State) : Ans :=
  onCpu c s (branchB (fun x y => decide (x.toNat < y.toNat)) c a b off)
def execBgeu (c : Nat) (a b : BitVec 4) (off : BitVec 12) (s : State) : Ans :=
  onCpu c s (branchB (fun x y => decide (y.toNat ≤ x.toNat)) c a b off)
def execBz (c : Nat) (a : BitVec 4) (off : BitVec 16) (s : State) : Ans := onCpu c s (branchZ (fun x => x == 0) c a off)
def execBnz (c : Nat) (a : BitVec 4) (off : BitVec 16) (s : State) : Ans := onCpu c s (branchZ (fun x => x != 0) c a off)
def execJ (c : Nat) (l : BitVec 4) (target : BitVec 16) (s : State) : Ans :=
  onCpu c s (issue c 2 [] true true [] (fun m _ => .branch m (some target) (if l = 0 then none else some l.toNat)))
/-- JR's target is read before its link is written. -/
def execJr (c : Nat) (d r : BitVec 4) (s : State) : Ans :=
  onCpu c s (issue c 1 [] true true [r.toNat] (fun m k =>
    .branch m (some ((k.gr r.toNat).setWidth 16)) (if d = 0 then none else some d.toNat)))

/-- Load a loop level (R67). -/
def startLoop (c n fin : Nat) (count : Word) (m : Mod) (k : Core) : Res :=
  let endA : PAddr := k.pc + BitVec.ofNat 16 fin
  let m1 := m.setCore c { k with lps := SMap.put 0 k.lps n (k.pc + 2), lpe := SMap.put 0 k.lpe n endA
                                 lpc := SMap.put 0 k.lpc n count }
  if count = 0 then .jump m1 endA else .ok m1

/-- LOOP: bits [17:16] are marked 0 (ILLEGAL SUB 1), and an end below 3 is ILLEGAL SUB 4. -/
def execLoop (c : Nat) (n zero : BitVec 2) (a : BitVec 4) (fin : BitVec 12) (s : State) : Ans :=
  onCpu c s (issue c 2 ((if zero = 0 then [] else [1]) ++ (if fin.toNat < 3 then [4] else [])) true false [a.toNat]
    (fun m k => startLoop c n.toNat fin.toNat (k.gr a.toNat) m k))
def execLoopi (c : Nat) (n : BitVec 2) (count : BitVec 8) (fin : BitVec 10) (s : State) : Ans :=
  onCpu c s (issue c 2 (if fin.toNat < 3 then [4] else []) true false []
    (fun m k => startLoop c n.toNat fin.toNat (count.setWidth 64) m k))

end Sys2Proof.Machine
end

