-- ==== Sys2Proof/Machine/Dispatch.lean ====
section
/-! DEFINITION. Which meaning each command has. -/

namespace Sys2Proof.Machine

/-- A command's effect on everything but the queue. -/
def exec (i : Instr) (s : State) : Host.Outcome State Fault Refusal :=
  match i with
  | .registerWrite write a => Sys2Proof.Machine.execRegisterWrite write a s
  | .registerReadClear a => Sys2Proof.Machine.execRegisterReadClear a s
  | .lock a => Sys2Proof.Machine.execLock a s
  | .freeze a => Sys2Proof.Machine.execFreeze a s
  | .irqTest a => Sys2Proof.Machine.execIrqTest a s
  | .cfgEpochWrite a => Sys2Proof.Machine.execCfgEpochWrite a s
  | .perfClear a => Sys2Proof.Machine.execPerfClear a s
  | .perfSnap a => Sys2Proof.Machine.execPerfSnap a s
  | .perfCounterWrap die page k => Sys2Proof.Machine.execPerfCounterWrap die page k s
  | .digestGo a => Sys2Proof.Machine.execDigestGo a s
  | .digestWalkDone die => Sys2Proof.Machine.execDigestWalkDone die s
  | .keeperDigestReport => Sys2Proof.Machine.execKeeperDigestReport s
  | .keeperCfgEpochWrite a => Sys2Proof.Machine.execKeeperCfgEpochWrite a s
  | .configStale d => Sys2Proof.Machine.execConfigStale d s
  | .keeperResetNotice => Sys2Proof.Machine.execKeeperResetNotice s
  | .placeEntWrite a => Sys2Proof.Machine.execPlaceEntWrite a s
  | .corePmDataWrite a => Sys2Proof.Machine.execCorePmDataWrite a s
  | .corePmDataRead a => Sys2Proof.Machine.execCorePmDataRead a s
  | .coreRunStart a => Sys2Proof.Machine.execCoreRunStart a s
  | .coreRunStop a => Sys2Proof.Machine.execCoreRunStop a s
  | .coreStop c => Sys2Proof.Machine.execCoreStop c s
  | .ill c _d _s => Sys2Proof.Machine.execIll c _d _s s
  | .nop c _d _s => Sys2Proof.Machine.execNop c _d _s s
  | .mov c d r => Sys2Proof.Machine.execMov c d r s
  | .add c d r => Sys2Proof.Machine.execAdd c d r s
  | .sub c d r => Sys2Proof.Machine.execSub c d r s
  | .and c d r => Sys2Proof.Machine.execAnd c d r s
  | .or c d r => Sys2Proof.Machine.execOr c d r s
  | .xor c d r => Sys2Proof.Machine.execXor c d r s
  | .shl c d r => Sys2Proof.Machine.execShl c d r s
  | .shr c d r => Sys2Proof.Machine.execShr c d r s
  | .sar c d r => Sys2Proof.Machine.execSar c d r s
  | .ror c d r => Sys2Proof.Machine.execRor c d r s
  | .slt c d r => Sys2Proof.Machine.execSlt c d r s
  | .sltu c d r => Sys2Proof.Machine.execSltu c d r s
  | .seq c d r => Sys2Proof.Machine.execSeq c d r s
  | .not c d r => Sys2Proof.Machine.execNot c d r s
  | .neg c d r => Sys2Proof.Machine.execNeg c d r s
  | .min c d r => Sys2Proof.Machine.execMin c d r s
  | .max c d r => Sys2Proof.Machine.execMax c d r s
  | .clz c d r => Sys2Proof.Machine.execClz c d r s
  | .popc c d r => Sys2Proof.Machine.execPopc c d r s
  | .sxb c d r => Sys2Proof.Machine.execSxb c d r s
  | .sxh c d r => Sys2Proof.Machine.execSxh c d r s
  | .sxw c d r => Sys2Proof.Machine.execSxw c d r s
  | .mul c d r => Sys2Proof.Machine.execMul c d r s
  | .mulu c d r => Sys2Proof.Machine.execMulu c d r s
  | .mulh c d r => Sys2Proof.Machine.execMulh c d r s
  | .mac c d r => Sys2Proof.Machine.execMac c d r s
  | .div c d r => Sys2Proof.Machine.execDiv c d r s
  | .divu c d r => Sys2Proof.Machine.execDivu c d r s
  | .muldivResult c => Sys2Proof.Machine.execMuldivResult c s
  | .mfpl c d _s => Sys2Proof.Machine.execMfpl c d _s s
  | .mfph c d _s => Sys2Proof.Machine.execMfph c d _s s
  | .mtpl c _d r => Sys2Proof.Machine.execMtpl c _d r s
  | .mtph c _d r => Sys2Proof.Machine.execMtph c _d r s
  | .ld c sz d r => Sys2Proof.Machine.execLd c sz d r s
  | .ldu c sz d r => Sys2Proof.Machine.execLdu c sz d r s
  | .st c sz d r => Sys2Proof.Machine.execSt c sz d r s
  | .jr c d r => Sys2Proof.Machine.execJr c d r s
  | .mtp c d r => Sys2Proof.Machine.execMtp c d r s
  | .mfp c d r => Sys2Proof.Machine.execMfp c d r s
  | .addi c d a imm => Sys2Proof.Machine.execAddi c d a imm s
  | .andi c d a imm => Sys2Proof.Machine.execAndi c d a imm s
  | .ori c d a imm => Sys2Proof.Machine.execOri c d a imm s
  | .xori c d a imm => Sys2Proof.Machine.execXori c d a imm s
  | .shli c d a imm => Sys2Proof.Machine.execShli c d a imm s
  | .shri c d a imm => Sys2Proof.Machine.execShri c d a imm s
  | .sari c d a imm => Sys2Proof.Machine.execSari c d a imm s
  | .slti c d a imm => Sys2Proof.Machine.execSlti c d a imm s
  | .movi c d imm => Sys2Proof.Machine.execMovi c d imm s
  | .movk c d imm => Sys2Proof.Machine.execMovk c d imm s
  | .alu3 c d a b fn => Sys2Proof.Machine.execAlu3 c d a b fn s
  | .ldFormM c d a sz off => Sys2Proof.Machine.execLdFormM c d a sz off s
  | .ldU c d a sz off => Sys2Proof.Machine.execLdU c d a sz off s
  | .stFormM c d a sz off => Sys2Proof.Machine.execStFormM c d a sz off s
  | .ldp c d post n sz u off => Sys2Proof.Machine.execLdp c d post n sz u off s
  | .stp c d post n sz u off => Sys2Proof.Machine.execStp c d post n sz u off s
  | .loadDataReturn c id => Sys2Proof.Machine.execLoadDataReturn c id s
  | .writeAcknowledge c id => Sys2Proof.Machine.execWriteAcknowledge c id s
  | .beq c a b off => Sys2Proof.Machine.execBeq c a b off s
  | .bne c a b off => Sys2Proof.Machine.execBne c a b off s
  | .blt c a b off => Sys2Proof.Machine.execBlt c a b off s
  | .bge c a b off => Sys2Proof.Machine.execBge c a b off s
  | .bltu c a b off => Sys2Proof.Machine.execBltu c a b off s
  | .bgeu c a b off => Sys2Proof.Machine.execBgeu c a b off s
  | .bz c a off => Sys2Proof.Machine.execBz c a off s
  | .bnz c a off => Sys2Proof.Machine.execBnz c a off s
  | .j c l target => Sys2Proof.Machine.execJ c l target s
  | .loop c n zero a fin => Sys2Proof.Machine.execLoop c n zero a fin s
  | .loopi c n count fin => Sys2Proof.Machine.execLoopi c n count fin s
  | .mfs c f => Sys2Proof.Machine.execMfs c f s
  | .mts c f => Sys2Proof.Machine.execMts c f s
  | .mtsCs c f => Sys2Proof.Machine.execMtsCs c f s
  | .csWriteCommit c => Sys2Proof.Machine.execCsWriteCommit c s
  | .mtsPmseg c f => Sys2Proof.Machine.execMtsPmseg c f s
  | .pmld c f => Sys2Proof.Machine.execPmld c f s
  | .noticeRead c f => Sys2Proof.Machine.execNoticeRead c f s
  | .faultEntry c fetch => Sys2Proof.Machine.execFaultEntry c fetch s
  | .interruptEntry c => Sys2Proof.Machine.execInterruptEntry c s
  | .reportEntry c => Sys2Proof.Machine.execReportEntry c s
  | .eret c f => Sys2Proof.Machine.execEret c f s
  | .syscall c f => Sys2Proof.Machine.execSyscall c f s
  | .gret c f => Sys2Proof.Machine.execGret c f s
  | .vld c f => Sys2Proof.Machine.execVld c f s
  | .vst c f => Sys2Proof.Machine.execVst c f s
  | .vlds c f => Sys2Proof.Machine.execVlds c f s
  | .vsts c f => Sys2Proof.Machine.execVsts c f s
  | .vgath c f => Sys2Proof.Machine.execVgath c f s
  | .vscat c f => Sys2Proof.Machine.execVscat c f s
  | .vadd c f => Sys2Proof.Machine.execVadd c f s
  | .vsub c f => Sys2Proof.Machine.execVsub c f s
  | .vmul c f => Sys2Proof.Machine.execVmul c f s
  | .vfma c f => Sys2Proof.Machine.execVfma c f s
  | .vmin c f => Sys2Proof.Machine.execVmin c f s
  | .vmax c f => Sys2Proof.Machine.execVmax c f s
  | .vabs c f => Sys2Proof.Machine.execVabs c f s
  | .vneg c f => Sys2Proof.Machine.execVneg c f s
  | .vand c f => Sys2Proof.Machine.execVand c f s
  | .vor c f => Sys2Proof.Machine.execVor c f s
  | .vxor c f => Sys2Proof.Machine.execVxor c f s
  | .vshl c f => Sys2Proof.Machine.execVshl c f s
  | .vshr c f => Sys2Proof.Machine.execVshr c f s
  | .vsar c f => Sys2Proof.Machine.execVsar c f s
  | .vcvt c f => Sys2Proof.Machine.execVcvt c f s
  | .vsplat c f => Sys2Proof.Machine.execVsplat c f s
  | .vcmp c f => Sys2Proof.Machine.execVcmp c f s
  | .qop c f => Sys2Proof.Machine.execQop c f s
  | .mtq c f => Sys2Proof.Machine.execMtq c f s
  | .mfq c f => Sys2Proof.Machine.execMfq c f s
  | .vsel c f => Sys2Proof.Machine.execVsel c f s
  | .vsf c f => Sys2Proof.Machine.execVsf c f s
  | .vred c f => Sys2Proof.Machine.execVred c f s
  | .vperm c f => Sys2Proof.Machine.execVperm c f s
  | .vrot c f => Sys2Proof.Machine.execVrot c f s
  | .vins c f => Sys2Proof.Machine.execVins c f s
  | .vext c f => Sys2Proof.Machine.execVext c f s
  | .vtrd c f => Sys2Proof.Machine.execVtrd c f s
  | .vtwr c f => Sys2Proof.Machine.execVtwr c f s
  | .vard c f => Sys2Proof.Machine.execVard c f s
  | .vawr c f => Sys2Proof.Machine.execVawr c f s
  | .tld c f n => Sys2Proof.Machine.execTld c f n s
  | .tst c f => Sys2Proof.Machine.execTst c f s
  | .tmul c f => Sys2Proof.Machine.execTmul c f s
  | .tmulComplete c => Sys2Proof.Machine.execTmulComplete c s
  | .tsave c f => Sys2Proof.Machine.execTsave c f s
  | .trestore c f => Sys2Proof.Machine.execTrestore c f s
  | .matx c f => Sys2Proof.Machine.execMatx c f s
  | .matxWalkBegin c => Sys2Proof.Machine.execMatxWalkBegin c s
  | .matxStep c => Sys2Proof.Machine.execMatxStep c s
  | .matxWriteout c => Sys2Proof.Machine.execMatxWriteout c s
  | .matxCompletion c => Sys2Proof.Machine.execMatxCompletion c s
  | .tyield c f => Sys2Proof.Machine.execTyield c f s
  | .tyieldR c f => Sys2Proof.Machine.execTyieldR c f s
  | .wcbWriteout c line => Sys2Proof.Machine.execWcbWriteout c line s
  | .cribFill c line => Sys2Proof.Machine.execCribFill c line s
  | .translationWalk c => Sys2Proof.Machine.execTranslationWalk c s
  | .walkComplete c => Sys2Proof.Machine.execWalkComplete c s
  | .tlbinv c f => Sys2Proof.Machine.execTlbinv c f s
  | .rangeEntryRelease c idx => Sys2Proof.Machine.execRangeEntryRelease c idx s
  | .fence c f => Sys2Proof.Machine.execFence c f s
  | .fenceRel c scope => Sys2Proof.Machine.execFenceRel c scope s
  | .fenceAcq c scope => Sys2Proof.Machine.execFenceAcq c scope s
  | .loftWindowAccess id => Sys2Proof.Machine.execLoftWindowAccess id s
  | .sig c f => Sys2Proof.Machine.execSig c f s
  | .counterIncrement idx => Sys2Proof.Machine.execCounterIncrement idx s
  | .wait c f => Sys2Proof.Machine.execWait c f s
  | .waitComplete c => Sys2Proof.Machine.execWaitComplete c s
  | .sheafInc a => Sys2Proof.Machine.execSheafInc a s
  | .stookArrive c f => Sys2Proof.Machine.execStookArrive c f s
  | .stookArrival idx => Sys2Proof.Machine.execStookArrival idx s
  | .stookWaitg c f => Sys2Proof.Machine.execStookWaitg c f s
  | .stookWaitgComplete c => Sys2Proof.Machine.execStookWaitgComplete c s
  | .stookMaskWrite a => Sys2Proof.Machine.execStookMaskWrite a s
  | .stallDetected die g => Sys2Proof.Machine.execStallDetected die g s
  | .watchCapture a => Sys2Proof.Machine.execWatchCapture a s
  | .send c f => Sys2Proof.Machine.execSend c f s
  | .trysend c f => Sys2Proof.Machine.execTrysend c f s
  | .chuteRequest c ch => Sys2Proof.Machine.execChuteRequest c ch s
  | .chuteResponse c => Sys2Proof.Machine.execChuteResponse c s
  | .sendRetry c => Sys2Proof.Machine.execSendRetry c s
  | .reservationTimeout c ch => Sys2Proof.Machine.execReservationTimeout c ch s
  | .recv c f => Sys2Proof.Machine.execRecv c f s
  | .recvTry c f => Sys2Proof.Machine.execRecvTry c f s
  | .recvFree c f => Sys2Proof.Machine.execRecvFree c f s
  | .chuteEnable a => Sys2Proof.Machine.execChuteEnable a s
  | .wgoStart c f => Sys2Proof.Machine.execWgoStart c f s
  | .wgoStop c f => Sys2Proof.Machine.execWgoStop c f s
  | .wainGo a => Sys2Proof.Machine.execWainGo a s
  | .wainStop a => Sys2Proof.Machine.execWainStop a s
  | .wainFetch w => Sys2Proof.Machine.execWainFetch w s
  | .wainMove w => Sys2Proof.Machine.execWainMove w s
  | .wainLoop w => Sys2Proof.Machine.execWainLoop w s
  | .wainWaitCounter w => Sys2Proof.Machine.execWainWaitCounter w s
  | .wainWaitCadence w => Sys2Proof.Machine.execWainWaitCadence w s
  | .wainWaitComplete w => Sys2Proof.Machine.execWainWaitComplete w s
  | .wainSignalCounter w => Sys2Proof.Machine.execWainSignalCounter w s
  | .wainSignalMessage w => Sys2Proof.Machine.execWainSignalMessage w s
  | .wainSignalRetry w => Sys2Proof.Machine.execWainSignalRetry w s
  | .wainPlane w => Sys2Proof.Machine.execWainPlane w s
  | .wainEnd w => Sys2Proof.Machine.execWainEnd w s
  | .wainWriteAck w id => Sys2Proof.Machine.execWainWriteAck w id s
  | .furrowEnter a => Sys2Proof.Machine.execFurrowEnter a s
  | .furrowArmedEntry c => Sys2Proof.Machine.execFurrowArmedEntry c s
  | .furrowEntryComplete c => Sys2Proof.Machine.execFurrowEntryComplete c s
  | .ruleDispatch c => Sys2Proof.Machine.execRuleDispatch c s
  | .firingOutput c r => Sys2Proof.Machine.execFiringOutput c r s
  | .tokenArrival c idx => Sys2Proof.Machine.execTokenArrival c idx s
  | .injectorTake c k => Sys2Proof.Machine.execInjectorTake c k s
  | .ejectorWrite c k => Sys2Proof.Machine.execEjectorWrite c k s
  | .furrowDrain a => Sys2Proof.Machine.execFurrowDrain a s
  | .furrowDrained c => Sys2Proof.Machine.execFurrowDrained c s
  | .furrowExit a => Sys2Proof.Machine.execFurrowExit a s
  | .checkFrame die page k frames seq reply crc => Sys2Proof.Machine.execCheckFrame die page k frames seq reply crc s
  | .replay die page k => Sys2Proof.Machine.execReplay die page k s
  | .checkTimeout die page => Sys2Proof.Machine.execCheckTimeout die page s
  | .training l rxLow rxHigh => Sys2Proof.Machine.execTraining l rxLow rxHigh s
  | .trainAckTimeout die page => Sys2Proof.Machine.execTrainAckTimeout die page s
  | .downRetry die page => Sys2Proof.Machine.execDownRetry die page s
  | .beaconSend die page => Sys2Proof.Machine.execBeaconSend die page s
  | .beaconReceive die page => Sys2Proof.Machine.execBeaconReceive die page s
  | .beaconLost die page => Sys2Proof.Machine.execBeaconLost die page s
  | .resetNotice die page => Sys2Proof.Machine.execResetNotice die page s
  | .dielinkRetrain a => Sys2Proof.Machine.execDielinkRetrain a s
  | .lpEnter a => Sys2Proof.Machine.execLpEnter a s
  | .lpExit wake a => Sys2Proof.Machine.execLpExit wake a s
  | .barnRead id => Sys2Proof.Machine.execBarnRead id s
  | .barnWrite id => Sys2Proof.Machine.execBarnWrite id s
  | .accumulatingWriteFast id => Sys2Proof.Machine.execAccFast id s
  | .accumulatingWriteExact id => Sys2Proof.Machine.execAccExact id s
  | .patrolRead k l => Sys2Proof.Machine.execPatrolRead k l s
  | .accEnable a => Sys2Proof.Machine.execAccEnable a s
  | .accDisable a => Sys2Proof.Machine.execAccDisable a s
  | .finalise a => Sys2Proof.Machine.execFinalise a s
  | .finaliseComplete die n => Sys2Proof.Machine.execFinaliseComplete die n s
  | .zero a => Sys2Proof.Machine.execZero a s
  | .zeroComplete die n => Sys2Proof.Machine.execZeroComplete die n s
  | .granaryCtrlWrite a => Sys2Proof.Machine.execGranaryCtrlWrite a s
  | .ppsEdge el => Sys2Proof.Machine.execPpsEdge el s
  | .ppsLost => Sys2Proof.Machine.execPpsLost s
  | .secApply a => Sys2Proof.Machine.execSecApply a s
  | .load a => Sys2Proof.Machine.execLoad a s
  | .cadTimeLowRead a => Sys2Proof.Machine.execCadTimeLowRead a s
  | .frameCfgWrite a => Sys2Proof.Machine.execFrameCfgWrite a s
  | .frameInEdge el => Sys2Proof.Machine.execFrameInEdge el s
  | .freeRunEdge => Sys2Proof.Machine.execFreeRunEdge s
  | .frameLost => Sys2Proof.Machine.execFrameLost s
  | .holdoverEdge => Sys2Proof.Machine.execHoldoverEdge s
  | .lineBoundary => Sys2Proof.Machine.execLineBoundary s
  | .tickWord die good => Sys2Proof.Machine.execTickWord die good s
  | .intakeReadResponse idx => Sys2Proof.Machine.execIntakeReadResponse idx s
  | .intakePeriodSample die => Sys2Proof.Machine.execIntakePeriodSample die s
  | .slotEnable a => Sys2Proof.Machine.execSlotEnable a s
  | .hostMemoryWrite bar off len data ep hdr test dead => Sys2Proof.Machine.execHostMemoryWrite bar off len data ep hdr test dead s
  | .hostMemoryRead bar off len tag => Sys2Proof.Machine.execHostMemoryRead bar off len tag s
  | .hostWindowAccess id => Sys2Proof.Machine.execHostWindowAccess id s
  | .hostCompletion id status data => Sys2Proof.Machine.execHostCompletion id status data s
  | .completionTimeout id => Sys2Proof.Machine.execCompletionTimeout id s
  | .msixSend a => Sys2Proof.Machine.execMsixSend a s
  | .msixUnmask v => Sys2Proof.Machine.execMsixUnmask v s
  | .bar2AperWrite a => Sys2Proof.Machine.execBar2AperWrite a s
  | .barResize n => Sys2Proof.Machine.execBarResize n s
  | .ringEnable a => Sys2Proof.Machine.execRingEnable a s
  | .intakeNop r => Sys2Proof.Machine.execIntakeNop r s
  | .intakeRun r => Sys2Proof.Machine.execIntakeRun r s
  | .intakeFence r => Sys2Proof.Machine.execIntakeFence r s
  | .intakeSignal r => Sys2Proof.Machine.execIntakeSignal r s
  | .taskCompletion idx => Sys2Proof.Machine.execTaskCompletion idx s
  | .completionEntry r => Sys2Proof.Machine.execCompletionEntry r s
  | .perstN test dead => Sys2Proof.Machine.execPerstN test dead s
  | .hotReset test dead => Sys2Proof.Machine.execHotReset test dead s
  | .flr test dead => Sys2Proof.Machine.execFlr test dead s
  | .d3hotEntry => Sys2Proof.Machine.execD3hotEntry s
  | .d0Return => Sys2Proof.Machine.execD0Return s
  | .doeDiscovery index => Sys2Proof.Machine.execDoeDiscovery index s
  | .getVersion doe => Sys2Proof.Machine.execGetVersion doe s
  | .getCapabilities doe => Sys2Proof.Machine.execGetCapabilities doe s
  | .negotiateAlgorithms doe => Sys2Proof.Machine.execNegotiateAlgorithms doe s
  | .getDigests doe => Sys2Proof.Machine.execGetDigests doe s
  | .getCertificate doe slot => Sys2Proof.Machine.execGetCertificate doe slot s
  | .spdmChallenge doe => Sys2Proof.Machine.execSpdmChallenge doe s
  | .getMeasurements doe index => Sys2Proof.Machine.execGetMeasurements doe index s
  | .keyExchange doe => Sys2Proof.Machine.execKeyExchange doe s
  | .mctpControl cmd arg => Sys2Proof.Machine.execMctpControl cmd arg s
  | .pldmRequest sensor => Sys2Proof.Machine.execPldmRequest sensor s
  | .cr a => Sys2Proof.Machine.execCr a s
  | .pr a => Sys2Proof.Machine.execPr a s
  | .dr a => Sys2Proof.Machine.execDr a s
  | .po test dead => Sys2Proof.Machine.execPo test dead s
  | .sweepDone what n => Sys2Proof.Machine.execSweepDone what n s
  | .pmapWrite a => Sys2Proof.Machine.execPmapWrite a s
  | .parkRequest a => Sys2Proof.Machine.execParkRequest a s
  | .parkEnter c => Sys2Proof.Machine.execParkEnter c s
  | .parkClear a => Sys2Proof.Machine.execParkClear a s
  | .dozeRequest a => Sys2Proof.Machine.execDozeRequest a s
  | .dozeEnter die => Sys2Proof.Machine.execDozeEnter die s
  | .dozeClear a => Sys2Proof.Machine.execDozeClear a s
  | .retire a => Sys2Proof.Machine.execRetire a s
  | .unretire a => Sys2Proof.Machine.execUnretire a s
  | .idle c f => Sys2Proof.Machine.execIdle c f s
  | .idleWake c => Sys2Proof.Machine.execIdleWake c s
  | .wdkick c f => Sys2Proof.Machine.execWdkick c f s
  | .coreWatchdogExpiry c => Sys2Proof.Machine.execCoreWatchdogExpiry c s
  | .stewardWatchdogKick a => Sys2Proof.Machine.execStewardWatchdogKick a s
  | .stewardWatchdogExpiry die test dead => Sys2Proof.Machine.execStewardWatchdogExpiry die test dead s
  | .status a => Sys2Proof.Machine.execStatus a s
  | .selfTest a => Sys2Proof.Machine.execSelfTest a s
  | .challenge a => Sys2Proof.Machine.execChallenge a s
  | .random a => Sys2Proof.Machine.execRandom a s
  | .enrolCo a => Sys2Proof.Machine.execEnrolCo a s
  | .enrolUser a => Sys2Proof.Machine.execEnrolUser a s
  | .enrolCert a => Sys2Proof.Machine.execEnrolCert a s
  | .update a => Sys2Proof.Machine.execUpdate a s
  | .updateDone => Sys2Proof.Machine.execUpdateDone s
  | .lifecycle a => Sys2Proof.Machine.execLifecycle a s
  | .debugUnlock a => Sys2Proof.Machine.execDebugUnlock a s
  | .zeroise a => Sys2Proof.Machine.execZeroise a s
  | .recoveryGo a => Sys2Proof.Machine.execRecoveryGo a s
  | .jtagExtest => Sys2Proof.Machine.execJtagExtest s
  | .vinUndervoltage vin => Sys2Proof.Machine.execVinUndervoltage vin s
  | .vinOvervoltage vin => Sys2Proof.Machine.execVinOvervoltage vin s
  | .pwrEnAssert => Sys2Proof.Machine.execPwrEnAssert s
  | .pwrEnDeassert => Sys2Proof.Machine.execPwrEnDeassert s
  | .pwrOpWrite a => Sys2Proof.Machine.execPwrOpWrite a s
  | .opChangeDone die half => Sys2Proof.Machine.execOpChangeDone die half s
  | .droopDetect die half => Sys2Proof.Machine.execDroopDetect die half s
  | .droopStep die half up => Sys2Proof.Machine.execDroopStep die half up s
  | .pwrGrant a => Sys2Proof.Machine.execPwrGrant a s
  | .powerReport die avg steps => Sys2Proof.Machine.execPowerReport die avg steps s
  | .powerWindow die mean => Sys2Proof.Machine.execPowerWindow die mean s
  | .budgetLost die => Sys2Proof.Machine.execBudgetLost die s
  | .overBudget mean => Sys2Proof.Machine.execOverBudget mean s
  | .thermalThrottleStep die half temps => Sys2Proof.Machine.execThermalThrottleStep die half temps s
  | .thermalTrip src => Sys2Proof.Machine.execThermalTrip src s
  | .recvComplete c => Sys2Proof.Machine.execRecvComplete c s
  | .hostLinkTraining rate width => Sys2Proof.Machine.execHostLinkTraining rate width s
  | .hostLinkDown => Sys2Proof.Machine.execHostLinkDown s
  | .configurationRequest tag dw write v => Sys2Proof.Machine.execConfigurationRequest tag dw write v s
  | .unsupportedRequest tag hdr => Sys2Proof.Machine.execUnsupportedRequest tag hdr s
  | .unexpectedCompletion ecrc hdr => Sys2Proof.Machine.execUnexpectedCompletion ecrc hdr s
  | .malformedTlp kind hdr => Sys2Proof.Machine.execMalformedTlp kind hdr s
  | .receiverError kind => Sys2Proof.Machine.execReceiverError kind s
  | .perstNDeassert => Sys2Proof.Machine.execPerstNDeassert s
  | .vinWarn vin => Sys2Proof.Machine.execVinWarn vin s
  | .thermAlert die n t => Sys2Proof.Machine.execThermAlert die n t s
  | .doubledRefresh k temp => Sys2Proof.Machine.execDoubledRefresh k temp s
  | .ecsRead k count => Sys2Proof.Machine.execEcsRead k count s
  | .stewardReload d => Sys2Proof.Machine.execStewardReload d s
  | .extestRelease test dead => Sys2Proof.Machine.execExtestRelease test dead s
  | .authorisedDebug op c x v => Sys2Proof.Machine.execAuthorisedDebug op c x v s
  | .ringRewrite a => Sys2Proof.Machine.execRingRewrite a s

end Sys2Proof.Machine
end

