-- ==== Sys2Proof/Machine/Step.lean ====
section
/-! DEFINITION. One step: the command at the front of the queue, or, with none waiting, one reference cycle. -/

namespace Sys2Proof.Machine

/-- With no command waiting the module idles: 10 ns of the 100 MHz reference pass in the always-on island (R364; log entry 1). -/
def idleStep (s : State) : State := if s.aon.powered then { s with aon := s.aon.advance 15 } else s

/-- Take the command at the front of the queue and perform it with the rest of the queue. -/
def step (s : State) : Host.Outcome State Fault Refusal :=
  match s.pending with
  | [] => .next (idleStep s)
  | i :: rest => exec i { s with pending := rest }

/-- `s` with the command that a word spells at the front of its queue; `s` where the word spells none. -/
def State.withFetchWord (s : State) (nbits w : Nat) : State :=
  match Sys2Proof.decodeTableWord nbits w with
  | some i => { s with pending := i :: s.pending }
  | none => s

end Sys2Proof.Machine
end

