-- ==== Sys2Proof/WellFormed.lean ====
section
/-! DEFINITION. Which commands name agents that the module has (R4, R5, R7, R17, R18, R23, R265, R350, R394, R396): all others
stop with the fault `noSuchAgent`. -/

namespace Sys2Proof

open Sys2Proof.Machine

/-- A register access is one in flight, or comes from a requester of R23. -/
def RegAcc.wf (a : RegAcc) : Bool := a.id.isSome || isReq a.q

/-- A performance page (R27, R28). -/
def isPerfPage (die page : Nat) : Bool := match blockAt die page with | some (.perf, _) => true | _ => false

/-- Every agent that the command names exists. -/
def Instr.wf : Instr → Bool
  | .registerWrite _ a | .registerReadClear a | .lock a | .freeze a | .irqTest a | .cfgEpochWrite a
  | .perfClear a | .perfSnap a => a.wf
  | .perfCounterWrap die page _ => isPerfPage die page
  | .digestGo a => a.wf
  | .digestWalkDone die => decide (die < 6)
  | .keeperDigestReport => true
  | .keeperCfgEpochWrite a => a.wf
  | .configStale d => decide (d < 6)
  | .keeperResetNotice => true
  | .placeEntWrite a | .corePmDataWrite a | .corePmDataRead a | .coreRunStart a | .coreRunStop a => a.wf
  | .coreStop c => isCore c
  | .ill c _ _ | .nop c _ _ | .mov c _ _ | .add c _ _ | .sub c _ _ | .and c _ _ | .or c _ _ | .xor c _ _
  | .shl c _ _ | .shr c _ _ | .sar c _ _ | .ror c _ _ | .slt c _ _ | .sltu c _ _ | .seq c _ _ | .not c _ _
  | .neg c _ _ | .min c _ _ | .max c _ _ | .clz c _ _ | .popc c _ _ | .sxb c _ _ | .sxh c _ _ | .sxw c _ _
  | .mul c _ _ | .mulu c _ _ | .mulh c _ _ | .mac c _ _ | .div c _ _ | .divu c _ _ | .muldivResult c
  | .mfpl c _ _ | .mfph c _ _ | .mtpl c _ _ | .mtph c _ _ | .ld c _ _ _ | .ldu c _ _ _ | .st c _ _ _
  | .jr c _ _ | .mtp c _ _ | .mfp c _ _ | .addi c _ _ _ | .andi c _ _ _ | .ori c _ _ _ | .xori c _ _ _
  | .shli c _ _ _ | .shri c _ _ _ | .sari c _ _ _ | .slti c _ _ _ | .movi c _ _ | .movk c _ _
  | .alu3 c _ _ _ _ | .ldFormM c _ _ _ _ | .ldU c _ _ _ _ | .stFormM c _ _ _ _ | .ldp c _ _ _ _ _ _
  | .stp c _ _ _ _ _ _ | .loadDataReturn c _ | .writeAcknowledge c _ | .beq c _ _ _ | .bne c _ _ _
  | .blt c _ _ _ | .bge c _ _ _ | .bltu c _ _ _ | .bgeu c _ _ _ | .bz c _ _ | .bnz c _ _ | .j c _ _
  | .loop c _ _ _ _ | .loopi c _ _ _ | .mfs c _ | .mts c _ | .mtsCs c _ | .csWriteCommit c | .mtsPmseg c _
  | .pmld c _ | .noticeRead c _ | .faultEntry c _ | .interruptEntry c | .reportEntry c | .eret c _
  | .syscall c _ | .gret c _ | .vld c _ | .vst c _ | .vlds c _ | .vsts c _ | .vgath c _ | .vscat c _
  | .vadd c _ | .vsub c _ | .vmul c _ | .vfma c _ | .vmin c _ | .vmax c _ | .vabs c _ | .vneg c _ | .vand c _
  | .vor c _ | .vxor c _ | .vshl c _ | .vshr c _ | .vsar c _ | .vcvt c _ | .vsplat c _ | .vcmp c _ | .qop c _
  | .mtq c _ | .mfq c _ | .vsel c _ | .vsf c _ | .vred c _ | .vperm c _ | .vrot c _ | .vins c _ | .vext c _
  | .vtrd c _ | .vtwr c _ | .vard c _ | .vawr c _ | .tld c _ _ | .tst c _ | .tmul c _ | .tmulComplete c
  | .tsave c _ | .trestore c _ | .matx c _ | .matxWalkBegin c | .matxStep c | .matxWriteout c
  | .matxCompletion c | .tyield c _ | .tyieldR c _ | .wcbWriteout c _ | .cribFill c _ | .translationWalk c
  | .walkComplete c | .tlbinv c _ | .rangeEntryRelease c _ | .fence c _ | .fenceRel c _ | .fenceAcq c _ => isCpu c
  | .loftWindowAccess _ => true
  | .sig c _ => isCpu c
  | .counterIncrement _ => true
  | .wait c _ | .waitComplete c => isCpu c
  | .sheafInc a => a.wf
  | .stookArrive c _ => isCpu c
  | .stookArrival _ => true
  | .stookWaitg c _ | .stookWaitgComplete c => isCpu c
  | .stookMaskWrite a => a.wf
  | .stallDetected die _ => decide (die < 5)
  | .watchCapture a => a.wf
  | .send c _ | .trysend c _ | .chuteRequest c _ | .chuteResponse c | .sendRetry c | .reservationTimeout c _
  | .recv c _ | .recvTry c _ | .recvFree c _ => isCpu c
  | .chuteEnable a => a.wf
  | .wgoStart c _ | .wgoStop c _ => isCpu c
  | .wainGo a | .wainStop a => a.wf
  | .wainFetch w | .wainMove w | .wainLoop w | .wainWaitCounter w | .wainWaitCadence w | .wainWaitComplete w
  | .wainSignalCounter w | .wainSignalMessage w | .wainSignalRetry w | .wainPlane w | .wainEnd w
  | .wainWriteAck w _ => isWain w
  | .furrowEnter a => a.wf
  | .furrowArmedEntry c | .furrowEntryComplete c | .ruleDispatch c | .firingOutput c _ | .tokenArrival c _
  | .injectorTake c _ | .ejectorWrite c _ => isCore c
  | .furrowDrain a => a.wf
  | .furrowDrained c => isCore c
  | .furrowExit a => a.wf
  | .checkFrame die page _ _ _ _ _ | .replay die page _ | .checkTimeout die page => isLinkEnd die page
  | .training l _ _ => decide (l < 8)
  | .trainAckTimeout die page | .downRetry die page | .beaconSend die page | .beaconReceive die page
  | .beaconLost die page | .resetNotice die page => isLinkEnd die page
  | .dielinkRetrain a | .lpEnter a => a.wf
  | .lpExit wake a => match wake with | some x => isLinkEnd x.1 x.2 | none => a.wf
  | .barnRead _ | .barnWrite _ | .accumulatingWriteFast _ | .accumulatingWriteExact _ => true
  | .patrolRead k _ => decide (k < 8)
  | .accEnable a | .accDisable a | .finalise a => a.wf
  | .finaliseComplete die _ => die == 4 || die == 5
  | .zero a => a.wf
  | .zeroComplete die _ => die == 4 || die == 5
  | .granaryCtrlWrite a => a.wf
  | .ppsEdge _ | .ppsLost => true
  | .secApply a | .load a | .cadTimeLowRead a | .frameCfgWrite a => a.wf
  | .frameInEdge _ | .freeRunEdge | .frameLost | .holdoverEdge | .lineBoundary => true
  | .tickWord die _ => decide (die < 6)
  | .intakeReadResponse _ => true
  | .intakePeriodSample die => decide (die < 6)
  | .slotEnable a => a.wf
  | .hostMemoryWrite _ _ _ _ _ _ _ _ | .hostMemoryRead _ _ _ _ | .hostWindowAccess _ | .hostCompletion _ _ _
  | .completionTimeout _ => true
  | .msixSend a => a.wf
  | .msixUnmask v => decide (v < 256)
  | .bar2AperWrite a => a.wf
  | .barResize _ => true
  | .ringEnable a => a.wf
  | .intakeNop r | .intakeRun r | .intakeFence r | .intakeSignal r => decide (r < 16)
  | .taskCompletion _ => true
  | .completionEntry r => decide (r < 16)
  | .perstN _ _ | .hotReset _ _ | .flr _ _ | .d3hotEntry | .d0Return | .doeDiscovery _ | .getVersion _
  | .getCapabilities _ | .negotiateAlgorithms _ | .getDigests _ | .getCertificate _ _ | .spdmChallenge _
  | .getMeasurements _ _ | .keyExchange _ | .mctpControl _ _ | .pldmRequest _ => true
  | .cr a | .pr a | .dr a => a.wf
  | .po _ _ => true
  | .sweepDone what n => match what with | 0 => isCore n | 1 => decide (n < 6) | _ => n == 4 || n == 5
  | .pmapWrite a | .parkRequest a => a.wf
  | .parkEnter c => isCore c
  | .parkClear a | .dozeRequest a => a.wf
  | .dozeEnter die => decide (die < 4)
  | .dozeClear a | .retire a | .unretire a => a.wf
  | .idle c _ | .idleWake c | .wdkick c _ => isCpu c
  | .coreWatchdogExpiry c => isCore c
  | .stewardWatchdogKick a => a.wf
  | .stewardWatchdogExpiry die _ _ => decide (die < 6)
  | .status a | .selfTest a | .challenge a | .random a | .enrolCo a | .enrolUser a | .enrolCert a | .update a => a.wf
  | .updateDone => true
  | .lifecycle a | .debugUnlock a | .zeroise a | .recoveryGo a => a.wf
  | .jtagExtest | .vinUndervoltage _ | .vinOvervoltage _ | .pwrEnAssert | .pwrEnDeassert => true
  | .pwrOpWrite a => a.wf
  | .opChangeDone die half => decide (die < 4) && decide (half < 2)
  | .droopDetect die half | .droopStep die half _ => isHalf die half
  | .pwrGrant a => a.wf
  | .powerReport die _ _ | .powerWindow die _ => decide (die < 6)
  | .budgetLost die => decide (die < 4)
  | .overBudget _ => true
  | .thermalThrottleStep die half _ => isHalf die half
  | .thermalTrip src => decide (src < 6) || (decide (8 ≤ src) && decide (src < 16))
  | .recvComplete c => isCpu c
  | .hostLinkTraining _ _ | .hostLinkDown | .configurationRequest _ _ _ _ | .unsupportedRequest _ _
  | .unexpectedCompletion _ _ | .malformedTlp _ _ | .receiverError _ | .perstNDeassert | .vinWarn _ => true
  | .thermAlert die n _ => decide (die < 6) && decide (n < (if die < 4 then 16 else 4))
  | .doubledRefresh k _ | .ecsRead k _ => decide (k < 8)
  | .stewardReload d => decide (d < 4)
  | .extestRelease _ _ => true
  | .authorisedDebug op c _ _ => decide (4 ≤ op) || isCpu c
  | .ringRewrite a => a.wf

end Sys2Proof
end

