-- ==== Sys2Proof/Safety.lean ====
section
/-! DEFINITION. What counts as a safe state and a safe run, and the vocabulary of the statements: when a command performs its own
effect, and the effects that the spec gives, written beside the machine and not from it. -/

namespace Sys2Proof.Machine

/-- The canonical form of a memory: addresses strictly rising, no entry equal to what an unlisted address reads as. -/
def Memory.wf (m : List Host.Cell) : Bool := SMap.wf (0 : Byte) m

/-- What every state keeps: six die epochs, each in its range and never 0 (R10, R341), six SWEEP_CAUSE words (R428), the trim of R364 in
its range, and 64 ROLLBACK fuses (R438). -/
def State.Inv (s : State) : Prop :=
  s.aon.dieEpoch.length = 6 ∧ s.aon.cause.length = 6 ∧ (∀ e ∈ s.aon.dieEpoch, 1 ≤ e ∧ e ≤ 0xFFFF) ∧ s.aon.trim.natAbs ≤ 36893488 ∧
    s.aon.rollFuses < 2 ^ 64

/-- A step neither faults nor refuses. -/
def SafeStep (s : State) : Prop := ∃ t, step s = .next t

/-! ### Issue of a core instruction -/

/-- The module with the CS writes of `c` that are due in effect, as its next instruction finds it (R65). -/
def Mod.due (m : Mod) (c : Nat) : Mod := m.onCore c Core.commitDue

/-- The core or steward `c` as its next instruction finds it. -/
def Mod.at (m : Mod) (c : Nat) : Core := (m.due c).core c

/-- An instruction of `len` parcels that reads the general registers `rs` executes its own effect: the core exists, issues,
and nothing is to be entered first (R71, R87, R88, R299), an interrupt included (R62, R219); no instruction is held at issue, no debug
hold stands (R452), and no sweep of a steward's local memory (R414); each parcel lies in an executable segment (R45); a control instruction (`ctl`) is in no delay slot (R64), a branch
(`last`) is not the last instruction of an active loop (R69); and no register read is still to be written by a load past
its shadow (R58). -/
def Mod.ready (m : Mod) (c len : Nat) (ctl last : Bool) (rs : List Nat) : Bool :=
  let k := m.at c
  isCpu c && k.canIssue && k.hold.isNone && !m.stalled c && !(m.due c).irqDue c &&
    (List.range len).all (fun i => bits ((m.due c).seg c) ((k.pc.toNat + i) % 65536 / 4096) 1 == 1) &&
    !(ctl && k.branch.isSome) && !(last && k.loopLast (k.pc + BitVec.ofNat 16 len)) && !k.hazard rs

/-- The instruction of `c` ends: it retires at `seq` and execution continues at `dflt`, which R68 and R64 may change; event 0x01 of R28
counts it. -/
def Mod.ends (m : Mod) (c : Nat) (seq dflt : PAddr) : Mod := m.retires c (fun k => k.retire seq dflt)

/-- An instruction of `len` parcels of `c` that changes the module by `f` and continues in sequence. -/
def State.runs (s : State) (c len : Nat) (f : Mod → Core → Mod) : State :=
  let k := s.mod.at c
  let seq := k.pc + BitVec.ofNat 16 len
  { s with mod := (f (s.mod.due c) k).ends c seq seq }

/-- The same for one that changes nothing but its own core. -/
def State.sets (s : State) (c len : Nat) (f : Core → Core) : State := s.runs c len (fun m k => m.setCore c (f k))

/-- The same for one that continues at an address. -/
def State.jumps (s : State) (c len : Nat) (f : Mod → Core → Mod) (a : PAddr) : State :=
  let k := s.mod.at c
  { s with mod := (f (s.mod.due c) k).ends c (k.pc + BitVec.ofNat 16 len) a }

/-- A vector instruction that changes nothing but its own core: event 0x05 of R28 counts it. -/
def State.vecs (s : State) (c : Nat) (f : Core → Core) : State := s.runs c 3 (fun m k => (m.setCore c (f k)).coreEv c 0x05 1)

/-- An instruction that raises a precise fault, to be entered by FAULT_ENTRY. -/
def State.traps (s : State) (c cause sub addr : Nat) : State :=
  { s with mod := (s.mod.due c).setCore c ((s.mod.at c).raise cause sub addr false) }

/-- An instruction that stays at issue with the module changed by `f`. -/
def State.stays (s : State) (c : Nat) (f : Mod → Core → Mod) : State :=
  { s with mod := f (s.mod.due c) (s.mod.at c) }

/-- What one command does to one core or steward, not through issue. -/
def State.core (s : State) (c : Nat) (f : Core → Core) : State := { s with mod := s.mod.onCore c f }

/-- What one command does to the module. -/
def State.upd (s : State) (f : Mod → Mod) : State := { s with mod := f s.mod }

/-- Registers of `t` and `m` agree outside the PERF page of core `c`, where an event may have been counted (R28). -/
def Mod.sameRegs (t m : Mod) (c : Nat) : Prop :=
  ∀ die page off, page < 8192 → off < 4096 → (isStw c = true ∨ die ≠ c / 256 ∨ page ≠ corePage c 7) → t.reg die page off = m.reg die page off

/-! ### Scalar instructions -/

/-- What an instruction that changes only its own core does: the core, its parcels, whether R64 and R69 restrict it, the
registers it reads, and its effect. -/
structure CoreOp where
  c : Nat
  len : Nat
  rs : List Nat
  f : Core → Core

/-- g[d] takes a value of two registers. -/
def CoreOp.two (c : Nat) (d r : BitVec 4) (f : Word → Word → Word) : CoreOp :=
  ⟨c, 1, [d.toNat, r.toNat], fun k => k.setG d.toNat (f (k.gr d.toNat) (k.gr r.toNat))⟩

def CoreOp.one (c : Nat) (d r : BitVec 4) (f : Word → Word) : CoreOp :=
  ⟨c, 1, [r.toNat], fun k => k.setG d.toNat (f (k.gr r.toNat))⟩

def CoreOp.imm (c : Nat) (d a : BitVec 4) (f : Word → Word) : CoreOp :=
  ⟨c, 2, [a.toNat], fun k => k.setG d.toNat (f (k.gr a.toNat))⟩

/-- Shift amounts are the low six bits. -/
def amount (b : Word) : Nat := b.toNat % 64

/-- The truth of a condition as a register value. -/
def truth (p : Prop) [Decidable p] : Word := if p then 1 else 0

/-- The number of leading zero bits, and of set bits. -/
def leadingZeros (b : Word) : Nat := ((List.range 64).takeWhile (fun i => !b.getLsbD (63 - i))).length
def setBitsOf (b : Word) : Nat := ((List.range 64).filter (fun i => b.getLsbD i)).length

/-- Rotation right by `n` < 64. -/
def rotr (a : Word) (n : Nat) : Word := BitVec.ofNat 64 (a.toNat / 2 ^ n + a.toNat * 2 ^ (64 - n))

/-- ALU3 by function code, in integer arithmetic (R50). -/
def alu3Spec (fn : Nat) (a b : Word) : Option Word :=
  match fn with
  | 0 => some (BitVec.ofNat 64 (a.toNat + b.toNat))
  | 1 => some (BitVec.ofInt 64 ((a.toNat : Int) - b.toNat))
  | 2 => some (a &&& b)
  | 3 => some (a ||| b)
  | 4 => some (a ^^^ b)
  | 5 => some (BitVec.ofNat 64 (a.toNat * 2 ^ amount b))
  | 6 => some (BitVec.ofNat 64 (a.toNat / 2 ^ amount b))
  | 7 => some (BitVec.ofInt 64 (a.toInt / 2 ^ amount b))
  | 8 => some (rotr a (amount b))
  | 9 => some (truth (a.toInt < b.toInt))
  | 10 => some (truth (a.toNat < b.toNat))
  | 11 => some (truth (a = b))
  | 12 => some (BitVec.ofInt 64 (min a.toInt b.toInt))
  | 13 => some (BitVec.ofInt 64 (max a.toInt b.toInt))
  | 14 => some (BitVec.ofNat 64 (min a.toNat b.toNat))
  | 15 => some (BitVec.ofNat 64 (max a.toNat b.toNat))
  | 16 => some (a &&& ~~~b)
  | _ => none

/-- The effect that R48 and R50 give each scalar instruction that changes only its core, in integer arithmetic; none for
the others and for an encoding that breaks a mark. -/
def scalarEffect : Instr → Option CoreOp
  | .nop c _ _ => some ⟨c, 1, [], fun k => k⟩
  | .mov c d r => some (.one c d r (fun b => b))
  | .add c d r => some (.two c d r (fun a b => BitVec.ofNat 64 (a.toNat + b.toNat)))
  | .sub c d r => some (.two c d r (fun a b => BitVec.ofInt 64 ((a.toNat : Int) - b.toNat)))
  | .and c d r => some (.two c d r (fun a b => a &&& b))
  | .or c d r => some (.two c d r (fun a b => a ||| b))
  | .xor c d r => some (.two c d r (fun a b => a ^^^ b))
  | .shl c d r => some (.two c d r (fun a b => BitVec.ofNat 64 (a.toNat * 2 ^ amount b)))
  | .shr c d r => some (.two c d r (fun a b => BitVec.ofNat 64 (a.toNat / 2 ^ amount b)))
  | .sar c d r => some (.two c d r (fun a b => BitVec.ofInt 64 (a.toInt / 2 ^ amount b)))
  | .ror c d r => some (.two c d r (fun a b => rotr a (amount b)))
  | .slt c d r => some (.two c d r (fun a b => truth (a.toInt < b.toInt)))
  | .sltu c d r => some (.two c d r (fun a b => truth (a.toNat < b.toNat)))
  | .seq c d r => some (.two c d r (fun a b => truth (a = b)))
  | .not c d r => some (.one c d r (fun b => ~~~b))
  | .neg c d r => some (.one c d r (fun b => BitVec.ofInt 64 (-b.toInt)))
  | .min c d r => some (.two c d r (fun a b => BitVec.ofInt 64 (min a.toInt b.toInt)))
  | .max c d r => some (.two c d r (fun a b => BitVec.ofInt 64 (max a.toInt b.toInt)))
  | .clz c d r => some (.one c d r (fun b => BitVec.ofNat 64 (leadingZeros b)))
  | .popc c d r => some (.one c d r (fun b => BitVec.ofNat 64 (setBitsOf b)))
  | .sxb c d r => some (.one c d r (fun b => (b.setWidth 8).signExtend 64))
  | .sxh c d r => some (.one c d r (fun b => (b.setWidth 16).signExtend 64))
  | .sxw c d r => some (.one c d r (fun b => (b.setWidth 32).signExtend 64))
  | .mfpl c d _ => some ⟨c, 1, [], fun k => k.setG d.toNat k.pl⟩
  | .mfph c d _ => some ⟨c, 1, [], fun k => k.setG d.toNat k.ph⟩
  | .mtp c d r => some ⟨c, 1, [r.toNat], fun k =>
      if d.toNat < 8 then { k with p := SMap.put 0 k.p d.toNat (k.gr r.toNat) }
      else { k with st := SMap.put 0 k.st (d.toNat - 8) (k.gr r.toNat) }⟩
  | .mfp c d r => some ⟨c, 1, [], fun k => k.setG d.toNat (if r.toNat < 8 then k.pr r.toNat else k.sr (r.toNat - 8))⟩
  | .addi c d a imm => some (.imm c d a (fun x => BitVec.ofInt 64 (x.toInt + imm.toInt)))
  | .andi c d a imm => some (.imm c d a (fun x => x &&& imm.setWidth 64))
  | .ori c d a imm => some (.imm c d a (fun x => x ||| imm.setWidth 64))
  | .xori c d a imm => some (.imm c d a (fun x => x ^^^ imm.setWidth 64))
  | .shli c d a imm => if 64 ≤ imm.toNat then none else some (.imm c d a (fun x => BitVec.ofNat 64 (x.toNat * 2 ^ imm.toNat)))
  | .shri c d a imm => if 64 ≤ imm.toNat then none else some (.imm c d a (fun x => BitVec.ofNat 64 (x.toNat / 2 ^ imm.toNat)))
  | .sari c d a imm => if 64 ≤ imm.toNat then none else some (.imm c d a (fun x => BitVec.ofInt 64 (x.toInt / 2 ^ imm.toNat)))
  | .slti c d a imm => some (.imm c d a (fun x => truth (x.toInt < imm.toInt)))
  | .movi c d imm => some ⟨c, 2, [], fun k => k.setG d.toNat (BitVec.ofInt 64 imm.toInt)⟩
  | .movk c d imm => some (.imm c d d (fun x => BitVec.ofNat 64 (x.toNat * 65536 + imm.toNat)))
  | .alu3 c d a b fn => (alu3Spec fn.toNat 0 0).map (fun _ => ⟨c, 2, [a.toNat, b.toNat], fun k =>
      k.setG d.toNat ((alu3Spec fn.toNat (k.gr a.toNat) (k.gr b.toNat)).getD 0)⟩)
  | _ => none

/-- The 128-bit result, a division or not, of each multiply-divide instruction, from the result before it, g[d] and g[r]
(R48, R61). -/
def mulDivEffect : Instr → Option (Nat × BitVec 4 × BitVec 4 × Bool × (Int → Word → Word → Int))
  | .mul c d r => some (c, d, r, false, fun _ a b => a.toInt * b.toInt)
  | .mulu c d r => some (c, d, r, false, fun _ a b => (a.toNat : Int) * b.toNat)
  | .mulh c d r => some (c, d, r, false, fun _ a b => a.toInt * b.toNat)
  | .mac c d r => some (c, d, r, false, fun p a b => p + a.toInt * b.toInt)
  | .div c d r => some (c, d, r, true, fun _ a b =>
      if b = 0 then (a.toNat : Int) * 2 ^ 64 + (2 ^ 64 - 1)
      else (a.toInt.tmod b.toInt) % 2 ^ 64 * 2 ^ 64 + (a.toInt.tdiv b.toInt) % 2 ^ 64)
  | .divu c d r => some (c, d, r, true, fun _ a b =>
      if b = 0 then (a.toNat : Int) * 2 ^ 64 + (2 ^ 64 - 1) else (a.toNat % b.toNat : Nat) * 2 ^ 64 + (a.toNat / b.toNat : Nat))
  | _ => none

/-- A branch: its core, parcels, the registers it reads, whether it is taken, its target, and the register it links. -/
structure BranchOp where
  c : Nat
  len : Nat
  rs : List Nat
  taken : Core → Bool
  target : Core → PAddr
  link : Option Nat

/-- The conditions and targets of R48 and R50. -/
def branchEffect : Instr → Option BranchOp
  | .beq c a b off => some ⟨c, 2, [a.toNat, b.toNat], fun k => decide (k.gr a.toNat = k.gr b.toNat), fun k => k.pc + off.signExtend 16, none⟩
  | .bne c a b off => some ⟨c, 2, [a.toNat, b.toNat], fun k => decide (k.gr a.toNat ≠ k.gr b.toNat), fun k => k.pc + off.signExtend 16, none⟩
  | .blt c a b off => some ⟨c, 2, [a.toNat, b.toNat], fun k => decide ((k.gr a.toNat).toInt < (k.gr b.toNat).toInt), fun k => k.pc + off.signExtend 16, none⟩
  | .bge c a b off => some ⟨c, 2, [a.toNat, b.toNat], fun k => decide ((k.gr b.toNat).toInt ≤ (k.gr a.toNat).toInt), fun k => k.pc + off.signExtend 16, none⟩
  | .bltu c a b off => some ⟨c, 2, [a.toNat, b.toNat], fun k => decide ((k.gr a.toNat).toNat < (k.gr b.toNat).toNat), fun k => k.pc + off.signExtend 16, none⟩
  | .bgeu c a b off => some ⟨c, 2, [a.toNat, b.toNat], fun k => decide ((k.gr b.toNat).toNat ≤ (k.gr a.toNat).toNat), fun k => k.pc + off.signExtend 16, none⟩
  | .bz c a off => some ⟨c, 2, [a.toNat], fun k => decide (k.gr a.toNat = 0), fun k => k.pc + off, none⟩
  | .bnz c a off => some ⟨c, 2, [a.toNat], fun k => decide (k.gr a.toNat ≠ 0), fun k => k.pc + off, none⟩
  | .j c l target => some ⟨c, 2, [], fun _ => true, fun _ => target, if l.toNat = 0 then none else some l.toNat⟩
  | .jr c d r => some ⟨c, 1, [r.toNat], fun _ => true, fun k => (k.gr r.toNat).setWidth 16, if d.toNat = 0 then none else some d.toNat⟩
  | _ => none

/-- A branch has issued: its delay slot is next (R64). -/
def State.branches (s : State) (b : BranchOp) : State :=
  let k := s.mod.at b.c
  let seq := k.pc + BitVec.ofNat 16 b.len
  let target := if b.taken k then some (b.target k) else none
  { s with mod := (s.mod.due b.c).retires b.c (fun k1 => match b.link with
      | none => k1.retireBranch seq target none 0 []
      | some r => (k1.setG r ((s.mod.due b.c).linkAddr b.c seq)).retireBranch seq target (some r) (k1.gr r) (k1.liveLoads r)) }

/-- Core `k` with loop level `n` loaded (R67). -/
def Core.loopSet (k : Core) (n fin : Nat) (count : Word) : Core :=
  { k with lps := SMap.put 0 k.lps n (k.pc + 2), lpe := SMap.put 0 k.lpe n (k.pc + BitVec.ofNat 16 fin)
           lpc := SMap.put 0 k.lpc n count }

/-! ### Scalar loads and stores -/

/-- A scalar load or store: its core, parcels, registers read, data register, log2 of the size, sign extension (loads), the
address, and the pointer update. -/
structure MemOp where
  c : Nat
  len : Nat
  rs : List Nat
  d : Nat
  size : Nat
  sx : Bool
  ea : Core → Nat
  post : Core → Core → Core

/-- The pointer update of a one-parcel access: bit 3 of the field asks for it. -/
def postSpec (on : Bool) (n : Nat) : Core → Core → Core :=
  fun k0 k => if on then { k with p := SMap.put 0 k.p n (k0.modify n (k0.sr n).toInt) } else k

/-- g[a] + off9 * size, in integers. -/
def baseOff (a : Word) (off : BitVec 9) (size : Nat) : Nat := (BitVec.ofInt 64 (a.toInt + off.toInt * 2 ^ size)).toNat

/-- Form P's address: the pointer modified by the offset, unscaled in bit-reversed mode. -/
def ptrOff (k : Core) (n : Nat) (off : BitVec 8) (size : Nat) : Nat :=
  (k.modify n (if k.bitrev n then off.toInt else off.toInt * 2 ^ size)).toNat

/-- The operand forms of the scalar loads (R48, R50); none for a reserved size code. -/
def loadSpec : Instr → Option MemOp
  | .ld c sz d r => some ⟨c, 1, [], d.toNat, sz.toNat, true, fun k => (k.pr (r.toNat % 8)).toNat, postSpec (decide (8 ≤ r.toNat)) (r.toNat % 8)⟩
  | .ldu c sz d r => some ⟨c, 1, [], d.toNat, sz.toNat, false, fun k => (k.pr (r.toNat % 8)).toNat, postSpec (decide (8 ≤ r.toNat)) (r.toNat % 8)⟩
  | .ldFormM c d a sz off =>
    if sz.toNat = 7 then none
    else some ⟨c, 2, [a.toNat], d.toNat, sz.toNat % 4, decide (sz.toNat < 4), fun k => baseOff (k.gr a.toNat) off (sz.toNat % 4), fun _ k => k⟩
  | .ldU c d a sz off =>
    if sz.toNat = 7 then none
    else some ⟨c, 2, [a.toNat], d.toNat, sz.toNat % 4, decide (sz.toNat < 4), fun k => baseOff (k.gr a.toNat) off (sz.toNat % 4), fun _ k => k⟩
  | .ldp c d post n sz _ off =>
    if sz.toNat = 7 then none
    else some ⟨c, 2, [], d.toNat, sz.toNat % 4, decide (sz.toNat < 4), fun k => ptrOff k n.toNat off (sz.toNat % 4), postSpec post n.toNat⟩
  | _ => none

/-- The operand forms of the scalar stores. -/
def storeSpec : Instr → Option MemOp
  | .st c sz d r => some ⟨c, 1, [d.toNat], d.toNat, sz.toNat, false, fun k => (k.pr (r.toNat % 8)).toNat, postSpec (decide (8 ≤ r.toNat)) (r.toNat % 8)⟩
  | .stFormM c d a sz off =>
    if 4 ≤ sz.toNat then none
    else some ⟨c, 2, [a.toNat, d.toNat], d.toNat, sz.toNat, false, fun k => baseOff (k.gr a.toNat) off sz.toNat, fun _ k => k⟩
  | .stp c d post n sz u off =>
    if 4 ≤ sz.toNat ∨ u = true then none
    else some ⟨c, 2, [d.toNat], d.toNat, sz.toNat, false, fun k => ptrOff k n.toNat off sz.toNat, postSpec post n.toNat⟩
  | _ => none

/-- Where the local memory of a core or steward ends (R198, R74). -/
def localTop (c : Nat) : Nat := if isStw c then 0x200000 else 0x400000

/-- A local access of `n` bytes at `ea` proceeds: aligned, inside the local memory, not kernel-only Loft at task level (R79), and
clear of the range tracker (R196). -/
def Core.localOk (k : Core) (c ea n : Nat) (write : Bool) : Bool :=
  decide (ea % n = 0) && decide (ea < localTop c) && (k.cs.level || decide (ea + n ≤ k.kloft)) && !k.rtBlocks c false ea n write

/-- The request of a far load or store has left (R58, R212): an entry of `net` with the next number, unless R10 or R14
answers it at once. -/
def Mod.asks (m : Mod) (use : Use) (c mpa n : Nat) (op : Op) : Mod := m.post use (reqCode c) (dieOf c) mpa n op

/-! ### Special registers, exceptions and gates -/

/-- The special registers that hold their own value (R39, R53, R80, R148, R162, R168, R199, R268), as MFS reads them. -/
def srValue (k : Core) (n : Nat) : Option Nat :=
  match n with
  | 1 => some (k.bankOf k.bank).epc.toNat
  | 2 => some (k.bankOf k.bank).ecs.toNat
  | 9 => some k.pl.toNat
  | 10 => some k.ph.toNat
  | 0x41 => some k.vec.toNat
  | 0x42 => some k.esp.toNat
  | 0x49 => some k.bank1.epc.toNat
  | 0x4A => some k.bank1.ecs.toNat
  | _ =>
    if 0x10 ≤ n ∧ n ≤ 0x13 then some (SMap.get 0 k.lps (n - 0x10)).toNat
    else if 0x14 ≤ n ∧ n ≤ 0x17 then some (SMap.get 0 k.lpe (n - 0x14)).toNat
    else if 0x18 ≤ n ∧ n ≤ 0x1B then some (SMap.get 0 k.lpc (n - 0x18)).toNat
    else if 0x20 ≤ n ∧ n ≤ 0x27 then some (SMap.get 0 k.p (n - 0x20)).toNat
    else if 0x28 ≤ n ∧ n ≤ 0x2F then some (SMap.get 0 k.st (n - 0x28)).toNat
    else if 0x30 ≤ n ∧ n ≤ 0x37 then some (SMap.get 0 k.w (n - 0x30)).toNat
    else none

/-- Those that only a core has. -/
def srValueCore (k : Core) (n : Nat) : Option Nat :=
  match n with
  | 0x43 => some k.gateBase
  | 0x44 => some k.rgnBase
  | 0x45 => some k.rgnLimit
  | 0x46 => some k.kloft
  | 0x50 => some k.srng.toNat
  | 0x51 => some k.tldpos
  | 0x52 => some k.accpin
  | 0x54 => some k.mxdone
  | 0x5C => some k.wwin0Base
  | 0x5D => some k.wwin0Limit
  | 0x5E => some k.wwin1Base
  | 0x5F => some k.wwin1Limit
  | 0x60 => some k.tctx
  | 0x62 => some k.tfinfo
  | _ => none

/-- Special registers that kernel level alone may read or write (R53). -/
def kernelSr (n : Nat) : Bool :=
  n == 1 || n == 2 || (decide (0x40 ≤ n) && decide (n ≤ 0x4A)) || (decide (0x5C ≤ n) && decide (n ≤ 0x62))

/-- What an MTS of `v` leaves in the special registers that hold their own value: reserved bits read zero. -/
def srWrite (n v : Nat) (k : Core) : Option Core :=
  let w : Word := BitVec.ofNat 64 v
  match n with
  | 1 => some (k.setBank k.bank { k.bankOf k.bank with epc := BitVec.ofNat 16 v })
  | 2 => some (k.setBank k.bank { k.bankOf k.bank with ecs := w })
  | 0x41 => some { k with vec := BitVec.ofNat 16 v }
  | 0x42 => some { k with esp := w }
  | 0x49 => some { k with bank1 := { k.bank1 with epc := BitVec.ofNat 16 v } }
  | 0x4A => some { k with bank1 := { k.bank1 with ecs := w } }
  | _ =>
    if 0x10 ≤ n ∧ n ≤ 0x13 then some { k with lps := SMap.put 0 k.lps (n - 0x10) (BitVec.ofNat 16 v) }
    else if 0x14 ≤ n ∧ n ≤ 0x17 then some { k with lpe := SMap.put 0 k.lpe (n - 0x14) (BitVec.ofNat 16 v) }
    else if 0x18 ≤ n ∧ n ≤ 0x1B then some { k with lpc := SMap.put 0 k.lpc (n - 0x18) w }
    else if 0x20 ≤ n ∧ n ≤ 0x27 then some { k with p := SMap.put 0 k.p (n - 0x20) w }
    else if 0x28 ≤ n ∧ n ≤ 0x2F then some { k with st := SMap.put 0 k.st (n - 0x28) w }
    else none

def srWriteCore (n v : Nat) (k : Core) : Option Core :=
  match n with
  | 0x43 => some { k with gateBase := v / 1024 % 4096 * 1024 }
  | 0x44 => some { k with rgnBase := v % 2 ^ 48 }
  | 0x45 => some { k with rgnLimit := v % 2 ^ 48 }
  | 0x46 => some { k with kloft := v / 4096 % 2048 * 4096 }
  | 0x50 => some { k with srng := if v % 2 ^ 32 = 0 then 1 else BitVec.ofNat 32 v }
  | 0x51 => some { k with tldpos := v % 2048 }
  | 0x52 => some { k with accpin := v % 65536 }
  | 0x54 => some { k with mxdone := v % 128 }
  | 0x5C => some { k with wwin0Base := v % 2 ^ 44 }
  | 0x5D => some { k with wwin0Limit := v % 2 ^ 44 }
  | 0x5E => some { k with wwin1Base := v % 2 ^ 44 }
  | 0x5F => some { k with wwin1Limit := v % 2 ^ 44 }
  | 0x60 => some { k with tctx := v / 4096 % 2 ^ 32 * 4096 + v % 256 }
  | _ => none

/-- The fields of CS that a write of `v` leaves (R40, R93): EXL and IE are never both left at 1, IE is 0 in bank 2, and a
steward's LEVEL is 1 (R72). -/
def csFields (v bank : Nat) (stw : Bool) : Cs :=
  { ie := decide (v % 2 = 1 ∧ v / 2 % 2 = 0 ∧ bank ≠ 2), exl := decide (v / 2 % 2 = 1)
    level := stw || decide (v / 4 % 2 = 1), le := decide (v / 8 % 2 = 1) }

/-- Core `k` has entered bank `b` at `vector` from core `k0` (R84, R88): EPC, ECS with the previous state, and CS. -/
def Core.hasEntered (k k0 : Core) (b : Nat) (vector epc : PAddr) (cause sub addr : Nat) (bd rs : Bool) : Prop :=
  let e := (k.bankOf b).ecs.toNat
  k.bank = b ∧ k.pc = vector ∧ (k.bankOf b).epc = epc ∧ (k.bankOf b).cs.level = true ∧ (k.bankOf b).cs.exl = true ∧
    (k.bankOf b).cs.ie = false ∧ (k.bankOf b).cs.le = (k0.bankOf b).cs.le ∧ k.trap = none ∧ k.branch = none ∧
    e % 64 = cause % 64 ∧ e / 64 % 8 = sub % 8 ∧ e / 2 ^ 9 % 2 = b2n k0.cs.le ∧ e / 2 ^ 10 % 2 = b2n k0.cs.ie ∧
    e / 2 ^ 11 % 2 = b2n k0.cs.level ∧ e / 2 ^ 12 % 4 = k0.bank ∧ e / 2 ^ 14 % 2 = b2n rs ∧ e / 2 ^ 15 % 2 = b2n bd ∧
    e / 2 ^ 16 = addr % 2 ^ 48

/-- The general and pointer registers, loops and tile state of two cores agree. -/
def Core.sameData (k k' : Core) : Prop :=
  k.p = k'.p ∧ k.st = k'.st ∧ k.w = k'.w ∧ k.lps = k'.lps ∧ k.lpe = k'.lpe ∧ k.lpc = k'.lpc ∧ k.pl = k'.pl ∧ k.ph = k'.ph ∧
    k.q = k'.q ∧ k.tiles = k'.tiles ∧ k.acc = k'.acc ∧ k.side = k'.side ∧ k.tag = k'.tag ∧ k.tlb = k'.tlb ∧ k.kloft = k'.kloft ∧
    k.vec = k'.vec ∧ k.esp = k'.esp

/-- The core may take an interrupt now (R62, R76, R82, R89). -/
def Mod.interruptible (m : Mod) (c : Nat) : Bool :=
  let k := m.at c
  isCpu c && k.running && k.trap.isNone && k.reports.isEmpty && k.routine.isNone && k.hold.isNone && k.cs.ie && decide (k.bank < 2) &&
    !(k.bank == 1 && k.cs.exl) && k.branch.isNone && k.walk.isNone && k.csq.all (fun e => e.2 == 0) && k.md.isEmpty &&
    k.loads.all (fun l => decide (3 ≤ l.age)) && k.vloads.all (fun l => decide (3 ≤ l.age)) && k.settled && !m.sendTaken c && m.pendingIrq c != 0

/-- One pointer argument of a gate lies in the task's region (R95). -/
def Core.argIn (k : Core) (n len : Nat) : Prop :=
  k.rgnBase ≤ (k.gr n).toNat ∧ (k.gr n).toNat + len ≤ k.rgnLimit ∧ k.rgnBase < k.rgnLimit

/-! ### Translation, Crib, buffers and fences -/

/-- The TLB entries that a TLBINV of `v` selects (R204): all, those of an ASID, those of an ASID that cover an address. -/
def tlbSelected (v : Nat) (e : TlbEntry) : Bool :=
  match v / 2 ^ 62 % 4 with
  | 0 => true
  | 1 => e.asid == v / 256 % 256
  | 2 => e.asid == v / 256 % 256 && (if e.big then e.vpage == v / 2 ^ 30 % 2 ^ 18 else e.vpage == v / 2 ^ 21 % 2 ^ 27)
  | _ => false

/-- The three fence commands with their scope and kind (1 release, 2 acquire, 3 both); none for a reserved encoding. -/
def fenceSpec : Instr → Option (Nat × Nat × Nat)
  | .fence c f =>
    if f.a.toNat = 0 ∧ f.b.toNat = 0 ∧ f.c.toNat = 0 ∧ f.imm.toNat < 16 ∧ f.imm.toNat % 4 ≠ 0 ∧ f.imm.toNat / 4 ≠ 3
    then some (c, f.imm.toNat / 4, f.imm.toNat % 4) else none
  | .fenceRel c scope => if scope.toNat = 3 then none else some (c, scope.toNat, 1)
  | .fenceAcq c scope => if scope.toNat = 3 then none else some (c, scope.toNat, 2)
  | _ => none

/-- What an acquire at CHIP or SYSTEM scope does (R208, R218): the Crib is empty, and fills in flight do not allocate. -/
def Core.acquired (k : Core) (scope : Nat) : Core :=
  if scope = 0 then k else { k with crib := [], fills := k.fills.map (fun f => { f with alloc := false }) }

/-- The same for a wait that ends. -/
def Core.woken (k : Core) (scope : Nat) : Core := { k.acquired scope with hold := none }

/-- The module after a release of a scope has begun: at CHIP and SYSTEM the write-combining buffer is written out. -/
def Mod.releasing (m : Mod) (c scope : Nat) : Mod := if scope = 0 then m else m.drainWcb c

/-! ### Counters and stook lines -/

/-- The counter that a SIG or WAIT names: by its short number, or by the reference in g[b] (R230, R232). -/
def sigTarget (c : Nat) (f : SysF) (k : Core) : Option Cnt :=
  if f.imm.toNat / 65536 % 2 = 1 then cntOf (k.gr f.b.toNat).toNat
  else match shortRef c (f.imm.toNat % 2048) with | some r => cntOf r | none => none

/-- A SIG or WAIT whose unused fields hold zero and whose scope is not reserved (R232). -/
def sigForm (c : Nat) (f : SysF) (wait : Bool) : Bool :=
  let i := f.imm.toNat
  decide (i / 2 ^ 17 % 4 ≠ 3) && decide (i / 2048 % 16 = 0) &&
    (if i / 65536 % 2 = 1 then decide (i % 2048 = 0) else (shortRef c (i % 2048)).isSome && decide (f.b.toNat = 0)) &&
    (if wait then decide (i / 2 ^ 15 % 2 = 1) || decide (f.c.toNat = 0) else decide (f.c.toNat = 0) && decide (i / 2 ^ 15 % 2 = 0))

/-- The general registers that a SIG or WAIT reads. -/
def sigReads (f : SysF) : List Nat := if f.imm.toNat / 65536 % 2 = 1 then [f.a.toNat, f.b.toNat] else [f.a.toNat]

/-- A STOOK instruction whose unused fields hold zero (R241), and its line: 8 + n for a module line. -/
def stookForm (f : SysF) (waitg : Bool) : Bool :=
  let i := f.imm.toNat
  decide (f.b.toNat = 0) && decide (i / 2 ^ 17 % 2 = 0) && decide (i / 8 % 2 ^ 13 = 0) && decide ((if waitg then f.c.toNat else f.a.toNat) = 0) &&
    (decide (i / 65536 % 2 = 0) || decide (i % 8 < 4))

def stookNum (f : SysF) : Nat := if f.imm.toNat / 65536 % 2 = 1 then 8 + f.imm.toNat % 8 else f.imm.toNat % 8

/-! ### Chutes -/

/-- SEND and TRYSEND with their unused fields zero: core, fields, whether it is a TRYSEND. -/
def sendSpec : Instr → Option (Nat × SysF × Bool)
  | .send c f => if f.c.toNat = 0 ∧ f.imm.toNat < 8 then some (c, f, false) else none
  | .trysend c f => if f.imm.toNat < 8 then some (c, f, true) else none
  | _ => none

/-- RECV and RECV.TRY with their unused fields zero. -/
def recvSpec : Instr → Option (Nat × SysF × Bool)
  | .recv c f => if f.a.toNat = 0 ∧ f.b.toNat = 0 ∧ f.imm.toNat / 8 % 2 ^ 14 = 0 ∧ f.imm.toNat / 2 ^ 17 ≠ 3 then some (c, f, false) else none
  | .recvTry c f => if f.a.toNat = 0 ∧ f.b.toNat = 0 ∧ f.imm.toNat / 8 % 2 ^ 14 = 0 ∧ f.imm.toNat / 2 ^ 17 ≠ 3 then some (c, f, true) else none
  | _ => none

/-- Words free in a ring (R253). -/
def Mod.chuteFree (m : Mod) (c ch : Nat) : Nat :=
  m.chuteSize c ch - (m.chuteReg c ch 3 + 2 ^ 32 - m.chuteReg c ch 1) % 2 ^ 32

/-! ### Vector instructions -/

/-- A vector instruction's fields fit its form (R105, R106): a type and predicate code that the form has, blank fields zero. -/
def VForm.fits (fm : VForm) (f : VFields) : Bool :=
  (if fm.ty.isEmpty then f.ty.toNat == 0 else fm.ty.contains f.ty.toNat) &&
    (if fm.pred then decide (f.pred.toNat = 0 ∨ 8 ≤ f.pred.toNat) else f.pred.toNat == 0) && (fm.z || f.z.toNat == 0) &&
    f.vd.toNat &&& (31 - fm.vd) == 0 && f.va.toNat &&& (31 - fm.va) == 0 && f.vb.toNat &&& (31 - fm.vb) == 0 &&
    f.aux.toNat &&& (255 - fm.aux) == 0

/-- A vector instruction that changes only its core: its form, whether its codes are assigned, registers read, effect. -/
structure VecOp where
  c : Nat
  f : VFields
  fm : VForm
  ok : Bool
  rs : List Nat
  g : Core → Core

/-- The lanes where predicate field `pred` is active (R104). -/
def Core.on (k : Core) (f : VFields) (i : Nat) : Bool :=
  f.pred.toNat == 0 || bits (SMap.get 0 k.q (f.pred.toNat % 8)).toNat i 1 == 1

/-- Element `e` of vector register `r`, of `w` bits. -/
def Core.elem (k : Core) (r w e : Nat) : Nat := (SMap.get 0 k.v r).toNat / 2 ^ (w * e) % 2 ^ w

/-- A two's complement element, or an unsigned one for U32. -/
def signedOf (ty v : Nat) : Int := if ty = 1 ∨ v < 2 ^ (eWidth ty - 1) then v else (v : Int) - 2 ^ eWidth ty

/-- A floating-point element operation, rounded once to nearest even (R107); integers go by `fi`. -/
def elemwise (fi : Nat → Nat → Nat → Nat → Nat) (ff : FV → FV → FV → FV) (ty a b c : Nat) : Nat :=
  match typeCode ty with
  | some code => convTo code .rne false (ff (elemVal code a) (elemVal code b) (elemVal code c))
  | none => fi ty a b c

/-- The element operations of R107, on integers modulo the element width. -/
def elemSpec : Instr → Option (Nat × VFields × VForm × (Nat → Nat → Nat → Nat → Nat))
  | .vadd c f => some (c, f, { ty := allTypes, pred := true, z := true, vd := 31, va := 31, vb := 31 },
      elemwise (fun ty a b _ => (a + b) % 2 ^ eWidth ty) (fun a b _ => a.add b))
  | .vsub c f => some (c, f, { ty := allTypes, pred := true, z := true, vd := 31, va := 31, vb := 31 },
      elemwise (fun ty a b _ => (a + 2 ^ eWidth ty - b) % 2 ^ eWidth ty) (fun a b _ => a.add b.neg))
  | .vmul c f => some (c, f, { ty := allTypes, pred := true, z := true, vd := 31, va := 31, vb := 31 },
      elemwise (fun ty a b _ => a * b % 2 ^ eWidth ty) (fun a b _ => a.mul b))
  | .vfma c f => some (c, f, { ty := allTypes, pred := true, z := true, vd := 31, va := 31, vb := 31, aux := 31 },
      elemwise (fun ty a b d => (a * b + d) % 2 ^ eWidth ty) (fun a b d => (a.mul b).add d))
  | .vmin c f => some (c, f, { ty := allTypes, pred := true, z := true, vd := 31, va := 31, vb := 31 },
      elemwise (fun ty a b _ => if signedOf ty a ≤ signedOf ty b then a else b) (fun a b _ => a.min b))
  | .vmax c f => some (c, f, { ty := allTypes, pred := true, z := true, vd := 31, va := 31, vb := 31 },
      elemwise (fun ty a b _ => if signedOf ty a ≤ signedOf ty b then b else a) (fun a b _ => a.max b))
  | .vabs c f => some (c, f, { ty := allTypes, pred := true, z := true, vd := 31, va := 31 },
      elemwise (fun ty a _ _ => if signedOf ty a < 0 then 2 ^ eWidth ty - a else a) (fun a _ _ => a.abs))
  | .vneg c f => some (c, f, { ty := allTypes, pred := true, z := true, vd := 31, va := 31 },
      elemwise (fun ty a _ _ => (2 ^ eWidth ty - a) % 2 ^ eWidth ty) (fun a _ _ => a.neg))
  | .vshl c f => some (c, f, { ty := [0, 1, 7], pred := true, z := true, vd := 31, va := 31, vb := 31 },
      fun ty a b _ => a * 2 ^ (b % eWidth ty) % 2 ^ eWidth ty)
  | .vshr c f => some (c, f, { ty := [0, 1, 7], pred := true, z := true, vd := 31, va := 31, vb := 31 },
      fun ty a b _ => a / 2 ^ (b % eWidth ty))
  | .vsar c f => some (c, f, { ty := [0, 1, 7], pred := true, z := true, vd := 31, va := 31, vb := 31 },
      fun ty a b _ => if a < 2 ^ (eWidth ty - 1) then a / 2 ^ (b % eWidth ty)
        else 2 ^ eWidth ty - 1 - (2 ^ eWidth ty - 1 - a) / 2 ^ (b % eWidth ty))
  | .vsf c f => some (c, f, { ty := [2, 3], pred := true, z := true, vd := 31, va := 31, aux := if f.aux.toNat < 5 then 7 else 0 },
      fun ty a _ _ => convTo ((typeCode ty).getD 0) .rne false ((vsf (f.aux.toNat % 8) (elemVal ((typeCode ty).getD 0) a)).getD .nan))
  | _ => none

/-- The operations on whole lanes and predicates (R104, R106, R109, R110). -/
def vectorSpec : Instr → Option VecOp
  | .vand c f => some ⟨c, f, { pred := true, z := true, vd := 31, va := 31, vb := 31 }, true, [], fun k =>
      k.setVp f (fun i => k.elem f.va.toNat 32 i &&& k.elem f.vb.toNat 32 i)⟩
  | .vor c f => some ⟨c, f, { pred := true, z := true, vd := 31, va := 31, vb := 31 }, true, [], fun k =>
      k.setVp f (fun i => k.elem f.va.toNat 32 i ||| k.elem f.vb.toNat 32 i)⟩
  | .vxor c f => some ⟨c, f, { pred := true, z := true, vd := 31, va := 31, vb := 31 }, true, [], fun k =>
      k.setVp f (fun i => k.elem f.va.toNat 32 i ^^^ k.elem f.vb.toNat 32 i)⟩
  | .vsplat c f => some ⟨c, f, { pred := true, z := true, vd := 31, vb := 31, aux := 255, gb := true }, true,
      if f.vb.toNat / 16 = 1 then [] else [f.vb.toNat % 16], fun k => k.setVp f (fun _ =>
        if f.vb.toNat / 16 = 1 then (f.aux.signExtend 32).toNat else (k.gr (f.vb.toNat % 16)).toNat)⟩
  | .vperm c f => some ⟨c, f, { pred := true, z := true, vd := 31, va := 31, vb := 31 }, true, [], fun k =>
      k.setVp f (fun i => k.elem f.va.toNat 32 (k.elem f.vb.toNat 32 i % 64))⟩
  | .vrot c f => some ⟨c, f, { pred := true, z := true, vd := 31, va := 31, aux := 63 }, true, [], fun k =>
      k.setVp f (fun i => k.elem f.va.toNat 32 ((i + f.aux.toNat) % 64))⟩
  | .vsel c f => some ⟨c, f, { pred := true, vd := 31, va := 31, vb := 31 }, decide (f.pred.toNat ≠ 0), [], fun k =>
      k.setV f.vd.toNat (ofLanes (fun i => if k.on f i then k.elem f.va.toNat 32 i else k.elem f.vb.toNat 32 i))⟩
  | .vins c f => some ⟨c, f, { vd := 31, vb := 15, aux := 63, keep := true }, true, [f.vb.toNat % 16], fun k =>
      k.setV f.vd.toNat (ofLanes (fun i => if i = f.aux.toNat then (k.gr f.vb.toNat).toNat else k.elem f.vd.toNat 32 i))⟩
  | .vext c f => some ⟨c, f, { vd := 15, va := 31, aux := 63 }, true, [], fun k =>
      k.setG f.vd.toNat (BitVec.ofNat 64 (k.elem f.va.toNat 32 f.aux.toNat))⟩
  | .mtq c f => some ⟨c, f, { vd := 7, vb := 15 }, true, [f.vb.toNat], fun k =>
      { k with q := SMap.put 0 k.q f.vd.toNat (k.gr f.vb.toNat) }⟩
  | .mfq c f => some ⟨c, f, { vd := 15, va := 7 }, true, [], fun k => k.setG f.vd.toNat (SMap.get 0 k.q f.va.toNat)⟩
  | .qop c f => some ⟨c, f, { vd := 7, va := 7, vb := 7, aux := 7 }, decide (f.aux.toNat ≠ 7), [], fun k =>
      let a := SMap.get 0 k.q f.va.toNat
      let b := SMap.get 0 k.q f.vb.toNat
      { k with q := SMap.put 0 k.q f.vd.toNat (match f.aux.toNat with
          | 0 => a &&& b | 1 => a ||| b | 2 => a ^^^ b | 3 => a &&& ~~~b | 4 => ~~~a | 5 => BitVec.allOnes 64 | _ => 0) }⟩
  | .vcmp c f => some ⟨c, f, { ty := allTypes, pred := true, vd := 7, va := 31, vb := 31, aux := 15 }, decide (f.aux.toNat % 8 ≠ 7), [], fun k =>
      let n := perLane f.ty.toNat
      let w := eWidth f.ty.toNat
      let hit := fun (i j : Nat) => cmpElem f.ty.toNat (f.aux.toNat % 8) (k.elem f.va.toNat w (n * i + j)) (k.elem f.vb.toNat w (n * i + j))
      let lane := fun (i : Nat) => if f.aux.toNat / 8 = 1 then (List.range n).any (hit i) else (List.range n).all (hit i)
      k.setQ f.vd.toNat (((List.range 64).filter (fun i => k.on f i && lane i)).foldl (fun v i => v + 2 ^ i) 0)⟩
  | .vred c f => some ⟨c, f, { ty := allTypes, pred := true, vd := 15, va := 31, aux := 7 }, decide (f.aux.toNat < 6), [], fun k =>
      let n := perLane f.ty.toNat
      let els := (List.range (64 * n)).map (fun e => if k.on f (e / n) then some (k.elem f.va.toNat (eWidth f.ty.toNat) e) else none)
      k.setG f.vd.toNat (BitVec.ofNat 64 (match typeCode f.ty.toNat with
        | some code => redFloat f.aux.toNat (els.map (fun x => x.map (fun y => toF32 (elemVal code y))))
        | none => redInt f.ty.toNat f.aux.toNat els))⟩
  | .vcvt c f => some ⟨c, f, { ty := allTypes, vd := 31, va := 31, aux := 255, keep := decide (perLane f.ty.toNat < perLane (f.aux.toNat / 32)) },
      decide (f.aux.toNat / 2 % 4 ≠ 3 ∧ f.aux.toNat / 8 % 4 <
        max (perLane f.ty.toNat / perLane (f.aux.toNat / 32)) (perLane (f.aux.toNat / 32) / perLane f.ty.toNat)), [], fun k =>
      let src := f.ty.toNat
      let dst := f.aux.toNat / 32
      let p := f.aux.toNat / 8 % 4
      let n := 64 * min (perLane src) (perLane dst)
      let first := if perLane dst < perLane src then p * n else 0
      let base := if perLane src < perLane dst then p * n else 0
      let r := convList (fun mode v => toType dst mode (decide (f.aux.toNat % 2 = 1)) v) (if src = 0 ∧ dst = 2 then 0 else f.aux.toNat / 2 % 4)
        ((List.range n).map (fun e => elemOf src (k.elem f.va.toNat (eWidth src) (first + e)))) k.srng.toNat
      { k.setV f.vd.toNat (placeElems (eWidth dst) r.1 base (SMap.get 0 k.v f.vd.toNat).toNat) with srng := BitVec.ofNat 32 r.2 }⟩
  | _ => none

/-- The vector loads and stores: form, general and vector registers read, whether it stores, and the address of lane `i` (R106, R111, R113). -/
structure VecMem where
  c : Nat
  f : VFields
  fm : VForm
  rs : List Nat
  vs : List Nat
  store : Bool
  ea : Core → Nat → Nat

def vecMemSpec : Instr → Option VecMem
  | .vld c f => some ⟨c, f, { pred := true, z := true, vd := 31, va := 31, aux := 255 }, [], [], false, fun k i => (vEa k f 256 + 4 * i) % 2 ^ 64⟩
  | .vst c f => some ⟨c, f, { pred := true, z := true, vd := 31, va := 31, aux := 255 }, [], [f.vd.toNat], true, fun k i => (vEa k f 256 + 4 * i) % 2 ^ 64⟩
  | .vlds c f => some ⟨c, f, { pred := true, z := true, vd := 31, va := 31, vb := 15, aux := 255 }, [f.vb.toNat % 16], [], false,
      fun k i => (vEa k f 4 + i * (k.gr f.vb.toNat).toNat) % 2 ^ 64⟩
  | .vsts c f => some ⟨c, f, { pred := true, z := true, vd := 31, va := 31, vb := 15, aux := 255 }, [f.vb.toNat % 16], [f.vd.toNat], true,
      fun k i => (vEa k f 4 + i * (k.gr f.vb.toNat).toNat) % 2 ^ 64⟩
  | .vgath c f => some ⟨c, f, { pred := true, z := true, vd := 31, va := 23, vb := 31 }, [], [f.vb.toNat], false,
      fun k i => (vEa k f 0 + k.elem f.vb.toNat 32 i) % 2 ^ 22⟩
  | .vscat c f => some ⟨c, f, { pred := true, z := true, vd := 31, va := 23, vb := 31 }, [], [f.vb.toNat, f.vd.toNat], true,
      fun k i => (vEa k f 0 + k.elem f.vb.toNat 32 i) % 2 ^ 22⟩
  | _ => none

/-! ### Tile registers and accumulators -/

/-- Bits `j` of storage row pair `r` of a tile as one number, as VTRD reads it. -/
def Core.rowPair (k : Core) (t r : Nat) : Nat :=
  (SMap.get 0 k.tiles (64 * t + r)).toNat + (SMap.get 0 k.tiles (64 * t + (r + 1))).toNat * 2 ^ 1024

/-- Element `e` of accumulator `a`. -/
def Core.accElem (k : Core) (a e : Nat) : BitVec 32 := SMap.get 0 k.acc (4096 * a + e)

/-- A TLD or TST whose memory rows all lie in own Loft, in range of the whole shape, that meets none of the stops of R156 and finds no far
read or translation of an earlier try. -/
def Core.tldOwn (k : Core) (c : Nat) (f : TileF) : Prop :=
  let base := (k.gr f.a.toNat).toNat
  let stride := (k.gr f.b.toNat).toNat
  let rows := if f.tr = 1 then geoK f.geo.toNat f.tfmt.toNat else geoRows f.geo.toNat
  let n := spanBytes f.mfmt.toNat (if f.tr = 1 then geoRows f.geo.toNat else geoK f.geo.toNat f.tfmt.toNat)
  base % 4 = 0 ∧ stride % 4 = 0 ∧ base + rows * stride + n ≤ 0x400000 ∧ (k.cs.level = true ∨ base + rows * stride + n ≤ k.kloft) ∧
    k.rt = [] ∧ k.xlat = [] ∧ (∀ p ∈ k.pieces, p.own ≠ 0) ∧ isCore c = true

/-- A TSAVE or TRESTORE proceeds (R165): aligned, inside own Loft, allowed, the Thresher idle, and no entry of the tracker in the way of what
the masks select. -/
def Core.saveOk (k : Core) (c a : Nat) (f : SaveF) : Prop :=
  a % 256 = 0 ∧ a + 0x51100 ≤ 0x400000 ∧ (k.cs.level = true ∨ a + 0x51100 ≤ k.kloft) ∧ k.mxq = [] ∧ k.tmuls = [] ∧
    ∀ p ∈ saveSpans f, k.rtBlocks c false (a + p.1) p.2 true = false


/-! ### Register accesses -/

/-- Power is on and the power-on reset has been performed. -/
def State.up (s : State) : Bool := s.aon.powered && !s.aon.poDue

/-- `a` is a whole 8-byte access, made at once by a requester of R23, to the register at `off` of a page. -/
def accessOf (a : RegAcc) (die page off : Nat) : Bool :=
  a.id.isNone && isReq a.q && decide (a.mpa = regMpa die page off) && decide (a.size = 8) && decide (die < 6) && decide (page < 8192) &&
    decide (off < 4096) && decide (off % 8 = 0)

/-- The access is one that R14, R18, R20, R409 and R453 admit, to a page that is not of a core under reset (R411). -/
def State.admits (s : State) (a : RegAcc) (die page off : Nat) : Bool :=
  s.up && accessOf a die page off && (s.mod.regRefused a.q die page off 8).isNone &&
    !(decide (die < 4) && decide (page < 2048) && s.mod.coreSweep (die * 256 + page / 8)) && !(sysOnly die page off && isCore a.q)

/-- The bit that a field's write leaves, from its bit before it, whether it is written, and the bit written (R20). -/
def bitWrite (acc : Acc) (locked old we wv : Bool) : Bool :=
  match acc with
  | .rw => if we then wv else old
  | .rwl => if locked then old else if we then wv else old
  | .w1c => old && !(we && wv)
  | .w1s => old || (we && wv)
  | .ro => old
  | .rc => old
  | .wo => false
  | .w1z => false

/-! ### Furrows -/

/-- Where a steering operation sends its data token, by its control value (R300): tokens `l` in input order, as taken. -/
def steer (op : Nat) (l : List Token) (o0 o1 : Nat) : List (Nat × Option Token) :=
  match op, l with
  | 3, [d, k] => [(o0, if k.data % 2 = 0 then some d else none), (o1, if k.data % 2 = 1 then some d else none)]
  | 4, [_, d] => [(o0, some d)]
  | 5, [d] => [(o0, some d), (o1, some d)]
  | 6, [d, k] => [(o0, if k.data % 2 = 1 then some d else none)]
  | _, _ => []

/-- A full-width access admitted to a register of an enabled page. -/
def State.works (s : State) (a : RegAcc) (die page off : Nat) : Bool := s.admits a die page off && s.mod.enabled die page

/-- Bit `b` of a word. -/
def bitOn (v : Word) (b : Nat) : Bool := bits v.toNat b 1 == 1

/-- Bit `b` of a page's error status, and of its interrupt status. -/
def Mod.errSet (m : Mod) (die page b : Nat) : Prop := bits (m.reg die page 0x038) b 1 = 1
def Mod.irqSet (m : Mod) (die page b : Nat) : Prop := bits (m.reg die page 0x020) b 1 = 1

/-- The state and training reason of an end of a link. -/
def Mod.trains (m : Mod) (die page reason : Nat) : Prop := m.linkState die page = 2 ∧ m.fld die page 0x108 48 4 = reason

/-- Every host access in flight still waits for a granule other than request `id`. -/
def Mod.hostOther (m : Mod) (id : Nat) : Prop := ∀ h ∈ m.hostQ, ∃ y ∈ m.net, y.use = .host h.id ∧ y.id ≠ id ∧ y.answer = none

/-- Neither HBM nor the Granary holds an uncorrectable error in the granule of a Barn-local address. -/
def Mod.granuleOk (m : Mod) (b l : Nat) : Prop :=
  m.wordsOk (hbmKey b l / 64 * 64) 64 = true ∧ ∀ x, m.gHit b l = some x → bits x.bad (8 * gHalf l) 8 = 0

/-- The answer that request `id` has got. -/
def Mod.answered (m : Mod) (id : Nat) (r : Req) (x : Resp) : Prop := m.findReq id = some { r with resp := some x, sent := true, path := r.path.retrace }

/-- Memory differs from that of `m` only in the bytes of `k` to `k + n - 1` that `mask` selects, which hold `v`. -/
def Mod.stored (t m : Mod) (k n mask v : Nat) : Prop :=
  (∀ i, i < n → bits mask i 1 = 1 → SMap.get 0 t.mem (k + i) = BitVec.ofNat 8 (v / 256 ^ i)) ∧
    (∀ a, (a < k ∨ k + n ≤ a ∨ bits mask (a - k) 1 = 0) → SMap.get 0 t.mem a = SMap.get 0 m.mem a)

/-! ### Cadence -/

/-- Every die out of DR is sent the tick word of a line. -/
def Mod.ticked (t m : Mod) (frame line lpf : Nat) : Prop :=
  ∀ d, d < 6 → m.dr.contains d = false → Tick.mk d frame line lpf false ∈ t.ticks

/-- The instant of free-run frame edge `k` of a grid (R370). -/
def gridEdge (a : AlwaysOn) (k : Nat) : Nat := a.grid0 + k * (rateOf a.rate).2 * 2 ^ 64 / (rateOf a.rate).1

/-- One more increment is on its way, which no instruction waits for. -/
def Mod.sends (t m : Mod) (ref amount q : Nat) : Prop :=
  ∃ i, t.incs = m.incs ++ [i] ∧ i.ref = ref ∧ i.amount = amount ∧ i.q = q ∧ i.sig = none ∧ i.cut = false

/-- Only slot `s` of a die is enabled, and no deadline window is active. -/
def Mod.onlySlot (m : Mod) (die s : Nat) : Prop :=
  m.cad die 0x140 = 2 ^ s ∧ ∀ w, w < 16 → bits (m.cad die (winOff w + 0x10)) 48 2 = 0

/-! ### The host port and its rings -/

/-- The host's memory requests are taken: the link is up, no MR sweeps, the function is in D0, and nothing waits. -/
def State.hostOpen (s : State) : Prop := s.linkUp = true ∧ s.mod.mrSweep = false ∧ s.mod.d3 = false ∧ s.mod.hostQ = []

/-- The next entry of ring `r` as firmware reads it: its view of the ring, the entry as a number, and the module after the reads. -/
def Mod.entryAt (m : Mod) (a : AlwaysOn) (r : Nat) (x : Ring) (e : Nat) (m2 : Mod) : Prop :=
  ∃ m1, sampleRing a r m = (some x, m1) ∧
    readNum a (m1.ringBase r + 0x100 + 64 * (x.ridx % m1.ringSize r)) 64 (m1.setRing r x) = (some e, m2)

/-- Firmware takes entries of ring `r`, the next being `e`, well formed and of OPCODE `op`. -/
def State.takes (s : State) (r op : Nat) (x : Ring) (e : Nat) (m : Mod) : Prop :=
  r < 16 ∧ s.aon.powered = true ∧ s.mod.ringOn r = true ∧ (s.mod.ring r).stopped = false ∧ s.mod.barnSweep 0 = false ∧ s.mod.entryAt s.aon r x e m ∧
    x.stopped = false ∧ x.ridx ≠ x.widx ∧ entryOk e x.ridx = true ∧ bits e 64 16 = op

/-- The completion entry that an entry owes, when its FLAGS ask for one. -/
def owed (s : State) (e status detail : Nat) : List (List Nat) :=
  if bits e 80 1 = 1 ∨ status = 2 ∨ status = 3 then [[bits e 128 64, bits e 0 64, s.aon.frameNum, status, detail, bits e 80 16]] else []

/-- Firmware's view of ring `r` after it has taken one entry from view `x` and owes `l`. -/
def Mod.took (m : Mod) (r : Nat) (x : Ring) (l : List (List Nat)) : Prop :=
  m.ring r = { x with ridx := (x.ridx + 1) % 2 ^ 64, waiting := x.waiting ++ l }

/-! ### Resets and power -/

/-- The epoch after an increment: the value after 0xFFFF is 1 (R341). -/
def nextEpoch (e : Nat) : Nat := if e = 0xFFFF then 1 else e + 1

/-- What R421 keeps of the always-on island through an MR. -/
def AlwaysOn.keeps (b a : AlwaysOn) : Prop :=
  b.time = a.time ∧ b.mono = a.mono ∧ b.frameNum = a.frameNum ∧ b.trim = a.trim ∧ b.uds = a.uds ∧ b.flash = a.flash ∧ b.lcFuses = a.lcFuses

/-- The module as an MR leaves it when its sweeps begin: HBM, Lofts and bins zero, no traffic, every processor's and Barn's memories sweeping. -/
def Mod.fresh0 (m : Mod) : Prop :=
  (∀ k, k < 2 ^ 42 → SMap.get 0 m.mem k = 0) ∧ (∀ c, isCore c = true → m.coreSweep c = true ∧ ∀ k, k < 0x400000 → SMap.get 0 m.mem (loftKey c + k) = 0) ∧ m.bins = [] ∧ m.poisoned = [] ∧ m.net = [] ∧ m.incs = [] ∧ (∀ c, isCore c = true → m.core c = Core.reset) ∧
    m.barnSweep 0 = true ∧ m.barnSweep 1 = true

/-- SWEEP_CAUSE of a die: KIND and SRC. -/
def AlwaysOn.caused (a : AlwaysOn) (d kind src : Nat) : Prop := bits (a.cause.getD d 0) 0 4 = kind ∧ bits (a.cause.getD d 0) 8 4 = src

/-- An MR whose SWEEP_CAUSE.SRC is `src` has been performed on `s`, and its boot has ended; `test` is the REASON of a self-test that fails, or 0. -/
def State.mrOf (t s : State) (src test : Nat) : Prop :=
  (∀ d, d < 6 → t.aon.epoch d = nextEpoch (s.aon.epoch d) ∧ t.aon.caused d 1 src) ∧ t.aon.keeps s.aon ∧ t.mod.fresh0 ∧
    t.mod.kState = s.aon.bootState test

/-- The module is up and no JTAG hold stands: an MR can be performed. -/
def State.resettable (s : State) : Prop := s.up = true ∧ s.aon.jtag = false ∧ s.Inv

/-- A core has begun a reset: its processor, Loft and program memory hold zeros, and its pages show SWEEP_BUSY. -/
def Mod.resetting (m : Mod) (c : Nat) : Prop :=
  m.core c = Core.reset ∧ m.coreSweep c = true ∧ (∀ k, k < 0x400000 → SMap.get 0 m.mem (loftKey c + k) = 0) ∧ (∀ p, m.parcel c p = 0)

/-- The module is off: everything of R421 but OTP and flash is lost. -/
def State.off (t s : State) : Prop :=
  t.aon.powered = false ∧ t.mod.mem = [] ∧ t.mod.regs = [] ∧ t.mod.net = [] ∧ t.aon.time = 0 ∧ t.aon.mono = 0 ∧ t.aon.frameNum = 0 ∧
    t.aon.dieEpoch = [1, 1, 1, 1, 1, 1] ∧ t.aon.uds = s.aon.uds ∧ t.aon.flash = s.aon.flash ∧ t.aon.lcFuses = s.aon.lcFuses ∧
    t.aon.rollFuses = s.aon.rollFuses

/-- The clock stretch of a half: the largest of its requests, three on a compute die and the droop's on a Barn, 0 in spine mode, and the requests
above 0 (R458, R461). -/
def Mod.stretched (m : Mod) (die half : Nat) : Prop :=
  let key := halfKey die half
  let r := if die < 4 then [SMap.get 0 m.droop key, SMap.get 0 m.cap key, SMap.get 0 m.therm key] else [SMap.get 0 m.droop key]
  m.pwr die 0x128 (4 * half) 4 = bits (if m.spine die half = true ∧ die < 4 then 0 else r.foldl Nat.max 0) 0 4 ∧
    (∀ i, i < 3 → bits (m.pwr die 0x128 (8 + 4 * half) 3) i 1 = if r.getD i 0 = 0 then 0 else 1)

/-! ### The Keeper -/

/-- GO of the mailbox: an admitted write of KEEPER_MBOX with bit 0 set, the mailbox idle and holding service `code`. -/
def State.asksKeeper (s : State) (a : RegAcc) (code : Nat) : Prop :=
  s.works a 4 keeperPage 0x110 = true ∧ bitOn a.v 0 = true ∧ s.mod.kp 0x110 1 1 = 0 ∧ s.mod.mboxCode = code

/-- The response of a request is in the mailbox and MBOX_DONE is raised. -/
def Mod.replied (m : Mod) (status : Nat) (body : List Nat) : Prop :=
  m.kp 0x800 0 16 = status ∧ m.kp 0x800 16 16 = body.length ∧ m.mboxBytes 8 body.length = body ∧ m.kp 0x110 1 1 = 0 ∧ m.irqSet 4 keeperPage 0

/-- The token that begins the payload in the mailbox verifies for a service (R432). -/
def State.tokened (s : State) (code : Nat) (signers : List Nat) (arg : List Nat → List Nat) : Prop :=
  144 ≤ s.mod.mboxPayload.length ∧ tokenOk s s.mod.mboxPayload code signers (arg s.mod.mboxPayload) = true

/-- The reply to a management or attestation message is the only thing that leaves. -/
def State.says (t s : State) (kind status : Nat) (body : List Nat) : Prop := t.mod.out = s.mod.out ++ [Out.reply kind status body]

/-- The state after a token check, which consumes the challenge (R432). -/
def State.spent (s : State) : State := { s with mod := s.mod.onKeeper (fun k => ({ k with chal := none } : Keeper)) }

/-- A request of the mailbox whose token does not verify: it is refused with AUTH_FAIL and TOKEN_REJECT, and nothing is changed for it. -/
def State.authFails (t s : State) : Prop :=
  t.mod.replied 2 [] ∧ t.mod.errSet 4 keeperPage 8 ∧ t.mod.keeper.chal = none ∧ t.aon = s.aon

/-! ### The commands that are register writes -/

/-- The page is one of a block. -/
def pageOf (b : Block) (die page : Nat) : Bool := (blockAt die page).any (fun x => decide (x.1 = b))

/-- Which register an access must name to be a command of a row, and what else makes it that command: of the die, the page, the offset and
the state. -/
abbrev RegTarget := Nat → Nat → Nat → State → Bool

/-- A register of a block at offsets `lo` to `hi`, with a condition on the bits written. -/
def RegTarget.of (b : Block) (lo hi : Nat) (p : Bool) : RegTarget := fun die page off _ => pageOf b die page && decide (lo ≤ off) && decide (off ≤ hi) && p

/-- The same of a compute die's STEWARD page. -/
def RegTarget.stw (lo hi : Nat) (p : Nat → Bool) : RegTarget := fun die page off s =>
  pageOf .steward die page && decide (die < 4) && decide (lo ≤ off) && decide (off ≤ hi) && p (s.mod.reg die page off)

/-- GO of the mailbox with a service code, or a bit of KEEPER_CTRL that asks for the same. -/
def RegTarget.service (a : RegAcc) (code : Nat) (bit : Option Nat) : RegTarget := fun die page off s =>
  pageOf .keeper die page && decide (die = 4) &&
    ((decide (off = 0x110) && bitOn a.v 0 && decide (s.mod.mboxCode = code)) || (match bit with | some b => decide (off = 0x108) && bitOn a.v b | none => false))

/-- A word of an accumulation descriptor (R358). -/
def RegTarget.acc (i : Nat) (p : Bool) : RegTarget := fun die page off _ =>
  pageOf .granary die page && decide (0x400 ≤ off) && decide (off < 0x800) && decide ((off - 0x400) % 0x40 = 8 * i) && p

/-- A ring's IN register while its EN is `was`. -/
def RegTarget.ring (a : RegAcc) (was : Nat) : RegTarget := fun die page off s =>
  pageOf .hostport die page && decide (0x200 ≤ off) && decide (off < 0x400) && decide (off % 0x20 = 0) && decide (s.mod.fld die page off 63 1 = was) && bitOn a.v 63

/-- The access of each command that is a register write, and the register and bits that the spec's text names for it. -/
def writeCommand : Instr → Option (RegAcc × RegTarget)
  | .registerWrite true a => some (a, fun _ _ _ _ => true)
  | .lock a => some (a, fun _ _ off _ => decide (off = 0x010) && bitOn a.v 2)
  | .freeze a => some (a, fun _ _ off _ => decide (off = 0x010))
  | .irqTest a => some (a, fun _ _ off _ => decide (off = 0x030))
  | .cfgEpochWrite a => some (a, fun _ _ off _ => decide (off = 0x058))
  | .perfClear a => some (a, .of .perf 0x100 0x100 (bitOn a.v 1))
  | .perfSnap a => some (a, .of .perf 0x100 0x100 (bitOn a.v 2))
  | .digestGo a => some (a, .of .digest 0x100 0x100 (bitOn a.v 32))
  | .keeperCfgEpochWrite a => some (a, .of .keeper 0x400 0x400 true)
  | .placeEntWrite a => some (a, .of .place 0x200 0x3FF true)
  | .corePmDataWrite a => some (a, .of .core 0x120 0x120 true)
  | .coreRunStart a => some (a, fun die page off s => RegTarget.of .core 0x100 0x100 (bitOn a.v 0) die page off s && decide (s.mod.fld die page 0x100 0 1 = 0))
  | .coreRunStop a => some (a, fun die page off s => RegTarget.of .core 0x100 0x100 (!bitOn a.v 0) die page off s && decide (s.mod.fld die page 0x100 0 1 = 1))
  | .sheafInc a => some (a, .of .sheaf 0x100 0x100 true)
  | .stookMaskWrite a => some (a, fun die page off _ =>
      pageOf .stook die page && decide (0x100 ≤ off) && decide (off < (if die < 4 then 0x280 else if die = 4 then 0x128 else 0x108)))
  | .watchCapture a => some (a, .of .watch 0x100 0x100 (bitOn a.v 63))
  | .chuteEnable a => some (a, fun die page off _ => decide (off % 0x20 = 0) && bitOn a.v 0 &&
      ((pageOf .chute die page && decide (0x100 ≤ off) && decide (off < 0x200)) || (pageOf .steward die page && decide (0x600 ≤ off) && decide (off < 0x700))))
  | .wainGo a => some (a, .of .wain 0x100 0x100 (bitOn a.v 0))
  | .wainStop a => some (a, .of .wain 0x100 0x100 (bitOn a.v 1))
  | .furrowEnter a => some (a, .of .furrow 0x100 0x100 (bitOn a.v 0))
  | .furrowDrain a => some (a, .of .furrow 0x100 0x100 (bitOn a.v 3))
  | .furrowExit a => some (a, .of .furrow 0x100 0x100 (bitOn a.v 4))
  | .dielinkRetrain a => some (a, .of .dielink 0x100 0x100 (bitOn a.v 0))
  | .lpEnter a => some (a, .of .dielink 0x100 0x100 (bitOn a.v 1))
  | .lpExit none a => some (a, .of .dielink 0x100 0x100 (!bitOn a.v 1))
  | .accEnable a => some (a, .acc 0 (bitOn a.v 0))
  | .accDisable a => some (a, .acc 0 (!bitOn a.v 0))
  | .finalise a => some (a, .acc 3 (bitOn a.v 1))
  | .zero a => some (a, .acc 3 (bitOn a.v 0))
  | .granaryCtrlWrite a => some (a, .of .granary 0x100 0x100 true)
  | .secApply a => some (a, .of .cad 0x110 0x110 (bitOn a.v 1))
  | .load a => some (a, .of .cad 0x110 0x110 (bitOn a.v 2))
  | .frameCfgWrite a => some (a, .of .cad 0x138 0x138 true)
  | .slotEnable a => some (a, .of .cad 0x140 0x140 (a.v != 0))
  | .msixSend a => some (a, .of .hostport 0x110 0x110 true)
  | .bar2AperWrite a => some (a, .of .hostport 0x108 0x108 true)
  | .ringEnable a => some (a, .ring a 0)
  | .ringRewrite a => some (a, .ring a 1)
  | .cr a => some (a, .stw 0x100 0x100 (fun _ => bitOn a.v 8))
  | .pr a => some (a, .stw 0x100 0x100 (fun _ => bitOn a.v 20))
  | .dr a => some (a, fun die page off _ => pageOf .sweep die page && decide (die = 4) && decide (off = 0x118) && bitOn a.v 8)
  | .dozeRequest a => some (a, .stw 0x110 0x110 (fun _ => bitOn a.v 0))
  | .dozeClear a => some (a, .stw 0x110 0x110 (fun _ => !bitOn a.v 0))
  | .pmapWrite a => some (a, .stw 0x200 0x25F (fun _ => true))
  | .retire a => some (a, .stw 0x300 0x31F (fun _ => a.v != 0))
  | .unretire a => some (a, .stw 0x300 0x31F (fun old => old &&& (2 ^ 64 - 1 - a.v.toNat) != 0))
  | .parkRequest a => some (a, .stw 0x320 0x33F (fun _ => a.v != 0))
  | .parkClear a => some (a, .stw 0x320 0x33F (fun old => old &&& (2 ^ 64 - 1 - a.v.toNat) != 0))
  | .stewardWatchdogKick a => some (a, .of .sweep 0x110 0x110 (bitOn a.v 16))
  | .status a => some (a, .service a 0x01 none)
  | .selfTest a => some (a, .service a 0x02 (some 1))
  | .challenge a => some (a, .service a 0x03 none)
  | .random a => some (a, .service a 0x20 none)
  | .enrolCo a => some (a, .service a 0x30 none)
  | .enrolUser a => some (a, .service a 0x31 none)
  | .enrolCert a => some (a, .service a 0x32 none)
  | .update a => some (a, .service a 0x40 none)
  | .lifecycle a => some (a, .service a 0x50 none)
  | .debugUnlock a => some (a, .service a 0x60 none)
  | .zeroise a => some (a, .service a 0x70 (some 0))
  | .recoveryGo a => some (a, .of .keeper 0x120 0x120 (bitOn a.v 63))
  | .pwrOpWrite a => some (a, .of .pwr 0x100 0x100 true)
  | .pwrGrant a => some (a, .of .pwr 0x220 0x23F true)
  | _ => none

/-- The access of each command that is a register read, and the register it names: any; one with RC fields (R22); CORE_PM_DATA (R43). -/
def readCommand : Instr → Option (RegAcc × RegTarget)
  | .registerWrite false a => some (a, fun _ _ _ _ => true)
  | .registerReadClear a => some (a, fun die page off _ => rcMask die page off != 0)
  | .corePmDataRead a => some (a, .of .core 0x120 0x120 true)
  | _ => none

end Sys2Proof.Machine
end

