-- ==== Sys2Proof/Certificates/Slice0/Obligations.lean ====
section
/-! DEFINITION. The statements for the provers. -/

open Sys2Proof Sys2Proof.Machine

/-- A step takes the command at the front of the queue and performs it with the rest of the queue. -/
def Obligations.StepTakesFront : Prop :=
  ∀ (i : Instr) (s : State), step { s with pending := i :: s.pending } = exec i s

/-- With no command waiting one reference cycle passes in a powered module, and nothing else changes (log entry 1: the model's choice). -/
def Obligations.IdleStep : Prop :=
  ∀ s : State, s.pending = [] →
    ∃ t, step s = .next t ∧ t.mod = s.mod ∧ t.pending = [] ∧ (s.aon.powered = false → t = s) ∧
      (s.aon.powered = true → t.aon.now = s.aon.now + 15 ∧ t.aon.dieEpoch = s.aon.dieEpoch ∧ t.aon.flash = s.aon.flash ∧
        t.aon.frameNum = s.aon.frameNum)

/-- Every scalar instruction that changes only its core completes with the value that R48 or R50 gives, and changes nothing but its
destination register and what its retirement changes. -/
def Obligations.ScalarRegisterInstructions : Prop :=
  ∀ (i : Instr) (op : CoreOp) (s : State), scalarEffect i = some op → s.mod.ready op.c op.len false false op.rs = true →
    exec i s = .next (s.sets op.c op.len op.f)

/-- ILL, a reserved ALU3 code and a shift immediate above 63 raise ILLEGAL with the lowest SUB that applies (R47, R50, R86). A misaligned
scalar access raises ALIGNMENT with the address; one of kernel-only Loft at task level raises PRIVILEGE SUB 1 with the lowest such address,
and does so first (R54, R79, R86). A steward has no vector unit: a vector instruction on it raises ILLEGAL with SUB 0 (R73). At issue,
parcels that encode no instruction raise ILLEGAL with SUB 0, and a parcel with an uncorrectable error LOFT_ECC with SUB 3 and its address;
each is entered as any fault (R46, R47, R85, R88). -/
def Obligations.ScalarFaults : Prop :=
  (
    (∀ c d r s, s.mod.ready c 1 false false [] = true → exec (.ill c d r) s = .next (s.traps c 2 0 0)) ∧
    (∀ c d a b fn s, 17 ≤ fn.toNat → s.mod.ready c 2 false false [] = true → exec (.alu3 c d a b fn) s = .next (s.traps c 2 0 0)) ∧
    (∀ (i : Instr) c d a imm s, i = .shli c d a imm ∨ i = .shri c d a imm ∨ i = .sari c d a imm → 64 ≤ imm.toNat →
      s.mod.ready c 2 false false [] = true → exec i s = .next (s.traps c 2 1 0))) ∧
  (
    ∀ (i : Instr) (o : MemOp) (s : State), loadSpec i = some o ∨ storeSpec i = some o → s.mod.ready o.c o.len false false o.rs = true →
      let k := s.mod.at o.c
      let ea := o.ea k
      (k.cs.level = false → ea < 0x400000 → k.kloft < ea + 2 ^ o.size → exec i s = .next (s.traps o.c 3 1 (max ea k.kloft))) ∧
      (k.cs.level = true → ea % 2 ^ o.size ≠ 0 → exec i s = .next (s.traps o.c 4 0 ea))) ∧
  (
    ∀ (i : Instr) (c : Nat) (f : VFields) (s : State), (i = .vadd c f ∨ i = .vand c f ∨ i = .vcvt c f ∨ i = .vcmp c f ∨ i = .vred c f ∨
        i = .vld c f ∨ i = .vst c f ∨ i = .vgath c f ∨ i = .vscat c f ∨ i = .vtrd c f ∨ i = .vawr c f) →
      isStw c = true → s.mod.ready c 3 false false [] = true → exec i s = .next (s.traps c 2 0 0)) ∧
  (
    ∀ c i s, s.mod.ready c (parcelsOf (s.mod.parcelAt c 0)) false false [] = true →
      (s.mod.insnAt c = none → exec (.faultEntry c (some (1, i))) s = exec (.faultEntry c none) (s.traps c 2 0 0)) ∧
      exec (.faultEntry c (some (0, i))) s =
        exec (.faultEntry c none) (s.traps c 6 3 (((s.mod.at c).pc.toNat + i % parcelsOf (s.mod.parcelAt c 0)) % 65536)))

/-- A multiply or divide starts, and its result follows every result before it; the oldest result is then written to PL and PH (R48, R60,
R61); MTPL and MTPH write them when none is in flight. -/
def Obligations.MultiplyDivide : Prop :=
  (∀ i c d r isDiv f s, mulDivEffect i = some (c, d, r, isDiv, f) → s.mod.ready c 1 false false [d.toNat, r.toNat] = true →
    (∀ x ∈ (s.mod.at c).md, x.div = false) →
    exec i s = .next (s.sets c 1 (fun k => { k with md := k.md ++
      [{ val := (f k.phplLast (k.gr d.toNat) (k.gr r.toNat) % 2 ^ 128).toNat, div := isDiv }] }))) ∧
  (∀ c x t s, isCpu c = true → (s.mod.core c).md = x :: t →
    exec (.muldivResult c) s = .next (s.core c (fun k =>
      { k with md := t, pl := BitVec.ofNat 64 (x.val % 2 ^ 64), ph := BitVec.ofNat 64 (x.val / 2 ^ 64) }))) ∧
  (∀ c d r s, s.mod.ready c 1 false false [r.toNat] = true → (s.mod.at c).md = [] →
    exec (.mtpl c d r) s = .next (s.sets c 1 (fun k => { k with pl := k.gr r.toNat })) ∧
    exec (.mtph c d r) s = .next (s.sets c 1 (fun k => { k with ph := k.gr r.toNat })))

/-- A divisor of zero gives PL all ones and PH the dividend, the most negative number divided by -1 gives itself and remainder 0, and the
remainder of DIV takes the sign of the dividend; no division faults (R61). -/
def Obligations.DivisionNeverFaults : Prop :=
  ∀ (i : Instr) (c : Nat) (d r : BitVec 4) (s : State), (i = .div c d r ∨ i = .divu c d r) → s.mod.ready c 1 false false [d.toNat, r.toNat] = true →
    (s.mod.at c).md = [] →
    let a := (s.mod.at c).gr d.toNat
    let b := (s.mod.at c).gr r.toNat
    ∃ (t u : State), exec i s = .next t ∧ exec (.muldivResult c) t = .next u ∧
      (b = 0 → (u.mod.core c).pl = 0xFFFFFFFFFFFFFFFF ∧ (u.mod.core c).ph = a) ∧
      (i = .div c d r → a = 0x8000000000000000 → b = 0xFFFFFFFFFFFFFFFF → (u.mod.core c).pl = 0x8000000000000000 ∧ (u.mod.core c).ph = 0) ∧
      (i = .div c d r → b ≠ 0 → (u.mod.core c).ph.toInt = a.toInt.tmod b.toInt)

/-- A branch reads its condition and target at issue, links, and its delay slot issues next (R48, R50, R64). -/
def Obligations.Branches : Prop :=
  ∀ (i : Instr) (b : BranchOp) (s : State), branchEffect i = some b → s.mod.ready b.c b.len true true b.rs = true →
    exec i s = .next (s.branches b)

/-- LOOP and LOOPI load their level, whether or not it is active; a count of 0 continues at the end of the body with no delay slot and LPCn
0; an end value below 3 is illegal and leaves every loop register (R50, R67). -/
def Obligations.LoopsLoadTheirLevel : Prop :=
  (∀ c n zero a fin s, zero = 0#2 → 3 ≤ fin.toNat → s.mod.ready c 2 true false [a.toNat] = true →
    exec (.loop c n zero a fin) s = .next (
      if (s.mod.at c).gr a.toNat = 0 then
        s.jumps c 2 (fun m k => m.setCore c (k.loopSet n.toNat fin.toNat 0)) ((s.mod.at c).pc + BitVec.ofNat 16 fin.toNat)
      else s.sets c 2 (fun k => k.loopSet n.toNat fin.toNat (k.gr a.toNat)))) ∧
  (∀ c n count fin s, 3 ≤ fin.toNat → s.mod.ready c 2 true false [] = true →
    exec (.loopi c n count fin) s = .next (
      if count.toNat = 0 then
        s.jumps c 2 (fun m k => m.setCore c (k.loopSet n.toNat fin.toNat 0)) ((s.mod.at c).pc + BitVec.ofNat 16 fin.toNat)
      else s.sets c 2 (fun k => k.loopSet n.toNat fin.toNat (BitVec.ofNat 64 count.toNat)))) ∧
  (∀ (i : Instr) c n zero a (fin : BitVec 12) count (fin2 : BitVec 10) sub s,
    ((i = .loop c n zero a fin ∧ fin.toNat < 3 ∧ sub = if zero = 0#2 then 4 else 1) ∨ (i = .loopi c n count fin2 ∧ fin2.toNat < 3 ∧ sub = 4)) →
    s.mod.ready c 2 true false [a.toNat] = true →
    ∃ t, exec i s = .next t ∧ t = s.traps c 2 sub 0 ∧ (t.mod.core c).lps = (s.mod.core c).lps ∧ (t.mod.core c).lpe = (s.mod.core c).lpe ∧
      (t.mod.core c).lpc = (s.mod.core c).lpc)

/-- What retiring an instruction does: the target of the branch whose delay slot it was, or the loop-end check of R68 on the highest active
level that ends here, or the next address; and it leaves registers alone but for those of loads that are due. The frame of every instruction
that `runs`: no other core, no register page but the PERF page of its own core, which may count it (R28), no memory, no request and nothing
of the always-on island changes with the retirement itself. -/
def Obligations.Retirement : Prop :=
  (
    ∀ (k : Core) (seq dflt : PAddr),
      (k.retire seq dflt).branch = none ∧
      (∀ b t, k.branch = some b → b.target = some t → (k.retire seq dflt).pc = t ∧ (k.retire seq dflt).lpc = k.lpc) ∧
      (k.branch = none → k.cs.le = false → (k.retire seq dflt).pc = dflt ∧ (k.retire seq dflt).lpc = k.lpc) ∧
      (∀ n, n < 4 → k.branch = none → k.cs.le = true → (∀ j, n < j → j < 4 → (SMap.get 0 k.lpc j = 0 ∨ SMap.get 0 k.lpe j ≠ seq)) →
        SMap.get 0 k.lpe n = seq → 2 ≤ (SMap.get 0 k.lpc n).toNat →
          (k.retire seq dflt).pc = SMap.get 0 k.lps n ∧ SMap.get 0 (k.retire seq dflt).lpc n = SMap.get 0 k.lpc n - 1) ∧
      (k.branch = none → k.cs.le = true → (∀ j, j < 4 → (SMap.get 0 k.lpc j = 0 ∨ SMap.get 0 k.lpe j ≠ seq)) →
        (k.retire seq dflt).pc = dflt ∧ (k.retire seq dflt).lpc = k.lpc) ∧
      (∀ j, (∀ l ∈ k.loads, l.dest ≠ j) → (k.retire seq dflt).gr j = k.gr j) ∧
      (k.retire seq dflt).p = k.p ∧ (k.retire seq dflt).st = k.st ∧ (k.retire seq dflt).w = k.w ∧
      (k.retire seq dflt).pl = k.pl ∧ (k.retire seq dflt).ph = k.ph ∧ (k.retire seq dflt).bank = k.bank ∧
      (k.retire seq dflt).bank0 = k.bank0 ∧ (k.retire seq dflt).bank1 = k.bank1 ∧ (k.retire seq dflt).bank2 = k.bank2 ∧
      (k.retire seq dflt).tiles = k.tiles ∧ (k.retire seq dflt).acc = k.acc ∧ (k.retire seq dflt).q = k.q ∧
      (k.retire seq dflt).tlb = k.tlb ∧ (k.retire seq dflt).crib = k.crib ∧ (k.retire seq dflt).wcb = k.wcb) ∧
  (
    ∀ (m : Mod) (c : Nat) (seq dflt : PAddr),
      (∀ c', c' ≠ c → (m.ends c seq dflt).core c' = m.core c') ∧ (∀ a, SMap.get 0 (m.ends c seq dflt).mem a = SMap.get 0 m.mem a) ∧
      (m.ends c seq dflt).sameRegs m c ∧ (m.ends c seq dflt).net = m.net ∧ (m.ends c seq dflt).wains = m.wains ∧
      (m.ends c seq dflt).furrows = m.furrows ∧ (m.ends c seq dflt).pm = m.pm ∧ (m.ends c seq dflt).keeper = m.keeper)

/-- A load of the core's own local memory enters flight with its extended value; one that the translation sends away from it and past the
Crib is a read request (R48, R50, R54, R58, R59). A store to the core's own local memory writes its bytes there and no other byte of any
memory (R48, R50, R54). -/
def Obligations.ScalarMemory : Prop :=
  (
    ∀ (i : Instr) (o : MemOp) (s : State), loadSpec i = some o → s.mod.ready o.c o.len false false o.rs = true →
      let m := s.mod.due o.c
      let k := s.mod.at o.c
      let n := 2 ^ o.size
      let ea := o.ea k
      (k.localOk o.c ea n false = true → s.mod.wordsOk (loftKey o.c + ea) n = true →
        exec i s = .next (s.runs o.c o.len (fun m k => { m.scrub (loftKey o.c + ea) n with nextId := m.nextId + 1 }.setCore o.c (o.post k (k.addLoad
          { id := m.nextId, dest := o.d, size := o.size, sx := o.sx, age := 0, ea := ea
            val := some (extend o.size o.sx (rdBytes m.mem (loftKey o.c + ea) n)) }))))) ∧
      (isStw o.c = true → k.cs.level = true → ea % n = 0 → 0x100000000000 ≤ ea → ea < 0x200000000000 →
        k.rtBlocks o.c true (ea - 0x100000000000) n false = false → m.wcbBusy k o.c (ea - 0x100000000000) n = false →
        (isRegSpace (ea - 0x100000000000) = true → m.regOut o.c = false) →
        exec i s = .next (s.runs o.c o.len (fun m k => (m.setCore o.c (o.post k (k.addLoad
          { id := m.nextId, dest := o.d, size := o.size, sx := o.sx, age := 0, ea := ea, val := none }))).asks
            (.load o.c m.nextId) o.c (ea - 0x100000000000) n .read)))) ∧
  (
    ∀ (i : Instr) (o : MemOp) (s : State), storeSpec i = some o → s.mod.ready o.c o.len false false o.rs = true →
      let k := s.mod.at o.c
      let n := 2 ^ o.size
      let ea := o.ea k
      k.localOk o.c ea n true = true → (n = 8 ∨ s.mod.wordsOk (loftKey o.c + ea) n = true) →
        ∃ t, exec i s = .next t ∧
          t = s.runs o.c o.len (fun m k => ((m.setCore o.c (o.post k k)).scrubPart (loftKey o.c + ea) n).wr (loftKey o.c + ea) n ((k.gr o.d).toNat % 2 ^ (8 * n))) ∧
          (∀ j, j < n → (SMap.get 0 t.mod.mem (loftKey o.c + ea + j)).toNat = (k.gr o.d).toNat / 256 ^ j % 256) ∧
          (∀ a, (a < loftKey o.c + ea ∨ loftKey o.c + ea + n ≤ a) → SMap.get 0 t.mod.mem a = SMap.get 0 s.mod.mem a))

/-- The data of a far load reaches its core, poison and access errors with their reports; the acknowledgement of a far store ends it, with
its report (R54, R58, R85, R87, R212). A line of the write-combining buffer leaves as one masked write per touched granule (R207); a fill
that has returned gives its loads their data and allocates its line unless an acquire came between (R206, R208); an owner's range tracker
entries go together (R197). -/
def Obligations.FarTraffic : Prop :=
  (
    (∀ c id r lid v s, isCpu c = true → s.mod.findReq id = some r → r.use = .load c lid → r.answer = some (.data v) →
      exec (.loadDataReturn c id) s = .next (s.upd (fun m => ((m.retireReq id).onCore c (fun k => k.loadBack lid (.data v))).pump c)) ∧
      (∀ l, (s.mod.core c).branch = none → (s.mod.core c).loads = [l] → l.id = lid → l.live = true → l.bad = false → 3 ≤ l.age →
        ∃ t, exec (.loadDataReturn c id) s = .next t ∧ (t.mod.core c).gr l.dest = extend l.size l.sx v ∧ (t.mod.core c).loads = [])) ∧
    (∀ c id r lid s, isCpu c = true → s.mod.findReq id = some r → r.use = .load c lid → r.answer = some .poison →
      ∃ t, exec (.loadDataReturn c id) s = .next t ∧ (t.mod.core c).reports.any (fun x => x.cause == 8 && x.sub == 0) = true) ∧
    (∀ c id r mark x s, isCpu c = true → s.mod.findReq id = some r → r.use = .store c [mark] → mark.vec = none → r.answer = some x →
      ∃ t, exec (.writeAcknowledge c id) s = .next t ∧ t.mod.mem = s.mod.mem ∧ (t.mod.core c).g = (s.mod.core c).g ∧
        (t.mod.core c).reports = (s.mod.core c).reports ++ (match x with
          | .err => [{ cause := 7, sub := mark.sub, addr := mark.ea }]
          | .poison => [{ cause := 8, sub := mark.sub, addr := mark.ea }]
          | _ => []) ∧
        ((s.mod.core c).regQ = [] → t.mod.findReq id = none))) ∧
  (
    (∀ c l s, isCpu c = true → (s.mod.core c).wcb = [l] → bits l.mask 0 64 ≠ 0 →
      ∃ t r, exec (.wcbWriteout c l.line) s = .next t ∧ (t.mod.core c).wcb = [] ∧ r ∈ t.mod.net ∧ r.mpa = l.line * 128 ∧
        r.len = 64 ∧ r.op = .write (bits l.mask 0 64) (bits l.data 0 512) ∧ r.use = .store c l.marks0 ∧
        (bits l.mask 64 64 = 0 → t.mod.net.length = s.mod.net.length + 1)) ∧
    (∀ c a b f x y s, isCpu c = true → (s.mod.core c).fills = [f] →
      s.mod.net = [a, b] → a.id ≠ b.id → a.use = .fill c f.line 0 → b.use = .fill c f.line 1 → a.answer = some (.data x) → b.answer = some (.data y) →
      (s.mod.core c).pieces = [] → (s.mod.core c).regQ = [] →
      ∃ t, exec (.cribFill c f.line) s = .next t ∧ (t.mod.core c).fills = [] ∧ t.mod.net = [] ∧
        (f.alloc = false → (t.mod.core c).crib = (s.mod.core c).crib) ∧
        (f.alloc = true → (s.mod.core c).crib = [] →
          (t.mod.core c).crib = [{ line := f.line, data := patchBytes 128 (x + y * 2 ^ 512) f.mask f.bytes }])) ∧
    (∀ c n e s, isCpu c = true → (s.mod.core c).rt[n]? = some e → s.mod.rtLive c e.owner = false →
      ∃ t, exec (.rangeEntryRelease c n) s = .next t ∧ (t.mod.core c).rt = (s.mod.core c).rt.filter (fun x => x.owner != e.owner) ∧
        (∀ x ∈ (t.mod.core c).crib, x ∈ (s.mod.core c).crib) ∧
        (∀ x ∈ (t.mod.core c).crib, ∀ y ∈ (s.mod.core c).rt, y.owner = e.owner → y.far = true → y.write = true → y.empty = false →
          ¬(y.lo ≤ x.line * 2 + 1 ∧ x.line * 2 ≤ y.hi))))

/-- MFS reads every special register that holds its own value into g[a]; MFS of CS composes MBUSY and the bank (R40, R53). MTS writes them,
reserved bits to zero; at task level a kernel register raises PRIVILEGE, and a number that no chapter assigns raises ILLEGAL SUB 0 (R53,
R86). -/
def Obligations.SpecialRegisters : Prop :=
  (
    ∀ (c : Nat) (f : SysF) (s : State), s.mod.ready c 3 false false [] = true → f.imm.toNat < 1024 →
      let k := s.mod.at c
      (∀ v, srValue k f.imm.toNat = some v → (kernelSr f.imm.toNat = true → k.cs.level = true) →
        exec (.mfs c f) s = .next (s.sets c 3 (fun k => k.setG f.a.toNat (BitVec.ofNat 64 v)))) ∧
      (∀ v, isCore c = true → srValueCore k f.imm.toNat = some v → (kernelSr f.imm.toNat = true → k.cs.level = true) →
        exec (.mfs c f) s = .next (s.sets c 3 (fun k => k.setG f.a.toNat (BitVec.ofNat 64 v)))) ∧
      (f.imm.toNat = 0 →
        exec (.mfs c f) s = .next (s.sets c 3 (fun k => k.setG f.a.toNat (BitVec.ofNat 64
          (b2n k.cs.ie + 2 * b2n k.cs.exl + 4 * b2n k.cs.level + 8 * b2n k.cs.le + 16 * k.bank + 256 * b2n (!k.md.isEmpty)))))) ∧
      (kernelSr f.imm.toNat = true → (srValue k f.imm.toNat).isSome = true → k.cs.level = false →
        exec (.mfs c f) s = .next (s.traps c 3 0 0))) ∧
  (
    ∀ (c : Nat) (f : SysF) (s : State), f.imm.toNat < 1024 →
      let k := s.mod.at c
      let v := (k.gr f.a.toNat).toNat
      (s.mod.ready c 3 false false [f.a.toNat] = true →
        (∀ k', srWrite f.imm.toNat v k = some k' → (kernelSr f.imm.toNat = true → k.cs.level = true) →
          exec (.mts c f) s = .next (s.sets c 3 (fun _ => k'))) ∧
        (∀ k', isCore c = true → srWriteCore f.imm.toNat v k = some k' → (kernelSr f.imm.toNat = true → k.cs.level = true) →
          exec (.mts c f) s = .next (s.sets c 3 (fun _ => k'))) ∧
        (kernelSr f.imm.toNat = true → (srWrite f.imm.toNat v k).isSome = true → k.cs.level = false →
          exec (.mts c f) s = .next (s.traps c 3 0 0))) ∧
      (s.mod.ready c 3 false false [] = true → 0x140 ≤ f.imm.toNat →
        exec (.mts c f) s = .next (s.traps c 2 0 0) ∧ exec (.mfs c f) s = .next (s.traps c 2 0 0)))

/-- An MTS of CS at kernel level takes effect after the two instructions that follow, with the fields of R93; at task level it raises
PRIVILEGE. PMSEG: an MTS stores XP and only sets WL on a steward, and writes CORE_PM_SEG on a core (R42, R44, R72). PMLD at kernel level
into segments that are neither executable nor locked copies parcels from local memory, and no other parcel changes (R43, R44). An MFS of
NOTICE takes the oldest notice, with LOST if any was dropped, or reads 0 from an empty queue (R76). -/
def Obligations.StatusSegmentsAndNotices : Prop :=
  (
    (∀ c f s, s.mod.ready c 3 false false [f.a.toNat] = true → f.imm.toNat < 1024 → (s.mod.at c).cs.level = true →
      exec (.mtsCs c f) s = .next (s.sets c 3 (fun k =>
        { k with csq := k.csq ++ [(csFields (k.gr f.a.toNat).toNat k.bank (isStw c), 3)] }))) ∧
    (∀ c f s, s.mod.ready c 3 false false [f.a.toNat] = true → f.imm.toNat < 1024 → (s.mod.at c).cs.level = false →
      exec (.mtsCs c f) s = .next (s.traps c 3 0 0)) ∧
    (∀ c x q s, isCpu c = true → (s.mod.core c).csq = (x, 0) :: q → (∀ e ∈ q, e.2 ≠ 0) →
      ∃ t, exec (.csWriteCommit c) s = .next t ∧ (t.mod.core c).cs = x ∧ (t.mod.core c).csq = q ∧
        (t.mod.core c).bank = (s.mod.core c).bank ∧ (t.mod.core c).pc = (s.mod.core c).pc ∧ (t.mod.core c).g = (s.mod.core c).g) ∧
    (∀ (k : Core) (seq dflt : PAddr) (x : Cs) (n : Nat), k.csq = [(x, n + 1)] → (k.retire seq dflt).csq = [(x, n)])) ∧
  (
    ∀ c f s, s.mod.ready c 3 false false [f.a.toNat] = true → f.imm.toNat < 1024 → (s.mod.at c).cs.level = true →
      let v := ((s.mod.at c).gr f.a.toNat).toNat
      (isStw c = true → exec (.mtsPmseg c f) s = .next (s.sets c 3 (fun k =>
        { k with seg := v % 65536 + (k.seg / 65536 % 65536 ||| v / 65536 % 65536) * 65536 }))) ∧
      (isCore c = true → exec (.mtsPmseg c f) s = .next (s.runs c 3 (fun m _ =>
        m.commonWrite c (c / 256) (corePage c 0) 0x110 (2 ^ 64 - 1) v)))) ∧
  (
    ∀ c f s, s.mod.ready c 3 true false [f.a.toNat, f.b.toNat, f.c.toNat] = true → f.imm.toNat = 0 →
      let k := s.mod.at c
      let src := (k.gr f.a.toNat).toNat
      let dst := (k.gr f.b.toNat).toNat % 65536
      let n := (k.gr f.c.toNat).toNat
      k.cs.level = true → src % 2 = 0 → src + 2 * n ≤ localTop c → dst + n ≤ 0x10000 →
      (∀ g, g < 16 → dst < g * 0x1000 + 0x1000 → g * 0x1000 < dst + n →
        bits ((s.mod.due c).seg c) g 1 = 0 ∧ bits ((s.mod.due c).seg c) (16 + g) 1 = 0) →
      k.rtBlocks c false src (2 * n) false = false → s.mod.bad = [] →
        ∃ t, exec (.pmld c f) s = .next t ∧
          (∀ j, j < n → t.mod.parcel c (dst + j) = BitVec.ofNat 14 (s.mod.rd (loftKey c + src + 2 * j) 2)) ∧
          (∀ a, a < 65536 → (a < dst ∨ dst + n ≤ a) → t.mod.parcel c a = s.mod.parcel c a) ∧
          (∀ c' a, c' ≠ c → t.mod.parcel c' a = s.mod.parcel c' a) ∧ t.mod.mem = s.mod.mem ∧ (s.mod.ce = [] → t.mod.sameRegs s.mod c)) ∧
  (
    ∀ c f s, isStw c = true → s.mod.ready c 3 false false [] = true → (s.mod.at c).cs.level = true →
      ((s.mod.at c).notices = [] → exec (.noticeRead c f) s = .next (s.sets c 3 (fun k => k.setG f.a.toNat 0))) ∧
      (∀ x t, (s.mod.at c).notices = x :: t → exec (.noticeRead c f) s = .next (s.sets c 3 (fun k =>
        { k.setG f.a.toNat (if k.noticeLost then x ||| BitVec.ofNat 64 (2 ^ 62) else x) with notices := t, noticeLost := false }))))

/-- A pending precise fault enters bank 1 at VEC, or from a bank 1 whose EXL is 1 bank 2 at 0xF000, with EPC, ECS and CS as R84, R88 and R89
say; in bank 2 it halts the core (R90). An interrupt that may be taken enters with cause 0x20 and EPC the next PC (R62, R85, R88, R89). The
oldest report enters at a boundary with its cause, SUB and ADDR, and is gone (R87). ERET returns from the active bank (R91): to the same
bank with CS from ECS and EXL 0, or to the bank that PBANK names; in bank 0 it raises ILLEGAL SUB 5. -/
def Obligations.ExceptionEntryAndReturn : Prop :=
  (
    ∀ c t s, isCpu c = true → (s.mod.core c).trap = some t → (s.mod.core c).undoBranch.settled = true → (s.mod.core c).routine = none →
      (s.mod.core c).reportDue = false →
      let k := (s.mod.core c).commitCs
      ((k.bank = 0 ∨ (k.bank = 1 ∧ k.cs.exl = false)) →
        ∃ u, exec (.faultEntry c none) s = .next u ∧
          (u.mod.core c).hasEntered k 1 k.vec t.epc t.cause t.sub t.addr t.bd t.rs ∧ (u.mod.core c).sameData k) ∧
      (k.bank = 1 → k.cs.exl = true →
        ∃ u, exec (.faultEntry c none) s = .next u ∧
          (u.mod.core c).hasEntered k 2 0xF000 t.epc t.cause t.sub t.addr t.bd t.rs ∧ (u.mod.core c).sameData k) ∧
      (k.bank = 2 → ∃ u, exec (.faultEntry c none) s = .next u ∧ (u.mod.core c).halted = true ∧ (u.mod.core c).running = false)) ∧
  (
    ∀ c s, s.mod.interruptible c = true →
      ∃ u, exec (.interruptEntry c) s = .next u ∧
        (u.mod.core c).hasEntered (s.mod.at c).commitCs 1 (s.mod.at c).vec (s.mod.at c).pc 0x20 0 0 false false) ∧
  (
    ∀ c r q s, isCpu c = true →
      let k := s.mod.at c
      k.running = true → k.reports = r :: q → r.deferred = false → k.hold = none → k.branch = none → k.routine = none →
        k.walk = none → k.settled = true → s.mod.sendTaken c = false → (k.bank = 0 ∨ (k.bank = 1 ∧ k.commitCs.cs.exl = false)) →
      ∃ u, exec (.reportEntry c) s = .next u ∧
        (u.mod.core c).hasEntered k.commitCs 1 k.vec k.pc r.cause r.sub r.addr false false ∧
        (k.loads = [] → k.vloads = [] → (u.mod.core c).reports = q.map (fun x => { x with deferred := true }))) ∧
  (
    (∀ c f s, s.mod.ready c 3 true true [] = true → f.a.toNat = 0 → f.b.toNat = 0 → f.c.toNat = 0 → f.imm.toNat = 0 →
      let k := (s.mod.at c).drain.commitCs
      let b := k.bankOf k.bank
      let e := b.ecs.toNat
      k.bank ≠ 0 → (s.mod.at c).settled = true → k.cs.level = true →
        (e / 2 ^ 12 % 4 = k.bank →
          exec (.eret c f) s = .next (s.jumps c 3 (fun m _ => m.setCore c (k.setBank k.bank { b with cs :=
            { level := isStw c || decide (e / 2 ^ 11 % 2 = 1), ie := decide (e / 2 ^ 10 % 2 = 1) && decide (k.bank ≠ 2)
              le := decide (e / 2 ^ 9 % 2 = 1), exl := false } })) b.epc)) ∧
        (e / 2 ^ 12 % 4 ≠ k.bank → e / 2 ^ 12 % 4 ≠ 3 →
          exec (.eret c f) s = .next (s.jumps c 3 (fun m _ => m.setCore c { k with bank := e / 2 ^ 12 % 4 }) b.epc))) ∧
    (∀ c f s, s.mod.ready c 3 true true [] = true → f.a.toNat = 0 → f.b.toNat = 0 → f.c.toNat = 0 → f.imm.toNat = 0 →
      (s.mod.core c).bank = 0 → exec (.eret c f) s = .next (s.traps c 2 5 0)))

/-- SYSCALL enters gate `n` through its descriptor: the frame of R95 is written below the stack pointer, unused argument registers are
zeroed, and execution continues at the entry with the gate's level. GRET undoes it (R96): g15, the level and the PC come back from the
frame. -/
def Obligations.Gates : Prop :=
  (
    ∀ c f n s, isCore c = true → s.mod.ready c 3 true true [1, 2, 3, 4, 5, 6, 15] = true → f.a.toNat = 0 → f.b.toNat = 0 → f.c.toNat = 0 →
      f.imm.toNat = n → n < 64 →
      let k := (s.mod.at c).commitCs
      let m := s.mod.due c
      let key := loftKey c
      let d0 := m.rd (key + k.gateBase + 16 * n) 8
      let nsp := m.rd (key + k.gateBase + 16 * n + 8) 8
      let argc := d0 / 2 ^ 16 % 8
      let fp := ((if k.cs.level then (k.gr 15).toNat else nsp) + 2 ^ 64 - 16) % 2 ^ 64
      k.kloft ≤ k.gateBase → k.gateBase + 0x400 ≤ 0x400000 → m.bad = [] → d0 / 2 ^ 63 % 2 = 1 → argc ≤ 6 →
      (k.cs.level = true ∨ ∀ j, j < argc → bits (d0 / 2 ^ 19) j 1 = 1 →
        k.argIn (j + 1) (if j < 5 ∧ bits (d0 / 2 ^ 25 % 32) j 1 = 1 then (k.gr (j + 2)).toNat else 1)) →
      fp % 16 = 0 → fp < 0x400000 → k.rtBlocks c false fp 16 true = false →
      k.rtBlocks c false (k.gateBase + 16 * n) 16 false = false →
        ∃ u, exec (.syscall c f) s = .next u ∧ (u.mod.core c).pc = BitVec.ofNat 16 d0 ∧
          (u.mod.core c).cs.level = decide (d0 / 2 ^ 30 % 2 = 1) ∧
          (k.loads = [] → (u.mod.core c).gr 15 = BitVec.ofNat 64 fp ∧
            (∀ j, j < 6 → argc ≤ j → (u.mod.core c).gr (j + 1) = 0) ∧ (∀ j, 1 ≤ j → j ≤ argc → (u.mod.core c).gr j = k.gr j)) ∧
          u.mod.rd (key + fp) 8 = (k.gr 15).toNat ∧
          u.mod.rd (key + fp + 8) 8 = b2n k.cs.level * 65536 + (k.pc.toNat + 3) % 65536 ∧
          (∀ a, (a < key + fp ∨ key + fp + 16 ≤ a) → SMap.get 0 u.mod.mem a = SMap.get 0 s.mod.mem a)) ∧
  (
    ∀ c f s, isCore c = true → s.mod.ready c 3 true true [15] = true → f.a.toNat = 0 → f.b.toNat = 0 → f.c.toNat = 0 →
      f.imm.toNat = 0 →
      let k := (s.mod.at c).commitCs
      let m := s.mod.due c
      let fp := (k.gr 15).toNat
      let r := m.rd (loftKey c + fp + 8) 8
      fp % 16 = 0 → fp < 0x400000 → m.bad = [] → k.rtBlocks c false fp 16 false = false →
      ((k.cs.level = true ∨ r / 65536 % 2 = 0) →
        exec (.gret c f) s = .next (s.jumps c 3 (fun m _ => (m.scrub (loftKey c + fp) 16).setCore c ((k.setG 15 (BitVec.ofNat 64 (m.rd (loftKey c + fp) 8))).setCs
          { k.cs with level := decide (r / 65536 % 2 = 1) })) (BitVec.ofNat 16 r))) ∧
      (k.cs.level = false → r / 65536 % 2 = 1 → exec (.gret c f) s = .next ((s.upd (fun m => m.scrub (loftKey c + fp + 8) 8)).traps c 3 3 0)))

/-- A walk that the die walker takes up reads the context table's entry, and each entry that it has read leads to the next level's or to the
walk's end as R201 says; completing, it fills the TLB with its entry as the most recently used of at most 64, or raises TRANSLATION with
TFINFO (R202, R203). TLBINV removes the entries it selects once the buffer has drained (R204). -/
def Obligations.Translation : Prop :=
  (∀ c w s, isCpu c = true → (s.mod.core c).walk = some w → w.running = false → w.result = none → s.mod.walkServed c = true →
    let a := w.cbase + w.asid * 8
    (0x8000000000 ≤ a → ∃ t, exec (.translationWalk c) s = .next t ∧ t.mod.net = s.mod.net ∧
      (t.mod.core c).walk = some { w with running := true, level := 0, addr := a, result := some (.inr (0, 4)) }) ∧
    (a < 0x8000000000 → ∃ t r, exec (.translationWalk c) s = .next t ∧ t.mod.net = s.mod.net ++ [r] ∧ r.op = .read ∧ r.mpa = a ∧ r.len = 8 ∧
      (t.mod.core c).walk = some { w with running := true, level := 0, addr := a, result := none })) ∧
  (∀ c w r x s, isCpu c = true → (s.mod.core c).walk = some w → w.running = true → w.result = none → s.mod.walkServed c = true →
    s.mod.fetched (walkKey c) w.addr 8 = some r → r.answer = some x →
    (x = .err ∨ x = .poison → ∃ t, exec (.translationWalk c) s = .next t ∧ (t.mod.core c).walk = some { w with result := some (.inr (w.level, 5)) }) ∧
    (∀ e, x = .data e → w.level < 4 →
      (bits e 44 20 ≠ 0 → ∃ t, exec (.translationWalk c) s = .next t ∧ (t.mod.core c).walk = some { w with result := some (.inr (w.level, 3)) }) ∧
      (bits e 44 20 = 0 → bits e 1 11 = 0 → e % 2 = 0 →
        ∃ t, exec (.translationWalk c) s = .next t ∧ (t.mod.core c).walk = some { w with result := some (.inr (w.level, 0)) }) ∧
      (w.level = 0 → bits e 44 20 = 0 → bits e 1 11 = 0 → e % 2 = 1 →
        let a := bits e 12 32 * 4096 + bits w.va 39 9 * 8
        a < 0x8000000000 → ∃ t, exec (.translationWalk c) s = .next t ∧
          (t.mod.core c).walk = some { w with running := true, level := 1, addr := a, result := none }) ∧
      (w.level = 3 → bits e 44 20 = 0 → bits e 5 7 = 0 → bits e 12 9 = 0 → e % 2 = 1 →
        ((w.task = true ∧ bits e 3 1 = 0) → ∃ t, exec (.translationWalk c) s = .next t ∧
          (t.mod.core c).walk = some { w with result := some (.inr (3, 2)) }) ∧
        ((w.task = false ∨ bits e 3 1 = 1) → w.store = true → bits e 2 1 = 0 → ∃ t, exec (.translationWalk c) s = .next t ∧
          (t.mod.core c).walk = some { w with result := some (.inr (3, 1)) }) ∧
        ((w.task = false ∨ bits e 3 1 = 1) → (w.store = false ∨ bits e 2 1 = 1) → ∃ t, exec (.translationWalk c) s = .next t ∧
          (t.mod.core c).walk = some { w with result := some (.inl { asid := w.asid, big := false, vpage := w.va / 2 ^ 21, ppage := bits e 21 23, w := bits e 2 1 == 1, t := bits e 3 1 == 1, nc := bits e 4 1 == 1 }) })))) ∧
  (∀ c w e s, isCpu c = true → (s.mod.core c).walk = some w → w.result = some (.inl e) → w.noFill = false →
    ∃ t, exec (.walkComplete c) s = .next t ∧ (t.mod.core c).walk = none ∧ (t.mod.core c).tlb.head? = some e ∧
      (t.mod.core c).tlb.length ≤ 64 ∧ (t.mod.core c).tlb.tail ⊆ (s.mod.core c).tlb ∧
      (∀ x ∈ (t.mod.core c).tlb.tail, x.asid = e.asid → x.big = e.big → x.vpage ≠ e.vpage)) ∧
  (∀ c w level reason s, isCpu c = true → (s.mod.core c).walk = some w → w.result = some (.inr (level, reason)) →
    ∃ t u, exec (.walkComplete c) s = .next t ∧ (t.mod.core c).walk = none ∧ (t.mod.core c).trap = some u ∧ u.cause = 5 ∧
      u.sub = w.sub ∧ u.addr = w.va ∧ (t.mod.core c).tfinfo = w.asid * 256 + level * 16 + reason ∧ (t.mod.core c).tlb = (s.mod.core c).tlb) ∧
  (∀ c f s, isCore c = true → s.mod.ready c 3 false false [f.a.toNat] = true → f.imm.toNat < 1024 → (s.mod.at c).cs.level = true →
    ((s.mod.due c).drainWcb c).writesOut c = false →
    ∃ t, exec (.tlbinv c f) s = .next t ∧
      (t.mod.core c).tlb = (s.mod.core c).tlb.filter (fun e => !tlbSelected ((s.mod.at c).gr f.a.toNat).toNat e))

/-- A fence whose release has completed and whose earlier loads have returned completes, and its acquire empties the Crib; one whose release
has not is held (R208, R217, R218). IDLE at kernel level stops issue until an interrupt is pending, and has no effect while one is; at task
level it raises PRIVILEGE SUB 5. IDLE_WAKE resumes issue. WDKICK kicks the core's watchdog (R416, R423). A requested stop takes effect at a
boundary (R71). -/
def Obligations.FencesAndCoreControl : Prop :=
  (
    ∀ (i : Instr) (c scope kind : Nat) (s : State), fenceSpec i = some (c, scope, kind) → s.mod.ready c 3 false false [] = true →
      let m := if kind = 2 then s.mod.due c else (s.mod.due c).releasing c scope
      let k := m.core c
      (k.loadsBack = true → (kind = 2 ∨ scope = 0 ∨ (k.wcb = [] ∧ m.writesOut c = false)) →
        exec i s = .next (s.upd (fun _ => (m.setCore c (if kind = 1 then { k with hold := none } else k.woken scope)).ends c
          ((s.mod.at c).pc + 3) ((s.mod.at c).pc + 3)))) ∧
      (kind ≠ 2 → scope ≠ 0 → m.writesOut c = true →
        ∃ t h, exec i s = .next t ∧ (t.mod.core c).hold = some h ∧ h.kind = .fence ∧ (t.mod.core c).pc = (s.mod.at c).pc)) ∧
  (
    (∀ c f s, s.mod.ready c 3 false false [] = true → f.a.toNat = 0 → f.b.toNat = 0 → f.c.toNat = 0 → f.imm.toNat = 0 →
      (s.mod.at c).settled = true →
      ((s.mod.at c).cs.level = true → exec (.idle c f) s = .next (s.runs c 3 (fun m k => m.setCore c
        { k.drain with idle := decide ((s.mod.due c).pendingIrq c = 0) }))) ∧
      ((s.mod.at c).cs.level = false → exec (.idle c f) s = .next (s.traps c 3 5 0))) ∧
    (∀ c s, isCpu c = true → (s.mod.core c).idle = true → s.mod.pendingIrq c ≠ 0 →
      exec (.idleWake c) s = .next (s.core c (fun k => { k with idle := false }))) ∧
    (∀ c f s, isCore c = true → s.mod.ready c 3 false false [f.a.toNat] = true → f.imm.toNat < 1024 → (s.mod.at c).cs.level = true →
      exec (.wdkick c f) s = .next (s.runs c 3 (fun m _ => m.kick c))) ∧
    (∀ c s, isCore c = true → (s.mod.core c).running = true → (s.mod.core c).stopReq = true → (s.mod.core c).restart = false →
      (s.mod.core c).trap = none → (s.mod.core c).hold = none → (s.mod.at c).quietBoundary = true → s.mod.sendTaken c = false →
      ∃ t, exec (.coreStop c) s = .next t ∧ (t.mod.core c).running = false ∧ (t.mod.core c).stopReq = false ∧
        (t.mod.core c).pc = (s.mod.core c).pc ∧ (t.mod.core c).g = (s.mod.core c).g ∧ t.mod.regs = s.mod.regs))

/-- SIG, its release done, sends its increment to a counter whose owner admits it and is held; the increment saturates at 2^64 - 1 and
completes it (R229, R231, R233). A WAIT whose counter has reached its target completes with the value in g[c]; below the target it is held,
and completes when the target is reached (R231, R234, R235). ARRIVE sends its arrival and is held; the arrival sets its flag, and the one
that completes a die line toggles the line's generation and clears every flag; WAITG completes once the generation differs (R240 to R244).
-/
def Obligations.CountersAndStooks : Prop :=
  (
    (∀ c f x s, sigForm c f false = true → s.mod.ready c 3 false false (sigReads f) = true →
      let k := s.mod.at c
      let m := (s.mod.due c).releasing c (f.imm.toNat / 2 ^ 17 % 4)
      sigTarget c f k = some x → m.releaseDone c (f.imm.toNat / 2 ^ 17 % 4) = true → m.incAllowed x (reqCode c) = true →
      m.cntGone x = false → m.routeCut (dieOf c) x.die x.mpa = false →
      ∃ t y h, exec (.sig c f) s = .next t ∧ t.mod.incs = s.mod.incs ++ [y] ∧ cntOf y.ref = some x ∧
        y.amount = (k.gr f.a.toNat).toNat ∧ y.sig = some c ∧ y.die = dieOf c ∧ y.cut = false ∧ (t.mod.core c).hold = some h ∧ h.kind = .sig ∧ h.sent = true ∧
        (t.mod.core c).pc = k.pc) ∧
    (∀ j x n s, s.mod.incs[j]? = some x → cntOf x.ref = some n → x.path.arrived = true → x.path.flit = .clean → x.sig = none → x.wain = none →
      s.mod.cntGone n = false →
      (x.cut = false → ∃ t, exec (.counterIncrement j) s = .next t ∧ t.mod.incs = s.mod.incs.eraseIdx j ∧
        t.mod.cntVal n = min (s.mod.cntVal n + x.amount) (2 ^ 64 - 1) ∧ (∀ a, SMap.get 0 t.mod.mem a = SMap.get 0 s.mod.mem a)) ∧
      (x.cut = true → ∃ t, exec (.counterIncrement j) s = .next t ∧ t.mod.incs = s.mod.incs.eraseIdx j ∧ t.mod.cntVal n = s.mod.cntVal n)) ∧
    (∀ j x n c h s, s.mod.incs[j]? = some x → cntOf x.ref = some n → x.path.arrived = true → x.path.flit = .clean → x.cut = false → x.sig = some c →
      s.mod.cntGone n = false → (s.mod.core c).hold = some h → h.kind = .sig → h.sent = true →
      ∃ t, exec (.counterIncrement j) s = .next t ∧ (t.mod.core c).hold = none ∧
        t.mod.cntVal n = min (s.mod.cntVal n + x.amount) (2 ^ 64 - 1))) ∧
  (
    (∀ c f x s, sigForm c f true = true → s.mod.ready c 3 false false (sigReads f) = true →
      let k := s.mod.at c
      let m := s.mod.due c
      sigTarget c f k = some x → m.waitAllowed x c = true → m.routeCut (dieOf c) x.die x.mpa = false → k.loadsBack = true →
      ((k.gr f.a.toNat).toNat ≤ m.cntVal x →
        exec (.wait c f) s = .next (s.sets c 3 (fun k =>
          if f.imm.toNat / 2 ^ 15 % 2 = 1 then (k.woken (f.imm.toNat / 2 ^ 17 % 4)).setG f.c.toNat (BitVec.ofNat 64 (m.cntVal x))
          else k.woken (f.imm.toNat / 2 ^ 17 % 4)))) ∧
      (m.cntVal x < (k.gr f.a.toNat).toNat →
        ∃ t h, exec (.wait c f) s = .next t ∧ (t.mod.core c).hold = some h ∧ h.kind = .wait ∧ h.target = (k.gr f.a.toNat).toNat ∧
          cntOf h.obj = some x ∧ (t.mod.core c).pc = k.pc)) ∧
    (∀ c h x s, isCpu c = true → (s.mod.core c).hold = some h → h.kind = .wait → h.sent = true → cntOf h.obj = some x → s.mod.waitAllowed x c = true →
      s.mod.routeCut (dieOf c) x.die x.mpa = false → h.target ≤ s.mod.cntVal x → (s.mod.core c).loadsBack = true →
      ∃ t, exec (.waitComplete c) s = .next t ∧ (t.mod.core c).hold = none ∧
        (∀ d, h.dest = some d → (s.mod.core c).loads = [] → (t.mod.core c).gr d = BitVec.ofNat 64 (s.mod.cntVal x)))) ∧
  (
    (∀ c f s, stookForm f false = true → s.mod.ready c 3 false false [] = true → (s.mod.due c).stookDenied c (stookNum f) = false →
      ∃ t h, exec (.stookArrive c f) s = .next t ∧ t.mod.arrivals = s.mod.arrivals ++ [{ c := c, line := stookNum f }] ∧
        (t.mod.core c).hold = some h ∧ h.kind = .arrive ∧ h.dest = some f.c.toNat ∧ (t.mod.core c).pc = (s.mod.at c).pc) ∧
    (∀ j c line h s, s.mod.arrivals[j]? = some { c := c, line := line } → isCore c = true → line < 8 → (s.mod.core c).hold = some h →
      h.kind = .arrive →
      let d := c / 256
      let mask := s.mod.stookMask d line
      bits mask (c % 256) 1 = 1 → bits (s.mod.stookFlags d line) (c % 256) 1 = 0 →
      ∃ t, exec (.stookArrival j) s = .next t ∧ t.mod.arrivals = s.mod.arrivals.eraseIdx j ∧ (t.mod.core c).hold = none ∧
        (if s.mod.stookActive d mask &&& (s.mod.stookFlags d line + 2 ^ (c % 256)) = s.mod.stookActive d mask
          then t.mod.stookGen d line = 1 - s.mod.stookGen d line ∧ t.mod.stookFlags d line = 0
          else t.mod.stookGen d line = s.mod.stookGen d line ∧ t.mod.stookFlags d line = s.mod.stookFlags d line + 2 ^ (c % 256))) ∧
    (∀ c f s, stookForm f true = true → s.mod.ready c 3 false false [f.a.toNat] = true →
      (s.mod.due c).stookDenied c (stookNum f) = false →
      let g := ((s.mod.at c).gr f.a.toNat).toNat % 2
      ((s.mod.due c).stookGen (dieOf c) (stookNum f) ≠ g → exec (.stookWaitg c f) s = .next (s.sets c 3 (fun k => { k with hold := none }))) ∧
      ((s.mod.due c).stookGen (dieOf c) (stookNum f) = g →
        ∃ t h, exec (.stookWaitg c f) s = .next t ∧ (t.mod.core c).hold = some h ∧ h.kind = .waitg ∧ h.obj = stookNum f ∧ h.target = g ∧
          (t.mod.core c).pc = (s.mod.at c).pc)) ∧
    (∀ c h s, isCpu c = true → (s.mod.core c).hold = some h → h.kind = .waitg → s.mod.stookGen (dieOf c) h.obj ≠ h.target →
      ∃ t, exec (.stookWaitgComplete c) s = .next t ∧ (t.mod.core c).hold = none ∧ (t.mod.core c).branch = none ∧ t.mod.sameRegs s.mod c))

/-- A group of a die found quiet sets its HELD bit and interrupt, and captures the time when no group was held; one that has worked since
the watch last looked is only seen to have; a module group of BW does the same there when every die's group is still (R245, R246, R249).
SHEAF_INC adds to a counter whose owner admits the requester, and refuses another; writing a stook mask drops the flags of those it
excludes; WATCH_CTRL.CAPTURE takes every core's snapshot and the time; enabling a chute checks its ring and empties it (R231, R236, R244,
R248, R251). -/
def Obligations.SynchronisationRegisters : Prop :=
  (
    (∀ die g s, die < 4 → s.mod.dr.contains die = false → s.mod.enabled die 2314 = true → g < 16 → s.mod.groupQuiet die g = true →
      bits (s.mod.reg die 2314 0x108) g 1 = 0 →
      (s.mod.groupStirred die g = true → exec (.stallDetected die g) s = .next (s.upd (fun m => m.groupSeen die g))) ∧
      (s.mod.groupStirred die g = false → ∃ t, exec (.stallDetected die g) s = .next t ∧ bits (t.mod.reg die 2314 0x108) g 1 = 1 ∧ t.mod.reg die 2314 0x020 % 2 = 1 ∧
        (s.mod.reg die 2314 0x108 % 65536 = 0 → t.mod.reg die 2314 0x118 = s.aon.time / 2 ^ 32 % 2 ^ 64) ∧
        (s.mod.reg die 2314 0x108 % 65536 ≠ 0 → t.mod.reg die 2314 0x118 = s.mod.reg die 2314 0x118))) ∧
    (∀ g s, s.mod.enabled 4 2074 = true → g < 16 → s.mod.moduleGroups g ≠ [] →
      (∀ x ∈ s.mod.moduleGroups g, s.mod.linkBusy x.1 = false ∧ s.mod.groupStirred x.1 x.2 = false ∧
        ∀ c ∈ coresOf x.1, s.mod.watchGroup c = x.2 → s.mod.enginesBusy c = false ∧ (s.mod.watchExcluded c = false → s.mod.coreBlocked c = true)) →
      bits (s.mod.reg 4 2074 0x108) g 1 = 0 →
      ∃ t, exec (.stallDetected 4 g) s = .next t ∧ bits (t.mod.reg 4 2074 0x108) g 1 = 1 ∧ t.mod.reg 4 2074 0x020 / 2 % 2 = 1)) ∧
  (
    (∀ a die page x s, (∃ n, blockAt die page = some (.sheaf, n)) → s.works a die page 0x100 = true → sheafIncRef die page a.v.toNat = some x →
      (s.mod.incAllowed x a.q = true → s.mod.cntGone x = false →
        ∃ t, exec (.sheafInc a) s = .next t ∧ t.mod.cntVal x = min (s.mod.cntVal x + bits a.v.toNat 0 32) (2 ^ 64 - 1)) ∧
      (s.mod.incAllowed x a.q = false →
        ∃ t, exec (.sheafInc a) s = .next t ∧ t.mod.cntVal x = s.mod.cntVal x ∧ t.mod.errSet x.die x.page 9)) ∧
    (∀ a die w line s, die < 4 → line < 12 → w < 4 → s.works a die (stookPage die) (0x100 + line * 0x20 + w * 8) = true →
      ∃ t, exec (.stookMaskWrite a) s = .next t ∧ t.mod.mem = s.mod.mem ∧
        t.mod.reg die (stookPage die) (0x100 + line * 0x20 + w * 8) = a.v.toNat &&& (if w = 3 then 2 ^ 63 else 0x0FFF0FFF0FFF0FFF)) ∧
    (∀ a die s, die < 6 → s.works a die (watchPage die) 0x100 = true → bitOn a.v 63 = true →
      ∃ t, exec (.watchCapture a) s = .next t ∧ t.mod.reg die (watchPage die) 0x118 = s.aon.time / 2 ^ 32 % 2 ^ 64 ∧
        (∀ c, isCore c = true → c / 256 = die → s.mod.watchExcluded c = false → s.mod.coreBlocked c = false → bits a.v.toNat 0 16 = 0xFFFF →
          s.mod.fld die (watchPage die) 0x100 0 16 = 0xFFFF →
          t.mod.reg die 2314 (0x400 + (c % 256 / 16 * 12 + c % 16) * 16) / 2 ^ 60 = 0)) ∧
    (∀ a c ch s, isCore c = true → ch < 8 → s.works a (c / 256) (corePage c 5) (0x100 + ch * 0x20) = true → bitOn a.v 0 = true →
      s.mod.chuteReg c ch 0 % 2 = 0 →
      let size := if 4 ≤ bits a.v.toNat 8 5 ∧ bits a.v.toNat 8 5 ≤ 16 then bits a.v.toNat 8 5 else 4
      let base := bits a.v.toNat 24 14 * 256
      (base + 16 * 2 ^ size ≤ 0x400000 → ∃ t, exec (.chuteEnable a) s = .next t ∧ t.mod.chuteReg c ch 0 % 2 = 1 ∧ t.mod.chuteSize c ch = 2 ^ size ∧
        t.mod.chuteReg c ch 1 = 0 ∧ t.mod.chuteReg c ch 2 = 0 ∧ t.mod.chuteReg c ch 3 = 0) ∧
      (0x400000 < base + 16 * 2 ^ size → ∃ t, exec (.chuteEnable a) s = .next t ∧ t.mod.chuteReg c ch 0 % 2 = 0 ∧
        t.mod.errSet (c / 256) (corePage c 5) 9)))

/-- SEND and TRYSEND, their release done, present their words to the destination and are held (R257). A chute takes a permitted request:
with room its words enter the ring at TAIL, the header replaced, and TAIL advances; with none it answers full and a SEND reserves the ring;
one that it refuses sets DENIED and is answered so (R252 to R255, R259). -/
def Obligations.ChuteRequests : Prop :=
  (
    ∀ (i : Instr) (c : Nat) (f : SysF) (try_ : Bool) (s : State), sendSpec i = some (c, f, try_) →
      s.mod.ready c 3 false false [f.a.toNat, f.b.toNat] = true →
      let k := s.mod.at c
      let m := (s.mod.due c).drainWcb c
      let a := (k.gr f.a.toNat).toNat
      let n := f.imm.toNat % 8 + 1
      let dest := (k.gr f.b.toNat).toNat
      a % 16 = 0 → a + 16 * n ≤ localTop c → (k.cs.level = true ∨ a + 16 * n ≤ k.kloft) → m.bad = [] →
      m.releaseDone c 1 = true → (m.core c).rtBlocks c false a (16 * n) false = false → (destOf dest).isSome = true →
      m.chuteCut (dieOf c) dest = false →
      ∃ t r h, exec i s = .next t ∧ t.mod.chuteReqs = s.mod.chuteReqs ++ [r] ∧ r.q = reqCode c ∧ r.core = some c ∧ r.wain = none ∧
        r.dest = dest ∧ r.try_ = try_ ∧ r.resp = none ∧ r.tag = m.tagOf (reqCode c) ∧ r.words.length = n ∧
        (∀ j, j < n → r.words[j]? = some (s.mod.rd (loftKey c + a + 16 * j) 16)) ∧
        (t.mod.core c).hold = some h ∧ h.sent = true ∧ h.dest = (if try_ then some f.c.toNat else none) ∧ (t.mod.core c).pc = k.pc) ∧
  (
    (∀ c ch r w ws s, isCpu c = true → ch < 8 → s.mod.chuteReqs = [r] → r.resp = none → r.core.isSome = true → destOf r.dest = some (c, ch) →
      r.path.arrived = true → r.path.flit = .clean → destBad r.dest = false →
      s.mod.chuteRefuses c ch r.q r.tag = false → SMap.get 0 s.mod.rsv (c * 8 + ch) = 0 → r.words = w :: ws →
      let m := s.mod
      let size := m.chuteSize c ch
      let tail := m.chuteReg c ch 3
      let n := r.words.length
      (tail % size + n ≤ size → n ≤ m.chuteFree c ch →
        ∃ t, exec (.chuteRequest c ch) s = .next t ∧ t.mod.chuteReqs = [{ r with resp := some 1, path := r.path.retrace }] ∧
          t.mod.chuteReg c ch 3 = (tail + n) % 2 ^ 32 ∧ t.mod.chuteReg c ch 1 = m.chuteReg c ch 1 ∧
          t.mod.rd (loftKey c + m.chuteWord c ch tail) 16 = headerWord w r.q n % 2 ^ 128 ∧
          (∀ a, (a < loftKey c + m.chuteWord c ch tail ∨ loftKey c + m.chuteWord c ch tail + 16 * n ≤ a) →
            SMap.get 0 t.mod.mem a = SMap.get 0 m.mem a)) ∧
      (m.chuteFree c ch < n →
        ∃ t, exec (.chuteRequest c ch) s = .next t ∧ t.mod.chuteReqs = [{ r with resp := some 0, path := r.path.retrace }] ∧ t.mod.mem = m.mem ∧
          (r.try_ = false → SMap.get 0 t.mod.rsv (c * 8 + ch) = holderCode r.q r.wain) ∧
          (r.try_ = true → SMap.get 0 t.mod.rsv (c * 8 + ch) = 0))) ∧
    (∀ c ch r s, isCpu c = true → ch < 8 → s.mod.chuteReqs = [r] → r.resp = none → r.core.isSome = true → destOf r.dest = some (c, ch) →
      r.path.arrived = true → r.path.flit = .clean → (destBad r.dest = true ∨ s.mod.chuteRefuses c ch r.q r.tag = true) →
      ∃ t, exec (.chuteRequest c ch) s = .next t ∧ t.mod.chuteReqs = [{ r with resp := some 2, path := r.path.retrace }] ∧ t.mod.mem = s.mod.mem ∧
        bits (t.mod.reg (chuteAt c ch).1 (chuteAt c ch).2.1 0x038) 8 1 = 1) ∧
    (∀ c ch s, isCpu c = true → ch < 8 →
      ∃ t, exec (.reservationTimeout c ch) s = .next t ∧ SMap.get 0 t.mod.rsv (c * 8 + ch) = 0 ∧
        (∀ j, j ≠ c * 8 + ch → SMap.get 0 t.mod.rsv j = SMap.get 0 s.mod.rsv j)))

/-- The response completes an accepted SEND and any TRYSEND, which takes it in g[c]; a full ring leaves a SEND to present its request again
(R258, R259). RECV frees the message taken last and takes the next that is not a pad into g[c], with its length and address; RECV is held
while there is none, RECV.TRY then gives 0; RECV.FREE only frees (R260). -/
def Obligations.ChuteResponses : Prop :=
  (
    ∀ c r h s, isCpu c = true → s.mod.chuteReqs = [r] → r.core = some c → (s.mod.core c).hold = some h →
      r.path.arrived = true → r.path.flit = .clean →
      (r.try_ = false → r.resp = some 1 →
        ∃ t, exec (.chuteResponse c) s = .next t ∧ t.mod.chuteReqs = [] ∧ (t.mod.core c).hold = none ∧
          ((s.mod.core c).loads = [] → (s.mod.core c).vloads = [] → (t.mod.core c).reports = (s.mod.core c).reports)) ∧
      (∀ v d, r.try_ = true → r.resp = some v → v < 4 → h.dest = some d → (s.mod.core c).loads = [] →
        ∃ t, exec (.chuteResponse c) s = .next t ∧ t.mod.chuteReqs = [] ∧ (t.mod.core c).hold = none ∧
          (t.mod.core c).gr d = BitVec.ofNat 64 v) ∧
      (r.try_ = false → r.resp = some 0 →
        exec (.chuteResponse c) s = .next (s.upd (fun m => { m with chuteReqs := [{ r with resp := some 9 }] }))) ∧
      (r.resp = some 9 → (destOf r.dest).isSome = true → s.mod.chuteCut (dieOf c) r.dest = false →
        ∃ t y, exec (.sendRetry c) s = .next t ∧ t.mod.chuteReqs = [y] ∧ y.resp = none ∧ y.q = r.q ∧ y.core = r.core ∧ y.wain = r.wain ∧
          y.dest = r.dest ∧ y.words = r.words ∧ y.try_ = r.try_ ∧ t.mod.mem = s.mod.mem ∧ t.mod.regs = s.mod.regs)) ∧
  (
    (∀ (i : Instr) (c : Nat) (f : SysF) (try_ : Bool) (s : State), recvSpec i = some (c, f, try_) →
      s.mod.ready c 3 false false [] = true →
      let m := s.mod.due c
      let k := s.mod.at c
      let ch := f.imm.toNat % 8
      let take := m.chuteReg c ch 2
      bits (m.chuteReg c ch 0) 0 1 = 1 →
      (take ≠ m.chuteReg c ch 3 → bits (m.rd (loftKey c + m.chuteWord c ch take) 16) 7 1 = 0 → k.loadsBack = true → k.loads = [] →
        ∃ t, exec i s = .next t ∧ t.mod.chuteReg c ch 1 = take % 2 ^ 32 ∧ t.mod.chuteReg c ch 2 = (take + m.chuteStep c ch take) % 2 ^ 32 ∧
          (t.mod.core c).gr f.c.toNat = BitVec.ofNat 64 (m.chuteStep c ch take * 2 ^ 48 + m.chuteWord c ch take) ∧
          (t.mod.core c).crib = [] ∧ t.mod.mem = s.mod.mem) ∧
      (take = m.chuteReg c ch 3 → try_ = true → k.loads = [] →
        ∃ t, exec i s = .next t ∧ (t.mod.core c).gr f.c.toNat = 0 ∧ t.mod.chuteReg c ch 1 = take % 2 ^ 32) ∧
      (take = m.chuteReg c ch 3 → try_ = false →
        ∃ t h, exec i s = .next t ∧ (t.mod.core c).hold = some h ∧ h.kind = .recv ∧ h.obj = ch ∧ h.dest = some f.c.toNat ∧
          (t.mod.core c).pc = k.pc)) ∧
    (∀ c f s, s.mod.ready c 3 false false [] = true → f.a.toNat = 0 → f.b.toNat = 0 → f.c.toNat = 0 → f.imm.toNat < 8 →
      ∃ t, exec (.recvFree c f) s = .next t ∧ t.mod.chuteReg c f.imm.toNat 1 = (s.mod.due c).chuteReg c f.imm.toNat 2 % 2 ^ 32 ∧
        t.mod.chuteReg c f.imm.toNat 2 = (s.mod.due c).chuteReg c f.imm.toNat 2 ∧ t.mod.mem = s.mod.mem) ∧
    (∀ c h d s, isCpu c = true → (s.mod.core c).hold = some h → h.kind = .recv → h.dest = some d → h.obj < 8 →
      bits (s.mod.chuteReg c h.obj 0) 0 1 = 1 → s.mod.chuteReg c h.obj 2 ≠ s.mod.chuteReg c h.obj 3 →
      bits (s.mod.rd (loftKey c + s.mod.chuteWord c h.obj (s.mod.chuteReg c h.obj 2)) 16) 7 1 = 0 → (s.mod.core c).loads = [] →
      (s.mod.core c).loadsBack = true →
      ∃ t, exec (.recvComplete c) s = .next t ∧ (t.mod.core c).hold = none ∧
        (t.mod.core c).gr d = BitVec.ofNat 64 (s.mod.chuteStep c h.obj (s.mod.chuteReg c h.obj 2) * 2 ^ 48 +
          s.mod.chuteWord c h.obj (s.mod.chuteReg c h.obj 2))))

/-- Every elementwise vector instruction of a core gives each element of an active lane the result of R107 to R109, and leaves or zeroes the
inactive lanes (R104). -/
def Obligations.VectorElementOperations : Prop :=
  ∀ (i : Instr) (c : Nat) (f : VFields) (fm : VForm) (op : Nat → Nat → Nat → Nat → Nat) (s : State),
    elemSpec i = some (c, f, fm, op) → fm.fits f = true → isCore c = true → s.mod.ready c 3 false false [] = true →
    (s.mod.at c).vhazard (fm.reads f) = false →
    exec i s = .next (s.vecs c (fun k => k.setVp f (fun l =>
      (List.range (perLane f.ty.toNat)).foldl (fun v j =>
        v + op f.ty.toNat (k.elem f.va.toNat (eWidth f.ty.toNat) (perLane f.ty.toNat * l + j))
            (k.elem f.vb.toNat (eWidth f.ty.toNat) (perLane f.ty.toNat * l + j))
            (k.elem (f.aux.toNat % 32) (eWidth f.ty.toNat) (perLane f.ty.toNat * l + j)) % 2 ^ eWidth f.ty.toNat *
          2 ^ (eWidth f.ty.toNat * j)) 0)))

/-- Every other vector instruction that changes only its core has the effect that R104 to R110 give it. What a predicated write leaves in a
vector register (R104): an active lane its new value, an inactive one its old value, or zero when Z is 1; and every other register is
unchanged. -/
def Obligations.VectorRegisterOperations : Prop :=
  (
    ∀ (i : Instr) (o : VecOp) (s : State), vectorSpec i = some o → o.fm.fits o.f = true → o.ok = true → isCore o.c = true →
      s.mod.ready o.c 3 false false o.rs = true → (s.mod.at o.c).vhazard (o.fm.reads o.f) = false → exec i s = .next (s.vecs o.c o.g)) ∧
  (
    ∀ (k : Core) (f : VFields) (g : Nat → Nat) (l : Nat), l < 64 →
      (k.on f l = true → (k.setVp f g).elem f.vd.toNat 32 l = g l % 2 ^ 32) ∧
      (k.on f l = false → f.z.toNat = 0 → (k.setVp f g).elem f.vd.toNat 32 l = k.elem f.vd.toNat 32 l) ∧
      (k.on f l = false → f.z.toNat = 1 → (k.setVp f g).elem f.vd.toNat 32 l = 0) ∧
      (∀ r, r ≠ f.vd.toNat → SMap.get 0 (k.setVp f g).v r = SMap.get 0 k.v r) ∧
      (k.setVp f g).g = k.g ∧ (k.setVp f g).q = k.q ∧ (k.setVp f g).pc = k.pc)

/-- A vector load of the core's own Loft enters flight with each active lane's word, and a vector store writes each active lane's word and
no other byte; the pointer is modified as asked (R111 to R115). -/
def Obligations.VectorMemory : Prop :=
  ∀ (i : Instr) (o : VecMem) (s : State), vecMemSpec i = some o → o.fm.fits o.f = true → isCore o.c = true →
    s.mod.ready o.c 3 false false o.rs = true →
    let k := s.mod.at o.c
    s.mod.bad = [] → k.vhazard o.vs = false →
    (∀ l, l < 64 → k.on o.f l = true → o.ea k l % 4 = 0 ∧ o.ea k l < 0x400000 ∧
      (k.cs.level = true ∨ o.ea k l + 4 ≤ k.kloft) ∧ k.rtBlocks o.c false (o.ea k l) 4 o.store = false) →
    (o.store = false → ∃ t x, exec i s = .next t ∧ x ∈ (t.mod.core o.c).vloads ∧ x.dest = o.f.vd.toNat ∧ x.rep = none ∧ x.age = 1 ∧
      (∀ l, l < 64 → k.on o.f l = true → x.data.toNat / 2 ^ (32 * l) % 2 ^ 32 = s.mod.rd (loftKey o.c + o.ea k l) 4) ∧
      (∀ l, l < 64 → x.mask.getLsbD l = (k.on o.f l || decide (o.f.z.toNat = 1))) ∧ t.mod.mem = s.mod.mem ∧
      (k.loads = [] → ∀ r, (t.mod.core o.c).gr r = k.gr r) ∧
      (t.mod.core o.c).p = (if o.f.va.toNat / 16 = 1 then SMap.put 0 k.p (o.f.va.toNat % 8)
        (k.modify (o.f.va.toNat % 8) (k.sr (o.f.va.toNat % 8)).toInt) else k.p)) ∧
    (o.store = true → ∃ t, exec i s = .next t ∧
      (∀ l, l < 64 → k.on o.f l = true →
        (∀ l', l < l' → l' < 64 → k.on o.f l' = true → o.ea k l' ≠ o.ea k l) →
          t.mod.rd (loftKey o.c + o.ea k l) 4 = k.elem o.f.vd.toNat 32 l) ∧
      (∀ a, (∀ l, l < 64 → k.on o.f l = true → a < loftKey o.c + o.ea k l ∨ loftKey o.c + o.ea k l + 4 ≤ a) →
        SMap.get 0 t.mod.mem a = SMap.get 0 s.mod.mem a) ∧
      (k.vloads = [] → (t.mod.core o.c).v = k.v) ∧
      (t.mod.core o.c).p = (if o.f.va.toNat / 16 = 1 then SMap.put 0 k.p (o.f.va.toNat % 8)
        (k.modify (o.f.va.toNat % 8) (k.sr (o.f.va.toNat % 8)).toInt) else k.p))

/-- VTRD and VARD read a pair of storage rows or a row of an accumulator, VTWR and VAWR write one, under the predicate; a partial tile
raises TILE_PARTIAL (R114, R148, R159). TMUL enters the array once its tiles have its geometries and formats and are whole; a mismatch
raises TILE_TAG. Its completion gives every element of its accumulator the sum of its K blocks in ascending order (R136, R138 to R140, R150,
R159). TSAVE writes the selected accumulators, tiles and tags into its area and nothing outside it; TRESTORE brings them back (R164, R165).
-/
def Obligations.TilesAndAccumulators : Prop :=
  (
    ∀ (c : Nat) (f : VFields) (s : State), isCore c = true → s.mod.ready c 3 false false [] = true →
      let k := s.mod.at c
      let r := f.aux.toNat / 4
      (({ pred := true, z := true, vd := 31, va := 7, aux := 248 } : VForm).fits f = true →
        (k.tagPartial f.va.toNat = false → k.vhazard (VForm.reads { z := true } f) = false →
          exec (.vtrd c f) s = .next (s.vecs c (fun k => k.setVp f (fun i => k.rowPair f.va.toNat r / 2 ^ (32 * i) % 2 ^ 32)))) ∧
        (k.tagPartial f.va.toNat = true → exec (.vtrd c f) s = .next (s.traps c 10 f.va.toNat 0)) ∧
        (k.tileBusy f.va.toNat = false → k.vhazard [f.vd.toNat] = false → ∃ t, exec (.vtwr c f) s = .next t ∧
          (∀ i, i < 64 → (t.mod.core c).rowPair f.va.toNat r / 2 ^ (32 * i) % 2 ^ 32 =
            (if k.on f i then k.elem f.vd.toNat 32 i else if f.z.toNat = 1 then 0 else k.rowPair f.va.toNat r / 2 ^ (32 * i) % 2 ^ 32)) ∧
          (∀ j, j ≠ 64 * f.va.toNat + r → j ≠ 64 * f.va.toNat + r + 1 →
            SMap.get 0 (t.mod.core c).tiles j = SMap.get 0 k.tiles j))) ∧
      (({ pred := true, z := true, vd := 31, va := 15, aux := 252 } : VForm).fits f = true → k.accBusy f.va.toNat = false →
        (k.vhazard (VForm.reads { z := true } f) = false →
          exec (.vard c f) s = .next (s.vecs c (fun k => k.setVp f (fun i => (k.accElem f.va.toNat (64 * r + i)).toNat)))) ∧
        (k.vhazard [f.vd.toNat] = false → ∃ t, exec (.vawr c f) s = .next t ∧
          (∀ i, i < 64 → ((t.mod.core c).accElem f.va.toNat (64 * r + i)).toNat =
            (if k.on f i then k.elem f.vd.toNat 32 i else if f.z.toNat = 1 then 0 else (k.accElem f.va.toNat (64 * r + i)).toNat)) ∧
          (∀ j, (j < 4096 * f.va.toNat + 64 * r ∨ 4096 * f.va.toNat + 64 * r + 64 ≤ j) →
            SMap.get 0 (t.mod.core c).acc j = SMap.get 0 k.acc j)))) ∧
  (
    (∀ c f s, isCore c = true → f.shape.toNat < 3 → pairOk f.fa.toNat f.fb.toNat = true → f.low = 0 →
      (f.ksel = 0 ∨ geoK (geoA f.shape.toNat) f.fa.toNat ≠ geoK (geoB f.shape.toNat) f.fb.toNat) →
      s.mod.ready c 6 false false [] = true →
      let k := s.mod.at c
      (k.tagOf f.ta.toNat = geoA f.shape.toNat * 64 + f.fa.toNat → k.tagOf f.tb.toNat = geoB f.shape.toNat * 64 + f.fb.toNat →
        k.accBusy f.acc.toNat = false →
        exec (.tmul c f) s = .next (s.runs c 6 (fun m k => (m.setCore c { k with tmuls := k.tmuls ++
          [{ acc := f.acc.toNat, ta := f.ta.toNat, tb := f.tb.toNat, shape := f.shape.toNat, fa := f.fa.toNat, fb := f.fb.toNat
             zero := decide (f.zero.toNat = 1), ksel := decide (f.ksel.toNat = 1) }] }).coreEv c 0x06 1))) ∧
      (k.tagOf f.ta.toNat / 64 ≠ geoA f.shape.toNat → exec (.tmul c f) s = .next (s.traps c 9 f.ta.toNat 0))) ∧
    (∀ c x q s, isCpu c = true → (s.mod.core c).tmuls = x :: q →
      ∃ t, exec (.tmulComplete c) s = .next t ∧ (t.mod.core c).tmuls = q ∧
        (∀ e, e < 4096 → ((t.mod.core c).accElem x.acc e).toNat =
          tmulElem (s.mod.core c) x (e / shapeCols x.shape) (e % shapeCols x.shape) % 2 ^ 32) ∧
        (∀ j, (j < 4096 * x.acc ∨ 4096 * x.acc + 4096 ≤ j) → SMap.get 0 (t.mod.core c).acc j = SMap.get 0 (s.mod.core c).acc j) ∧
        (t.mod.core c).tiles = (s.mod.core c).tiles ∧ (t.mod.core c).pc = (s.mod.core c).pc ∧ t.mod.mem = s.mod.mem)) ∧
  (
    ∀ c f s, isCore c = true → f.low = 0 → s.mod.ready c 6 false false [f.a.toNat] = true → s.mod.bad = [] →
      let k := s.mod.at c
      let a := (k.gr f.a.toNat).toNat
      k.saveOk c a f →
      (∃ t, exec (.tsave c f) s = .next t ∧
        (∀ x e, x < 16 → f.amask.getLsbD x = true → e < 4096 → t.mod.rd (loftKey c + a + x * 0x4000 + 4 * e) 4 = (k.accElem x e).toNat) ∧
        (∀ x r, x < 8 → f.tmask.getLsbD x = true → r < 64 →
          t.mod.rd (loftKey c + a + 0x40000 + x * 0x2200 + 128 * r) 128 = (SMap.get 0 k.tiles (64 * x + r)).toNat) ∧
        (∀ x, x < 8 → f.tmask.getLsbD x = true → t.mod.rd (loftKey c + a + 0x51080 + x) 1 = k.tagOf x) ∧
        (∀ b, (b < loftKey c + a ∨ loftKey c + a + 0x51100 ≤ b) → SMap.get 0 t.mod.mem b = SMap.get 0 s.mod.mem b) ∧
        (t.mod.core c).tiles = k.tiles ∧ (t.mod.core c).acc = k.acc) ∧
      (∃ t, exec (.trestore c f) s = .next t ∧
        (∀ x e, x < 16 → f.amask.getLsbD x = true → e < 4096 →
          ((t.mod.core c).accElem x e).toNat = s.mod.rd (loftKey c + a + x * 0x4000 + 4 * e) 4) ∧
        (∀ x r, x < 8 → f.tmask.getLsbD x = true → r < 64 →
          (SMap.get 0 (t.mod.core c).tiles (64 * x + r)).toNat = s.mod.rd (loftKey c + a + 0x40000 + x * 0x2200 + 128 * r) 128) ∧
        (∀ x e, x < 16 → f.amask.getLsbD x = false → e < 4096 → (t.mod.core c).accElem x e = k.accElem x e) ∧
        t.mod.mem = s.mod.mem))

/-- A TLD that may move every row at once completes: the tile has its new tag, TLDPOS is 0, other tiles, accumulators and memory are as
before; a misaligned row address raises ALIGNMENT SUB 2 (R146, R156, R160, R163). A TLD that converts nothing copies each element of each
row: element x of element row i comes from the bits of memory row i (R152, R154, R155). A TST of a whole 8-bit tile without conversion
writes element x of row i at byte x of memory row i of own Loft, and no byte outside those rows (R155, R157). -/
def Obligations.TileTransfers : Prop :=
  (
    (∀ c f n s, isCore c = true → f.src = 0 → f.geo.toNat < 3 → tileFmt f.tfmt.toNat = true → f.mfmt.toNat < 15 →
      codeMx f.mfmt.toNat = false → codeMx f.tfmt.toNat = false → f.idx.toNat < 8 → f.rm = 0 → f.low = 0 → f.ext = 0 →
      s.mod.ready c 6 false false (tileRegs f) = true → 256 ≤ n → s.mod.bad = [] →
      let k := s.mod.at c
      k.tldOwn c f → k.tileBusy f.idx.toNat = false → k.tagPartial f.idx.toNat = false →
      ∃ t, exec (.tld c f n) s = .next t ∧ (t.mod.core c).tagOf f.idx.toNat = f.geo.toNat * 64 + f.tfmt.toNat ∧
        (t.mod.core c).tldpos = 0 ∧ (t.mod.core c).hold = none ∧ (t.mod.core c).acc = k.acc ∧ t.mod.mem = s.mod.mem ∧
        (∀ j, (j < 64 * f.idx.toNat ∨ 64 * f.idx.toNat + 64 ≤ j) → SMap.get 0 (t.mod.core c).tiles j = SMap.get 0 k.tiles j) ∧
        (∀ j, j ≠ f.idx.toNat → (t.mod.core c).tagOf j = k.tagOf j) ∧ (k.loads = [] → (t.mod.core c).g = k.g)) ∧
    (∀ c f n s, isCore c = true → f.src = 0 → f.geo.toNat < 3 → tileFmt f.tfmt.toNat = true → f.mfmt.toNat < 15 →
      f.idx.toNat < 8 → f.rm = 0 → f.low = 0 → s.mod.ready c 6 false false (tileRegs f) = true → (s.mod.at c).cs.level = true →
      ((s.mod.at c).gr f.a.toNat).toNat % 4 ≠ 0 →
      exec (.tld c f n) s = .next (s.traps c 4 2 ((s.mod.at c).gr f.a.toNat).toNat))) ∧
  (
    ∀ c f n s, isCore c = true → f.src = 0 → f.geo.toNat < 3 → tileFmt f.tfmt.toNat = true → f.mfmt.toNat = f.tfmt.toNat →
      codeMx f.mfmt.toNat = false → f.tr = 0 → f.idx.toNat < 8 → f.rm = 0 → f.low = 0 → f.ext = 0 →
      s.mod.ready c 6 false false (tileRegs f) = true → 128 ≤ n → s.mod.bad = [] →
      let k := s.mod.at c
      k.tldOwn c f → k.tileBusy f.idx.toNat = false → k.tagPartial f.idx.toNat = false →
      ∃ t, exec (.tld c f n) s = .next t ∧
        ∀ i x, i < geoRows f.geo.toNat → x < geoK f.geo.toNat f.tfmt.toNat →
          (t.mod.core c).tileRaw f.idx.toNat f.geo.toNat f.tfmt.toNat i x =
            bits (s.mod.rd (loftKey c + (k.gr f.a.toNat).toNat + i * (k.gr f.b.toNat).toNat)
              (spanBytes f.mfmt.toNat (geoK f.geo.toNat f.tfmt.toNat))) (x * codeBits f.tfmt.toNat) (codeBits f.tfmt.toNat)) ∧
  (
    ∀ c f s, isCore c = true → f.src = 0 → f.geo.toNat < 3 → f.tfmt.toNat = f.mfmt.toNat → codeBits f.tfmt.toNat = 8 →
      tileFmt f.tfmt.toNat = true → codeMx f.mfmt.toNat = false → f.tr = 0 → f.idx.toNat < 8 → f.rm.toNat < 3 → f.low = 0 → f.ext = 0 →
      s.mod.ready c 6 false false (tileRegs f) = true → s.mod.bad = [] →
      let k := s.mod.at c
      let base := (k.gr f.a.toNat).toNat
      let stride := (k.gr f.b.toNat).toNat
      let cols := geoK f.geo.toNat f.tfmt.toNat
      k.tldOwn c f → cols ≤ stride → k.tagOf f.idx.toNat = f.geo.toNat * 64 + f.tfmt.toNat →
      ∃ t, exec (.tst c f) s = .next t ∧
        (∀ i x, i < geoRows f.geo.toNat → x < cols →
          (SMap.get 0 t.mod.mem (loftKey c + base + i * stride + x)).toNat = k.tileRaw f.idx.toNat f.geo.toNat f.tfmt.toNat i x) ∧
        (∀ a, (∀ i, i < geoRows f.geo.toNat → a < loftKey c + base + i * stride ∨ loftKey c + base + i * stride + cols ≤ a) →
          SMap.get 0 t.mod.mem a = SMap.get 0 s.mod.mem a) ∧
        (t.mod.core c).tiles = k.tiles ∧ (t.mod.core c).acc = k.acc ∧ (t.mod.core c).tag = k.tag ∧ (k.loads = [] → (t.mod.core c).g = k.g))

/-- A MATX that passes R173 enters the queue with its word, descriptors and level captured, and its ranges in the tracker; one that R173
faults raises the fault (R167 to R174). A walk begins with the slots that the unpinned accumulators give (R180), and is dropped with an
error when there is none. -/
def Obligations.MatxWalk : Prop :=
  (
    ∀ c f s, isCore c = true → matxIllegal (matxWord f) = false → s.mod.ready c 6 false false [] = true →
      let k := s.mod.at c
      let m := s.mod.due c
      let x := m.capture c (matxWord f) k.mxdone k.cs.level
      (matxCheck k x false = none → k.mxq.length < 4 → k.rt.length ≤ 13 → m.enabled (c / 256) (corePage c 1) = true →
        ∃ t y, exec (.matx c f) s = .next t ∧ (t.mod.core c).mxq = k.mxq ++ [y] ∧ y.id = s.mod.nextId ∧ y.walk = false ∧ y.s = 0 ∧
          y.done = k.mxdone ∧ y.level = k.cs.level ∧ y.prod.m = f.m.toNat ∧ y.prod.n = f.n.toNat ∧ y.prod.k = f.k.toNat ∧
          y.prod.shape = f.shape.toNat ∧ y.prod.order = f.order.toNat ∧ y.prod.a.fmt = f.fa.toNat ∧ y.prod.b.fmt = f.fb.toNat ∧
          y.prod.c.fmt = f.fc.toNat ∧ (∃ l, l.length = 3 ∧ (t.mod.core c).rt = k.rt ++ l) ∧ t.mod.mem = s.mod.mem ∧
          bits (t.mod.reg (c / 256) (corePage c 1) 0x100) 4 1 = 0) ∧
      (∀ cause sub addr, matxCheck k x false = some (cause, sub, addr) → exec (.matx c f) s = .next (s.traps c cause sub addr))) ∧
  (
    ∀ c x s, isCpu c = true → (s.mod.core c).mxq = [x] → x.walk = false → x.prod.empty = false → x.s = 0 →
      (s.mod.core c).mayBegin c [] x = true →
      ((s.mod.core c).accpin = 0 → ∃ t y, exec (.matxWalkBegin c) s = .next t ∧ (t.mod.core c).mxq = [y] ∧ y.walk = true ∧
        y.id = x.id ∧ y.dropped = x.dropped ∧ (x.prod.order = 3 → y.s = 1) ∧ (x.prod.order ≠ 3 → y.s = 16) ∧
        (x.prod.order = 0 → y.br = 4 ∧ y.bc = 4) ∧ (x.prod.order ≠ 3 → ∀ q, q < 16 → y.slot q = q)) ∧
      ((s.mod.core c).accpin = 0xFFFF → ∃ t y, exec (.matxWalkBegin c) s = .next t ∧ (t.mod.core c).mxq = [y] ∧ y.walk = true ∧
        y.dropped = true ∧ bits (t.mod.reg (c / 256) (corePage c 1) 0x038) 8 1 = 1))

/-- A step of orders 0 to 2 past a tile's first adds one K block into every element of its accumulator (R138 to R140, R177). A finished tile
of orders 0 to 2 is written out from its slot, one accumulator row a command, and nothing but memory, the queue's entry and the records of
bad words changes (R120, R172, R177). The oldest MATX completes once every tile is out: it leaves the queue and the tracker, and is counted
(R184). TYIELD empties the queue into TPROG with STOPPED set, and TYIELD.R brings a valid entry back (R186 to R190). -/
def Obligations.MatxSteps : Prop :=
  (
    ∀ c x s, isCpu c = true → (s.mod.core c).mxq = [x] → (s.mod.core c).tmuls = [] → x.walk = true → x.dropped = false →
      x.prod.empty = false → x.prod.order < 3 → x.step < x.prod.steps → x.step % x.prod.nkb ≠ 0 → s.mod.bad = [] →
      let p := x.prod
      let a := x.slot (x.step / p.nkb % x.s)
      let ij := x.tileAt (x.step / p.nkb)
      ∃ t, exec (.matxStep c) s = .next t ∧ (t.mod.core c).mxq = [{ x with step := x.step + 1 }] ∧ t.mod.mem = s.mod.mem ∧
        (∀ e, e < 4096 → ((t.mod.core c).accElem a e).toNat = addBlock p.int ((s.mod.core c).accElem a e).toNat
          ((List.range 32).map (fun y => (s.mod.operand c p.a p.m p.k (ij.1 * p.tr + e / p.tc) (32 * (x.step % p.nkb) + y),
            s.mod.operand c p.b p.n p.k (ij.2 * p.tc + e % p.tc) (32 * (x.step % p.nkb) + y)))) % 2 ^ 32) ∧
        (∀ j, (j < 4096 * a ∨ 4096 * a + 4096 ≤ j) → SMap.get 0 (t.mod.core c).acc j = SMap.get 0 (s.mod.core c).acc j)) ∧
  (
    ∀ c x s, isCpu c = true → (s.mod.core c).mxq = [x] → x.walk = true → x.dropped = false → x.prod.empty = false → x.prod.order < 3 →
      x.prod.nkb ≠ 0 → x.wtile < x.step / x.prod.nkb → x.wtile < x.prod.tilesN →
      let ij := x.tileAt x.wtile
      ∃ t, exec (.matxWriteout c) s = .next t ∧
        t.mod.mem = (s.mod.outAccRow c (x.slot (x.wtile % x.s)) x.prod ij.1 ij.2 x.row).mem ∧
        (x.row = 63 → (t.mod.core c).mxq = [{ x with wtile := x.wtile + 1, row := 0 }]) ∧
        (x.row ≠ 63 → (t.mod.core c).mxq = [{ x with row := x.row + 1 }]) ∧ (t.mod.core c).acc = (s.mod.core c).acc ∧
        (t.mod.core c).tiles = (s.mod.core c).tiles ∧ (t.mod.core c).pc = (s.mod.core c).pc ∧ t.mod.wains = s.mod.wains ∧
        (x.prod.c.fmt = 0 → x.prod.epi = false → x.prod.int = false → s.mod.bad = [] → 4 * x.prod.n ≤ x.prod.c.stride →
          ∀ e, 64 * x.row ≤ e → e < 64 * x.row + 64 →
          let i := ij.1 * x.prod.tr + e / x.prod.tc
          let j := ij.2 * x.prod.tc + e % x.prod.tc
          i < x.prod.m → j < x.prod.n →
            t.mod.rd (loftKey c + x.prod.c.base + i * x.prod.c.stride + 4 * j) 4 =
              convTo 0 .rne false (ofF32 ((s.mod.core c).accElem (x.slot (x.wtile % x.s)) e).toNat) % 2 ^ 32)) ∧
  (
    (∀ c x q s, isCore c = true → (s.mod.core c).mxq = x :: q → x.allOut = true → x.done / 32 % 4 = 0 →
      ∃ t, exec (.matxCompletion c) s = .next t ∧ (t.mod.core c).mxq = q ∧
        (t.mod.core c).rt = (s.mod.core c).rt.filter (fun e => e.owner != .matx x.id) ∧
        t.mod.reg (c / 256) (corePage c 1) 0x150 = (s.mod.reg (c / 256) (corePage c 1) 0x150 + 1) % 2 ^ 64 ∧ t.mod.mem = s.mod.mem) ∧
    (∀ c f s, isCore c = true → f.a.toNat = 0 → f.b.toNat = 0 → f.c.toNat = 0 → f.imm.toNat < 2 → s.mod.ready c 3 false false [] = true →
      (s.mod.at c).mxq = [] →
      ∃ t, exec (.tyield c f) s = .next t ∧ (t.mod.core c).mxq = [] ∧ bits (t.mod.reg (c / 256) (corePage c 1) 0x100) 4 1 = 1 ∧
        (∀ q, q < 4 → bits (t.mod.reg (c / 256) (corePage c 1) (0x188 + q * 0x20)) 63 1 = 0)) ∧
    (∀ c f x s, isCore c = true → f.a.toNat = 0 → f.b.toNat = 0 → f.c.toNat = 0 → f.imm.toNat < 2 → s.mod.ready c 3 false false [] = true →
      (s.mod.at c).mxq = [x] → x.s < 32 → x.step < 2 ^ 32 → x.wtile < 2 ^ 32 → x.done < 128 → x.br < 8 → x.bc < 8 → x.phase < 4 →
      x.word < 2 ^ 84 →
      ∃ t, exec (.tyield c f) s = .next t ∧ (t.mod.core c).mxq = [] ∧ bits (t.mod.reg (c / 256) (corePage c 1) 0x188) 63 1 = 1 ∧
        bits (t.mod.reg (c / 256) (corePage c 1) 0x188) 56 5 = x.s ∧ bits (t.mod.reg (c / 256) (corePage c 1) 0x190) 0 32 = x.step ∧
        bits (t.mod.reg (c / 256) (corePage c 1) 0x190) 32 32 = x.wtile) ∧
    (∀ c f x s, isCore c = true → f.a.toNat = 0 → f.b.toNat = 0 → f.c.toNat = 0 → f.imm.toNat < 2 → s.mod.ready c 3 false false [] = true →
      (s.mod.due c).tprogEntry c 0 = some x → (∀ q, 1 ≤ q → q < 4 → (s.mod.due c).tprogEntry c q = none) → matxIllegal x.word = false →
      matxCheck (s.mod.at c) x (x.s != 0) = none → (s.mod.at c).mxq.length < 4 → (s.mod.at c).rt.length ≤ 13 →
      ∃ t y, exec (.tyieldR c f) s = .next t ∧ (t.mod.core c).mxq = (s.mod.at c).mxq ++ [y] ∧ y.word = x.word ∧ y.step = x.step ∧
        y.wtile = x.wtile ∧ y.s = x.s ∧ bits (t.mod.reg (c / 256) (corePage c 1) 0x188) 63 1 = 0 ∧
        bits (t.mod.reg (c / 256) (corePage c 1) 0x100) 4 1 = 0))

/-- Every command that is a register write (registerWrite, lock, freeze, irqTest, cfgEpochWrite, perfClear, perfSnap, digestGo, the Keeper's
services, resets, and the others that writeCommand lists) completes: admitted, it performs that write by the rules of its register; every
command that is a register read completes with the read, and one of RC fields clears them (R14, R18, R19, R20, R22). -/
def Obligations.RegisterCommands : Prop :=
  (∀ i a tgt die page off s, writeCommand i = some (a, tgt) → tgt die page off s = true → s.admits a die page off = true →
    exec i s = .next (regWrite { test := a.test, dead := a.dead } a.q die page off (2 ^ 64 - 1) a.v.toNat s)) ∧
  (∀ i a tgt die page off v s, readCommand i = some (a, tgt) → tgt die page off s = true → s.admits a die page off = true →
    (readReg s.aon s.mod a.q die page off 8).1 = some v →
    exec i s = .next (s.upd (fun m => (readReg s.aon m a.q die page off 8).2)))

/-- A register read and a register write under the common rules (R19, R20): what each bit of a field becomes, the value of a read of
PAGE_ID, and a plain register that takes its written value. An access that R14, R18, R20 or R453 refuses changes no register but the error
record of the page that records it (R14, R23). -/
def Obligations.RegisterAccesses : Prop :=
  (
    (∀ (f : Fld) (locked : Bool) (old we wv i : Nat), f.norm = .any → i < f.width →
      ((f.write locked old we wv).1.testBit i) =
        bitWrite f.acc locked (old.testBit (f.lo + i)) (we.testBit (f.lo + i)) (wv.testBit (f.lo + i)) ∧
      ((f.write locked old we wv).2 = true → f.acc = .rwl ∧ locked = true)) ∧
    (∀ a die page id r s, s.up = true → a.id = some id → s.mod.findReq id = some r → r.waiting = true → r.path.flit = .clean →
      s.mod.mustFollow r = false → r.op = .read → r.len = 8 → r.mpa = regMpa die page 0 → die < 6 → page < 8192 → s.mod.regRefused r.q die page 0 8 = none →
      s.mod.isFrozen die page = false →
      exec (.registerWrite false a) s = .next (s.upd (fun m => m.respond id (.data (idWord die page % 2 ^ 64))))) ∧
    (∀ a die page s, s.admits a die page 0x028 = true →
      ∃ t, exec (.registerWrite true a) s = .next t ∧ t.mod.reg die page 0x028 = a.v.toNat ∧
        t.mod.reg die page 0x020 = s.mod.reg die page 0x020 ∧ t.mod.mem = s.mod.mem ∧
        ((∀ n, blockAt die page = some (.furrow, n) → (s.mod.fur (die * 256 + n)).stream = false) → t.mod.cores = s.mod.cores)) ∧
    (∀ a die s, s.admits a die (pwrPage die) 0x120 = true →
      ∃ t, exec (.registerReadClear a) s = .next t ∧
        t.mod.reg die (pwrPage die) 0x120 = s.mod.reg die (pwrPage die) 0x120 &&& (2 ^ 64 - 1 - 0xFFFF0000))) ∧
  (
    (∀ a die page off x s, s.up = true → accessOf a die page off = true → s.mod.regRefused a.q die page off 8 = some x →
      exec (.registerWrite true a) s = .next (s.upd (fun m => m.err x.1 x.2.1 x.2.2 a.q 0 (regMpa die page off)))) ∧
    (∀ m q die page off size, blockAt die page = none → q ≠ hostCode → Mod.regRefused m q die page off size = some (die, stewardPage die, 0)) ∧
    (∀ m q die page off size, (blockAt die page).isSome = true → q ≠ hostCode → (size = 4 ∨ size = 8) → off % size = 0 →
      ¬(die = 4 ∧ page = keeperPage ∧ isCore q = true) → Mod.regRefused m q die page off size = none) ∧
    (∀ (m : Mod) die page bit q detail addr, die < 6 → page < 8192 → bit < 64 → bit ≠ 2 →
      m.reg die page 0x038 % 4 = 0 → m.reg die page 0x038 / 8 = 0 → detail < 2 ^ 32 → q < 2 ^ 16 → addr < 2 ^ 44 →
      let t := m.err die page bit q detail addr
      bits (t.reg die page 0x038) bit 1 = 1 ∧ t.reg die page 0x040 = bit * 2 ^ 48 + q * 2 ^ 32 + detail ∧ t.reg die page 0x048 = addr ∧
        ∀ bit2 q2 detail2 addr2, bit2 < 64 → bit2 ≠ 2 →
          let u := t.err die page bit2 q2 detail2 addr2
          bits (u.reg die page 0x038) bit2 1 = 1 ∧ bits (u.reg die page 0x038) 2 1 = 1 ∧
            u.reg die page 0x040 = t.reg die page 0x040 ∧ u.reg die page 0x048 = t.reg die page 0x048))

/-- LOCK holds every RWL field, and a write that would change one sets LOCK_VIOL (R20); FREEZE keeps what S and V fields read (R22);
IRQ_TEST sets the matching causes of IRQ_STAT (R19); CFG_EPOCH takes no lower value (R31). An event is counted by every counter of its page
that selects it; PERF_CTRL.CLEAR zeroes the eight counters, SNAP copies them, and a counter that wraps sets its OVF cause (R27, R28). -/
def Obligations.PageHeaderAndCounters : Prop :=
  (
    (∀ a die page s, s.admits a die page 0x010 = true → a.v.toNat % 2 = 1 → bits a.v.toNat 2 1 = 1 →
      ∃ t, exec (.lock a) s = .next t ∧ t.mod.locked die page = true) ∧
    (∀ a die page s, s.admits a die page 0x010 = true → s.mod.locked die page = true → s.mod.enabled die page = true → a.v.toNat % 2 = 0 →
      ∃ t, exec (.registerWrite true a) s = .next t ∧ t.mod.enabled die page = true ∧ bits (t.mod.reg die page 0x038) 1 1 = 1) ∧
    (∀ a die page s, s.admits a die page 0x010 = true → a.v.toNat % 2 = 1 → bits a.v.toNat 1 1 = 1 → s.mod.isFrozen die page = false →
      ∃ t, exec (.freeze a) s = .next t ∧ t.mod.isFrozen die page = true ∧
        ∀ (b : AlwaysOn) (m : Mod), m.frozen = t.mod.frozen → m.isFrozen die page = true →
          peek b m die page 0x020 = s.mod.reg die page 0x020) ∧
    (∀ a die page s, s.admits a die page 0x030 = true →
      ∃ t, exec (.irqTest a) s = .next t ∧
        t.mod.reg die page 0x020 = s.mod.reg die page 0x020 ||| a.v.toNat) ∧
    (∀ a die page s, s.admits a die page 0x058 = true →
      (s.mod.reg die page 0x058 ≤ a.v.toNat % 2 ^ 32 →
        ∃ t, exec (.cfgEpochWrite a) s = .next t ∧ t.mod.reg die page 0x058 = a.v.toNat % 2 ^ 32 ∧ t.mod.fld die page 0x018 5 1 = 0) ∧
      (a.v.toNat % 2 ^ 32 < s.mod.reg die page 0x058 →
        ∃ t, exec (.cfgEpochWrite a) s = .next t ∧ t.mod.reg die page 0x058 = s.mod.reg die page 0x058 ∧
          bits (t.mod.reg die page 0x038) 3 1 = 1))) ∧
  (
    (∀ (m : Mod) die page n ev inst k x, die < 6 → page < 8192 → blockAt die page = some (.perf, n) → k < 8 → m.perfCounts die page k = true →
      m.fld die page (0x140 + 8 * k) 0 8 = ev → (perfInst ev = true → m.fld die page (0x140 + 8 * k) 12 4 = inst) → m.reg die page (0x180 + 8 * k) < 2 ^ 48 →
      x < 2 ^ 48 →
      (m.perf die page ev inst x).reg die page (0x180 + 8 * k) = (m.reg die page (0x180 + 8 * k) + x) % 2 ^ 48 ∧
        (2 ^ 48 ≤ m.reg die page (0x180 + 8 * k) + x → m.fld die page (0x140 + 8 * k) 9 1 = 1 →
          bits ((m.perf die page ev inst x).reg die page 0x020) k 1 = 1)) ∧
    (∀ a die page n s, s.admits a die page 0x100 = true → blockAt die page = some (.perf, n) → s.mod.enabled die page = true →
      bits a.v.toNat 1 1 = 1 →
      ∃ t, exec (.perfClear a) s = .next t ∧ ∀ k, k < 8 → t.mod.reg die page (0x180 + 8 * k) = 0) ∧
    (∀ a die page n s, s.admits a die page 0x100 = true → blockAt die page = some (.perf, n) → s.mod.enabled die page = true →
      bits a.v.toNat 2 1 = 1 → bits a.v.toNat 1 1 = 0 →
      ∃ t, exec (.perfSnap a) s = .next t ∧ ∀ k, k < 8 → t.mod.reg die page (0x1C0 + 8 * k) = t.mod.reg die page (0x180 + 8 * k) ∧
        (s.mod.perfRuns die page k = false → t.mod.reg die page (0x180 + 8 * k) = s.mod.reg die page (0x180 + 8 * k))) ∧
    (∀ die page n k s, die < 6 → page < 8192 → blockAt die page = some (.perf, n) → k < 8 → s.mod.perfRuns die page k = true →
      ∃ t, exec (.perfCounterWrap die page k) s = .next t ∧ t.mod.reg die page (0x180 + 8 * k) = 0 ∧
        (s.mod.fld die page (0x140 + 8 * k) 9 1 = 1 → bits (t.mod.reg die page 0x020) k 1 = 1) ∧
        (s.mod.fld die page (0x140 + 8 * k) 9 1 = 0 → t.mod.reg die page 0x020 = s.mod.reg die page 0x020)))

/-- A digest walk begins at GO and ends with its digest and report; the Keeper classifies the latest report of a die against the module
epoch; a raise of the epoch sets every result to PENDING and evaluates the reports anew (R32 to R38). -/
def Obligations.ConfigurationAgreement : Prop :=
  (∀ a die s, s.admits a die (digestPage die) 0x100 = true → s.mod.enabled die (digestPage die) = true → bits a.v.toNat 32 1 = 1 →
    s.mod.fld die (digestPage die) 0x108 0 1 = 0 →
    ∃ t, exec (.digestGo a) s = .next t ∧ t.mod.fld die (digestPage die) 0x108 0 5 = 1 ∧
      t.mod.walkOn die = { epoch := a.v.toNat % 2 ^ 32 }) ∧
  (∀ die s, die < 6 → s.mod.walkBusy die = true →
    let w := s.mod.walkOn die
    let pages := (diePages die).filter (fun p => decide (w.next ≤ p))
    let bytes := w.bytes ++ pages.flatMap (fun p => leBytes 8 (idWord die p) ++
      leBytes 8 (if s.mod.pageDisabled die p then 2 ^ 64 - 1 else s.mod.cfgSum die p))
    let digest := leNat (sha512 bytes)
    ∃ t, exec (.digestWalkDone die) s = .next t ∧ t.mod.fld die (digestPage die) 0x108 0 2 = 2 ∧
      t.mod.fld die (digestPage die) 0x108 2 1 = s.mod.fld die (digestPage die) 0x108 2 1 ∧
      t.mod.fld die (digestPage die) 0x108 16 14 = (w.pages + pages.length) % 2 ^ 14 ∧
      (∀ i, i < 8 → t.mod.reg die (digestPage die) (0x110 + 8 * i) = bits digest (64 * i) 64) ∧
      t.mod.keeper.inbox = s.mod.keeper.inbox ++ [(die, { epoch := w.epoch, digest := digest, disturbed := w.disturbed,
                                                            ahead := w.ahead || pages.any (fun p => decide (w.epoch < s.mod.reg die p 0x058)),
                                                            dirty := w.dirty || pages.any (fun p => s.mod.fld die p 0x018 5 1 == 1) })]) ∧
  (∀ d r q s, s.mod.keeper.inbox = (d, r) :: q → s.mod.kState = 1 → d < 6 →
    ∃ t, exec .keeperDigestReport s = .next t ∧ t.mod.keeper.inbox = q ∧
      (r.epoch = s.mod.kp 0x400 0 32 → r.ahead = false → r.disturbed = false → r.digest = s.mod.expected d → t.mod.kp 0x410 (4 * d) 4 = 1) ∧
      (r.epoch = s.mod.kp 0x400 0 32 → r.ahead = false → r.disturbed = false → r.digest ≠ s.mod.expected d → t.mod.kp 0x410 (4 * d) 4 = 2) ∧
      (s.mod.kp 0x400 0 32 < r.epoch ∨ r.ahead = true → t.mod.kp 0x410 (4 * d) 4 = 4)) ∧
  (∀ d s, d < 6 → s.mod.kState = 1 → s.mod.kp 0x410 (4 * d) 4 = 0 → SMap.get none s.mod.keeper.reports d = none →
    ∃ t, exec (.configStale d) s = .next t ∧ t.mod.kp 0x410 (4 * d) 4 = 3 ∧ bits (t.mod.reg 4 keeperPage 0x020) 2 1 = 1) ∧
  (∀ d q s, s.mod.keeper.notices = d :: q → d < 6 →
    ∃ t, exec .keeperResetNotice s = .next t ∧ t.mod.keeper.notices = q ∧ SMap.get none t.mod.keeper.reports d = none ∧
      t.mod.kp 0x410 (4 * d) 4 = 0) ∧
  (∀ a s, s.admits a 4 keeperPage 0x400 = true →
    (a.v.toNat % 2 ^ 32 = s.mod.kp 0x400 0 32 + 1 →
      ∃ t, exec (.keeperCfgEpochWrite a) s = .next t ∧ t.mod.kp 0x400 0 32 = s.mod.kp 0x400 0 32 + 1 ∧
        (∀ d, d < 6 → SMap.get none s.mod.keeper.reports d = none → t.mod.kp 0x410 (4 * d) 4 = 0) ∧
        (∀ d r, d < 6 → s.mod.kState = 1 → SMap.get none s.mod.keeper.reports d = some r → r.ahead = false → r.disturbed = false →
          r.epoch = s.mod.kp 0x400 0 32 + 1 → t.mod.kp 0x410 (4 * d) 4 = if r.digest = s.mod.expected d then 1 else 2) ∧
        t.mod.keeper.expired = []) ∧
    (a.v.toNat % 2 ^ 32 ≠ s.mod.kp 0x400 0 32 + 1 →
      ∃ t, exec (.keeperCfgEpochWrite a) s = .next t ∧ t.mod.kp 0x400 0 32 = s.mod.kp 0x400 0 32 ∧
        bits (t.mod.reg 4 keeperPage 0x038) 3 1 = 1))

/-- RUN starts a stopped core at START_PC in bank 0 at kernel level with interrupts off, or asks for a stop (R71); CORE_PM_DATA writes four
parcels where no segment is locked or executed, and reads four (R42, R43). -/
def Obligations.CoreRunAndProgramMemory : Prop :=
  (∀ a c s, isCore c = true → s.admits a (c / 256) (corePage c 0) 0x100 = true → s.mod.enabled (c / 256) (corePage c 0) = true →
    s.mod.fld (c / 256) (corePage c 0) 0x100 0 1 = 0 → a.v.toNat % 2 = 1 → (s.mod.fur c).stream = false →
    (s.mod.core c).halted = false → (s.mod.core c).running = false → s.mod.parked c = false → s.mod.retired c = false →
    ∃ t, exec (.coreRunStart a) s = .next t ∧ (t.mod.core c).running = true ∧ (t.mod.core c).bank = 0 ∧
      (t.mod.core c).pc = BitVec.ofNat 16 (a.v.toNat / 2 ^ 16) ∧ (t.mod.core c).cs.level = true ∧ (t.mod.core c).cs.ie = false ∧
      (t.mod.core c).g = (s.mod.core c).g ∧ (∀ c', c' ≠ c → t.mod.core c' = s.mod.core c') ∧ t.mod.mem = s.mod.mem) ∧
  (∀ a c s, isCore c = true → s.admits a (c / 256) (corePage c 0) 0x100 = true → s.mod.fld (c / 256) (corePage c 0) 0x100 0 1 = 1 →
    a.v.toNat % 2 = 0 → (s.mod.fur c).stream = false → (s.mod.core c).halted = false → (s.mod.core c).running = true →
    ∃ t, exec (.coreRunStop a) s = .next t ∧ t.mod.core c = { s.mod.core c with stopReq := true, restart := false } ∧
      t.mod.mem = s.mod.mem) ∧
  (∀ a c s, isCore c = true → s.admits a (c / 256) (corePage c 0) 0x120 = true →
    let ad := s.mod.reg (c / 256) (corePage c 0) 0x118
    let blocked := fun (i : Nat) => bits (s.mod.seg c) (16 + (ad + i) % 65536 / 4096) 1 == 1 ||
      ((s.mod.core c).running && bits (s.mod.seg c) ((ad + i) % 65536 / 4096) 1 == 1)
    ∃ t, exec (.corePmDataWrite a) s = .next t ∧ t.mod.reg (c / 256) (corePage c 0) 0x118 = (ad + 4) % 65536 ∧
      ((∀ i, i < 4 → blocked i = false) →
        (∀ i, i < 4 → t.mod.parcel c (ad + i) = BitVec.ofNat 14 (a.v.toNat / 2 ^ (14 * i))) ∧
        (∀ x, (∀ i, i < 4 → x % 65536 ≠ (ad + i) % 65536) → t.mod.parcel c x = s.mod.parcel c x)) ∧
      (∀ i, i < 4 → blocked i = true → t.mod.pm = s.mod.pm ∧ bits (t.mod.reg (c / 256) (corePage c 0) 0x038) 8 1 = 1)) ∧
  (∀ a c id r s, isCore c = true → s.up = true → a.id = some id → s.mod.findReq id = some r → r.waiting = true → r.path.flit = .clean →
    s.mod.mustFollow r = false → r.op = .read → r.len = 8 → r.mpa = regMpa (c / 256) (corePage c 0) 0x120 →
    s.mod.regRefused r.q (c / 256) (corePage c 0) 0x120 8 = none →
    let ad := s.mod.reg (c / 256) (corePage c 0) 0x118
    exec (.corePmDataRead a) s = .next (s.upd (fun m => (m.setReg (c / 256) (corePage c 0) 0x118 ((ad + 4) % 65536)).respond id
      (.data ((m.parcel c ad).toNat + (m.parcel c (ad + 1)).toNat * 2 ^ 14 + (m.parcel c (ad + 2)).toNat * 2 ^ 28 +
        (m.parcel c (ad + 3)).toNat * 2 ^ 42)))))

/-- A Wain starts from WGO_w or from its page at the given level, the address being that of its first instruction, or enters ERROR when that
is misaligned; a stop ends the program that runs once its writes are acknowledged, and a MOVE that has begun writes what it has read (R267,
R268, R284). A Wain fetches its next instruction from own Loft, PC then naming it; one that breaks R270 ends the program with ILLEGAL. END
completes once every write is acknowledged; an acknowledgement with an access error is kept for the next boundary (R270, R283, R285). -/
def Obligations.WainPrograms : Prop :=
  (
    (∀ c f s, isCore c = true → f.imm.toNat < 1024 → s.mod.ready c 3 false false [f.a.toNat] = true →
      let v := ((s.mod.at c).gr f.a.toNat).toNat
      (bits v 63 1 = 0 → exec (.wgoStart c f) s = .next (s.runs c 3 (fun m k => m.wainStart c (c * 2 + f.imm.toNat % 2) (v % 2 ^ 45) k.cs.level))) ∧
      (bits v 63 1 = 1 → exec (.wgoStop c f) s = .next (s.runs c 3 (fun m _ => m.wainStop (c * 2 + f.imm.toNat % 2))))) ∧
    (∀ a w s, isWain w = true → s.admits a (wainDie w) (wainPage w) 0x100 = true → s.mod.enabled (wainDie w) (wainPage w) = true →
      (a.v.toNat % 4 = 1 → exec (.wainGo a) s = .next (s.upd (fun m => m.wainStart a.q w (m.wreg w 0x108) true))) ∧
      (a.v.toNat % 4 = 2 → exec (.wainStop a) s = .next (s.upd (fun m => m.wainStop w)))) ∧
    (∀ (m : Mod) q w addr kernel, isWain w = true → m.enabled (wainDie w) (wainPage w) = true → m.wainBusy w = false →
      (m.wain w).ending = none → (∀ c, wainCore w = some c → m.coreSweep c = false ∧ m.retired c = false ∧ m.parked c = false) →
      addr < 2 ^ 45 →
      let t := m.wainStart q w addr kernel
      t.wreg w 0x118 = m.wreg w 0x118 ∧ bits (t.wreg w 0x110) 3 1 = b2n kernel ∧ t.wain w = { start := addr, next := addr } ∧
        (addr % 32 = 0 → t.wainState w = 1) ∧ (addr % 32 ≠ 0 → t.wainState w = 6 ∧ bits (t.wreg w 0x038) 9 1 = 1)) ∧
    (∀ (m : Mod) w, isWain w = true → m.wainBusy w = true → (m.wain w).ending = none → m.wainOut w = false →
      ((m.wainStop w).wain w).instr = none ∧ (m.wainStop w).mem = (m.moveStop w).mem ∧
        ((m.wain w).sent = false → (m.wainStop w).wainState w = 5 ∧ (m.wainStop w).mem = m.mem))) ∧
  (
    (∀ w s, isWain w = true → w < 2048 → s.mod.wainState w = 1 → (s.mod.wain w).instr = none → (s.mod.wain w).ending = none →
      (s.mod.wain w).err = [] → bits (s.mod.wreg w 0x110) 3 1 = 1 → s.mod.bad = [] →
      let pc := (s.mod.wain w).next
      let v := s.mod.rd (loftKey (w / 2) + pc % 2 ^ 44) 32
      isL pc = true → pc < 2 ^ 45 → pc % 2 ^ 44 + 32 ≤ 0x400000 →
      (wainIllegal v = false → ∃ t, exec (.wainFetch w) s = .next t ∧ (t.mod.wain w).instr = some v ∧ t.mod.wreg w 0x118 = pc ∧
        (t.mod.wain w).next = pc ∧ t.mod.mem = s.mod.mem) ∧
      (wainIllegal v = true → ∃ t, exec (.wainFetch w) s = .next t ∧ (t.mod.wain w).instr = none ∧ bits (t.mod.wreg w 0x038) 8 1 = 1 ∧
        bits (t.mod.wreg w 0x020) 1 1 = 1 ∧ (s.mod.wainOut w = false → t.mod.wainState w = 6))) ∧
    (∀ w v s, isWain w = true → (s.mod.wain w).instr = some v → v / 2 ^ 252 % 16 = 0 → s.mod.wainState w = 1 →
      (s.mod.wain w).ending = none → (s.mod.wain w).err = [] → s.mod.wainOut w = false →
      ∃ t, exec (.wainEnd w) s = .next t ∧ t.mod.wainState w = 7 ∧ (t.mod.wain w).instr = none ∧ (t.mod.wain w).loops = [] ∧
        (t.mod.wain w).plane = none ∧ (bits v 251 1 = 1 → bits (t.mod.wreg w 0x020) 0 1 = 1) ∧
        (bits v 251 1 = 0 → t.mod.wreg w 0x020 = s.mod.wreg w 0x020)) ∧
    (∀ w id off n r s, isWain w = true → s.mod.findReq id = some r → r.use = .wain w off n →
      (r.answer = some .ok → exec (.wainWriteAck w id) s = .next (s.upd (fun m => (m.retireReq id).wainSync w))) ∧
      (∀ x bit, r.answer = some x → (x = .err ∧ bit = 13 ∨ x = .poison ∧ bit = 14) → s.mod.wainBusy w = true → (s.mod.wain w).ending = none →
        ∃ t, exec (.wainWriteAck w id) s = .next t ∧ (t.mod.wain w).err = (s.mod.wain w).err ++ [(bit, r.mpa, off)] ∧
          t.mod.net = (s.mod.retireReq id).net)))

/-- A MOVE of one row within own Loft copies its bytes, changes no other byte, counts itself, and the program goes on (R271 to R275). LOOP
opens a level or skips its body, and a level's end repeats it until its passes are done (R276, R277); PLANE arms the next MOVE (R280). -/
def Obligations.WainDataMovement : Prop :=
  (
    ∀ w v s, isWain w = true → w < 2048 → s.mod.wainState w = 1 → (s.mod.wain w).instr = some v → v / 2 ^ 252 % 16 = 1 →
      (s.mod.wain w).ending = none → (s.mod.wain w).err = [] → (s.mod.wain w).plane = none → (s.mod.wain w).loops = [] →
      bits (s.mod.wreg w 0x110) 3 1 = 1 → s.mod.bad = [] → s.mod.net = [] → (s.mod.core (w / 2)).rt = [] →
      let f := moveOf v
      let src := f.src % 2 ^ 44
      let dst := f.dst % 2 ^ 44
      let key := loftKey (w / 2)
      isL f.src = true → isL f.dst = true → f.len ≠ 0 → f.n1 = 1 → f.n2 = 1 → src + f.len ≤ 0x400000 → dst + f.len ≤ 0x400000 →
      (src + f.len ≤ dst ∨ dst + f.len ≤ src) →
      ∃ t, exec (.wainMove w) s = .next t ∧
        (∀ i, i < f.len → SMap.get 0 t.mod.mem (key + dst + i) = SMap.get 0 s.mod.mem (key + src + i)) ∧
        (∀ a, (a < key + dst ∨ key + dst + f.len ≤ a) → SMap.get 0 t.mod.mem a = SMap.get 0 s.mod.mem a) ∧
        (t.mod.wain w).instr = none ∧ t.mod.wainState w = 1 ∧ t.mod.wreg w 0x148 = (s.mod.wreg w 0x148 + 1) % 2 ^ 64 ∧
        t.mod.wreg w 0x140 = (s.mod.wreg w 0x140 + f.len) % 2 ^ 64) ∧
  (
    (∀ w v s, isWain w = true → (s.mod.wain w).instr = some v → v / 2 ^ 252 % 16 = 2 → s.mod.wainState w = 1 →
      (s.mod.wain w).ending = none → (s.mod.wain w).err = [] → bits v 210 8 ≠ 0 →
      (∀ l, (s.mod.wain w).loops.getLast? = some l → s.mod.wainPcIdx w + bits v 210 8 ≤ l.at_ + l.body) →
      let count := bits v 218 32
      let i := s.mod.wainPcIdx w
      (count = 0 → exec (.wainLoop w) s = .next (s.upd (fun m => m.wainNext w (i + bits v 210 8)))) ∧
      (count ≠ 0 → (s.mod.wain w).loops.length < 3 →
        ∃ t, exec (.wainLoop w) s = .next t ∧ (t.mod.wain w).loops = (s.mod.wain w).loops ++
            [{ at_ := i, body := bits v 210 8, count := count, iter := 0, sstep := sext 40 (bits v 170 40), dstep := sext 40 (bits v 130 40) }] ∧
          (t.mod.wain w).instr = none ∧ (t.mod.wain w).next = wainAt (s.mod.wain w) (i + 1))) ∧
    (∀ (m : Mod) w i, isWain w = true →
      let x := m.wain w
      let t := m.wainNext w i
      (t.wain w).instr = none ∧ (t.wainState w = 1 ∨ x.ending ≠ none) ∧ t.mem = m.mem ∧
        (x.loops = [] → (t.wain w).next = wainAt x (i + 1)) ∧
        (∀ (l : WainLoop) (ls : List WainLoop), x.loops = ls ++ [l] → i = l.at_ + l.body → l.iter + 1 < l.count →
          (t.wain w).next = wainAt x (l.at_ + 1) ∧ (t.wain w).loops = ls ++ [{ l with iter := l.iter + 1 }]) ∧
        (∀ (l : WainLoop), x.loops = [l] → i = l.at_ + l.body → l.count ≤ l.iter + 1 →
          (t.wain w).next = wainAt x (i + 1) ∧ (t.wain w).loops = [])) ∧
    (∀ w v s, isWain w = true → (s.mod.wain w).instr = some v → v / 2 ^ 252 % 16 = 5 → s.mod.wainState w = 1 →
      (s.mod.wain w).ending = none → (s.mod.wain w).err = [] →
      ∃ t, exec (.wainPlane w) s = .next t ∧ (t.mod.wain w).plane = some v ∧ (t.mod.wain w).instr = none ∧ t.mod.wainState w = 1))

/-- A Wain WAIT goes on once its counter has reached the target, or its die's cadence unit has reached the position, and holds the Wain
before (R278). SIGNAL sends its increment to a counter that admits it; a message of own Loft sets out for its chute, and its response lets
the program go on where it was accepted, leaves the Wain BLOCKED where the ring was full, to present it again, or ends it (R279, R283). -/
def Obligations.WainSynchronisation : Prop :=
  (
    (∀ w v x s, isWain w = true → (s.mod.wain w).instr = some v → v / 2 ^ 252 % 16 = 3 → bits v 251 1 = 0 → s.mod.wainState w = 1 →
      (s.mod.wain w).ending = none → (s.mod.wain w).err = [] → cntOf (bits v 208 32) = some x → s.mod.wainMayWait w x = true →
      (s.mod.wain w).cut = false → s.mod.routeCut (wainDie w) x.die x.mpa = false →
      (bits v 144 64 ≤ s.mod.cntVal x →
        exec (.wainWaitCounter w) s = .next (s.upd (fun m => (m.wainHeld w).wainNext w ((m.wainHeld w).wainPcIdx w)))) ∧
      (s.mod.cntVal x < bits v 144 64 → exec (.wainWaitCounter w) s = .next (s.upd (fun m => m.setWainState w 2)))) ∧
    (∀ w v x s, isWain w = true → (s.mod.wain w).instr = some v → bits v 251 1 = 0 → s.mod.wainState w = 2 →
      (s.mod.wain w).ending = none → cntOf (bits v 208 32) = some x → s.mod.wainMayWait w x = true →
      (s.mod.wain w).cut = false → s.mod.routeCut (wainDie w) x.die x.mpa = false → bits v 144 64 ≤ s.mod.cntVal x →
      exec (.wainWaitComplete w) s = .next (s.upd (fun m => (m.wainHeld w).wainNext w ((m.wainHeld w).wainPcIdx w)))) ∧
    (∀ w v fr line s, isWain w = true → (s.mod.wain w).instr = some v → v / 2 ^ 252 % 16 = 3 → bits v 251 1 = 1 → s.mod.wainState w = 1 →
      (s.mod.wain w).ending = none → (s.mod.wain w).err = [] → (s.mod.wain w).cut = false → s.mod.cadPos (wainDie w) = some (fr, line) →
      (fr = bits v 208 32 → bits v 192 13 ≤ line →
        exec (.wainWaitCadence w) s = .next (s.upd (fun m => (m.wainHeld w).wainNext w ((m.wainHeld w).wainPcIdx w)))) ∧
      (fr = bits v 208 32 → line < bits v 192 13 → exec (.wainWaitCadence w) s = .next (s.upd (fun m => m.setWainState w 3))))) ∧
  (
    (∀ w v x s, isWain w = true → (s.mod.wain w).instr = some v → v / 2 ^ 252 % 16 = 4 → bits v 251 1 = 0 → s.mod.wainState w = 1 →
      (s.mod.wain w).ending = none → (s.mod.wain w).err = [] → (bits v 250 1 = 1 → s.mod.wainOut w = false) →
      cntOf (bits v 208 32) = some x → s.mod.incAllowed x (wainReq w) = true → s.mod.cntGone x = false →
      s.mod.routeCut (wainDie w) x.die x.mpa = false →
      ∃ t i, exec (.wainSignalCounter w) s = .next t ∧ t.mod.incs = s.mod.incs ++ [i] ∧ i.ref = bits v 208 32 ∧ i.amount = bits v 176 32 ∧
        i.q = wainReq w ∧ i.wain = some (w, s.mod.wainOffset w) ∧ i.cut = false ∧ (t.mod.wain w).instr = none ∧ t.mod.wainState w = 1) ∧
    (∀ w v s, isWain w = true → w < 2048 → (s.mod.wain w).instr = some v → v / 2 ^ 252 % 16 = 4 → bits v 251 1 = 1 → s.mod.wainState w = 1 →
      (s.mod.wain w).ending = none → (s.mod.wain w).err = [] → (s.mod.wain w).sent = false → (bits v 250 1 = 1 → s.mod.wainOut w = false) →
      bits (s.mod.wreg w 0x110) 3 1 = 1 → s.mod.bad = [] →
      let n := bits v 205 3 + 1
      let msg := bits v 160 45
      isL msg = true → msg % 16 = 0 → msg % 2 ^ 44 + 16 * n ≤ 0x400000 → (destOf (bits v 208 32)).isSome = true →
      s.mod.chuteCut (wainDie w) (bits v 208 32) = false →
      ∃ t r, exec (.wainSignalMessage w) s = .next t ∧ t.mod.chuteReqs = s.mod.chuteReqs ++ [r] ∧ r.q = wainReq w ∧ r.wain = some (wainIdx w) ∧
        r.core = none ∧ r.dest = bits v 208 32 ∧ r.resp = none ∧ r.try_ = false ∧
        r.words = (List.range n).map (fun j => s.mod.rd (loftKey (w / 2) + msg % 2 ^ 44 + 16 * j) 16) ∧
        (t.mod.wain w).sent = true ∧ (t.mod.wain w).words = r.words ∧ t.mod.wainState w = 1 ∧ t.mod.mem = s.mod.mem) ∧
    (∀ w v r y s, isWain w = true → (s.mod.wain w).instr = some v → v / 2 ^ 252 % 16 = 4 → bits v 251 1 = 1 →
      (s.mod.wain w).ending = none → (s.mod.wain w).err = [] → (s.mod.wain w).sent = true → s.mod.chuteReqs = [r] → r.q = wainReq w →
      r.wain = some (wainIdx w) → r.resp = some y → r.path.arrived = true → r.path.flit = .clean →
      ∀ i, (s.mod.wainState w = 1 ∧ i = .wainSignalMessage w ∨ s.mod.wainState w = 4 ∧ i = .wainSignalRetry w) →
      (y = 1 → ∃ t, exec i s = .next t ∧ t.mod.chuteReqs = [] ∧ (t.mod.wain w).instr = none ∧ t.mod.wainState w = 1) ∧
      (y = 0 → ∃ t, exec i s = .next t ∧ t.mod.chuteReqs = [] ∧ (t.mod.wain w).sent = false ∧ (t.mod.wain w).words = (s.mod.wain w).words ∧
        t.mod.wainState w = 4) ∧
      (y = 2 → ∃ t, exec i s = .next t ∧ t.mod.chuteReqs = [] ∧ (t.mod.wain w).instr = none ∧ bits (t.mod.wreg w 0x038) 15 1 = 1 ∧
        (s.mod.wainOut w = false → t.mod.wainState w = 6)) ∧
      (y = 3 → ∃ t, exec i s = .next t ∧ t.mod.chuteReqs = [] ∧ (t.mod.wain w).instr = none ∧ bits (t.mod.wreg w 0x038) 14 1 = 1 ∧
        (s.mod.wainOut w = false → t.mod.wainState w = 6))) ∧
    (∀ w v s, isWain w = true → (s.mod.wain w).instr = some v → s.mod.wainState w = 4 → (s.mod.wain w).ending = none → (s.mod.wain w).sent = false →
      exec (.wainSignalRetry w) s = .next (s.upd (fun m => wainPresent w (bits v 208 32) (m.wain w).words m))))

/-- RULE_DISPATCH takes one token of each input of the ready rule of lowest PRI, and counts it: a steering rule sends its tokens as its
control value says, a VEC rule one token to each output with IN0's tag and LEN, a TMUL rule one of LEN 256; a ROUTINE rule starts its
routine (R295, R297 to R300). FIRING_OUTPUT sends a firing's token on its way to the local queue, the neighbour's inbound queue or the
ejector that its output names (R291, R295). -/
def Obligations.FurrowFirings : Prop :=
  (
    (∀ (m : Mod) c r, m.pickRule c = some r → m.ruleReady c r = true ∧ ∀ r', r' < 16 → m.ruleReady c r' = true → (m.rule c r).pri ≤ (m.rule c r').pri) ∧
    (∀ (m : Mod) c, m.pickRule c = none → ∀ r, r < 16 → m.ruleReady c r = false) ∧
    (∀ c r ins s, isCore c = true → s.mod.pickRule c = some r →
      let f := s.mod.fur c
      let x := s.mod.rule c r
      x.takes f = some ins → ins.Nodup → (∀ i ∈ ins, (SMap.get (0, 0) f.ext i).2 = 0) →
      ∃ t, exec (.ruleDispatch c) s = .next t ∧ t.mod.mem = s.mod.mem ∧ t.mod.furReg c 0x130 = (s.mod.furReg c 0x130 + 1) % 2 ^ 64 ∧
        (∀ i ∈ ins, (i < 16 ∨ 20 ≤ i) → SMap.get [] (t.mod.fur c).queues i = (SMap.get [] f.queues i).tail) ∧
        (∀ i ∈ ins, 16 ≤ i → i < 20 → SMap.get [] (t.mod.fur c).taken (i - 16) = []) ∧
        (∀ i, i ∉ ins → SMap.get [] (t.mod.fur c).queues i = SMap.get [] f.queues i) ∧
        (x.op ≠ 2 → t.mod.core c = s.mod.core c) ∧
        ∃ fire, (t.mod.fur c).firings = f.firings ++ [fire] ∧ fire.rule = r ∧ fire.routine = decide (x.op = 2) ∧
          (x.op ∈ [3, 4, 5, 6] → steer x.op (ins.filterMap f.head) (x.outs.getD 0 0) (x.outs.getD 1 0) ≠ [] →
            fire.outs = steer x.op (ins.filterMap f.head) (x.outs.getD 0 0) (x.outs.getD 1 0)) ∧
          (∀ d l, ins.filterMap f.head = d :: l →
            (x.op = 0 → ∃ y, y.tag = d.tag ∧ y.len = d.len ∧ fire.outs = x.outputs.map (fun o => (o, some y))) ∧
            (x.op = 1 → ∃ y, y.tag = d.tag ∧ y.len = 256 ∧ y.ctl = false ∧ fire.outs = [(x.outs.getD 0 0, some y)])) ∧
          (x.op = 2 → (t.mod.core c).pc = BitVec.ofNat 16 x.entry ∧ (t.mod.core c).cs.level = true ∧
            ∃ y, (t.mod.core c).routine = some y ∧ y.rule = r ∧ y.pc = (s.mod.core c).pc ∧ y.level = (s.mod.core c).cs.level ∧ y.count = 0))) ∧
  (
    ∀ c r o (y : Token) (x : Firing) s, isCore c = true →
      let f := s.mod.fur c
      f.firings = [x] → x.rule = r → x.routine = false → x.outs = [(o, some y)] →
      (isLocal o = true → ∃ t, exec (.firingOutput c r) s = .next t ∧ t.mod.fur c = { f with firings := [], arriving := f.arriving ++ [(o, y)] }) ∧
      (isEj o = true → ∃ t, exec (.firingOutput c r) s = .next t ∧
        t.mod.fur c = { f with firings := [], ejecting := f.ejecting ++ [(o - 0x30, y)] }) ∧
      (∀ n j, isLane o = true → laneTarget c o = some (n, j) → (s.mod.fur n).stream = true →
        ∃ t, exec (.firingOutput c r) s = .next t ∧ t.mod.fur c = { f with firings := [] } ∧
          t.mod.fur n = { s.mod.fur n with arriving := (s.mod.fur n).arriving ++ [(j, y)] }))

/-- A token enters its queue, or its extension ring once 8 are held; a sink discards and counts it; one of the other kind is a furrow fault
(R292, R310, R311). An injector takes the token of slot TAKE mod S, spending a permit where it is gated; more than S tokens is OVERRUN
(R301, R302). An ejector writes its token and its header to slot PUT mod S and increments its counter by 1 (R303). -/
def Obligations.FurrowTokens : Prop :=
  (
    ∀ c i (y : Token) s, isCore c = true → i < 24 → (i < 16 ∨ 20 ≤ i) →
      let f := s.mod.fur c
      let q := SMap.get [] f.queues i
      let e := SMap.get (0, 0) f.ext i
      let cfg := s.mod.furReg c (0x200 + i * 8)
      f.arriving = [(i, y)] →
      (f.sink = true → ∃ t, exec (.tokenArrival c i) s = .next t ∧ t.mod.fur c = { f with arriving := [] } ∧
        t.mod.furReg c 0x128 = (s.mod.furReg c 0x128 + 1) % 2 ^ 64) ∧
      (f.sink = false → f.stream = true → s.mod.inEn c i = true → s.mod.inCtl c i = y.ctl → e.2 = 0 → q.length < 8 →
        exec (.tokenArrival c i) s = .next (s.upd (fun m => (m.stir c).setFur c { f with arriving := [], queues := SMap.put [] f.queues i (q ++ [y]) }))) ∧
      (f.sink = false → f.stream = true → s.mod.inEn c i = true → s.mod.inCtl c i = y.ctl → (e.2 ≠ 0 ∨ 8 ≤ q.length) → bits cfg 2 1 = 1 →
        e.2 < ringSlots cfg → s.mod.bad = [] →
        ∃ t, exec (.tokenArrival c i) s = .next t ∧ (t.mod.fur c).queues = f.queues ∧ SMap.get (0, 0) (t.mod.fur c).ext i = (e.1, e.2 + 1) ∧
          t.mod.rd (loftKey c + slotHeader cfg ((e.1 + e.2) % ringSlots cfg)) 8 = y.header % 2 ^ 64) ∧
      (f.sink = false → f.stream = true → s.mod.inEn c i = true → s.mod.inCtl c i ≠ y.ctl →
        ∃ t, exec (.tokenArrival c i) s = .next t ∧ (t.mod.fur c).sink = true ∧ (t.mod.fur c).queues = [] ∧ t.mod.errSet (c / 256) (furPage c) 9 ∧
          t.mod.irqSet (c / 256) (furPage c) 0 ∧ (s.mod.furReg c 0x038 = 0 → t.mod.furReg c 0x040 % 256 = 4))) ∧
  (
    (∀ c k s, isCore c = true → k < 4 → s.mod.injOpen c k = true → SMap.get [] (s.mod.fur c).taken k = [] → s.mod.bad = [] →
      let cfg := s.mod.inCfg c (16 + k)
      let take := s.mod.furReg c (0x400 + k * 8)
      let h := s.mod.rd (loftKey c + slotHeader cfg (take % ringSlots cfg)) 8
      (0 < s.mod.injAvail c k → s.mod.injAvail c k ≤ ringSlots cfg →
        bits h 8 9 ≤ 256 → bits h 8 2 = 0 → (bits h 17 1 = 1 ↔ s.mod.inCtl c (16 + k) = true) → bits h 18 46 = 0 →
        ∃ t, exec (.injectorTake c k) s = .next t ∧ t.mod.mem = s.mod.mem ∧ t.mod.furReg c (0x400 + k * 8) = (take + 1) % 2 ^ 64 ∧
          (∃ y, SMap.get [] (t.mod.fur c).taken k = [y] ∧ y.header = h ∧
            y.data = s.mod.rd (loftKey c + slotData cfg (take % ringSlots cfg)) (if y.ctl then 8 else y.len)) ∧
          (bits cfg 2 1 = 1 → t.mod.furReg c (0x420 + k * 8) + 1 = s.mod.furReg c (0x420 + k * 8)) ∧
          (bits cfg 2 1 = 0 → t.mod.furReg c (0x420 + k * 8) = s.mod.furReg c (0x420 + k * 8))) ∧
      (ringSlots cfg < s.mod.injAvail c k → ∃ t, exec (.injectorTake c k) s = .next t ∧ (t.mod.fur c).sink = true ∧
        t.mod.errSet (c / 256) (furPage c) 9 ∧ (s.mod.furReg c 0x038 = 0 → t.mod.furReg c 0x040 % 256 = 6))) ∧
    (∀ c k (y : Token) x s, isCore c = true → k < 4 → (s.mod.fur c).stream = true → s.mod.bad = [] →
      let cfg := s.mod.ejCfg c k
      let put := s.mod.furReg c (0x440 + k * 8)
      let hk := loftKey c + slotHeader cfg (put % ringSlots cfg)
      let dk := loftKey c + slotData cfg (put % ringSlots cfg)
      bits cfg 0 1 = 1 → 0 < s.mod.ejRoom c k → s.mod.ejRoom c k ≤ ringSlots cfg → (s.mod.fur c).ejecting = [(k, y)] →
      cntOf (scRef c (bits cfg 3 5)) = some x →
      ∃ t, exec (.ejectorWrite c k) s = .next t ∧ (t.mod.fur c).ejecting = [] ∧ t.mod.rd hk 8 = y.header % 2 ^ 64 ∧
        t.mod.rd dk y.size = y.data % 2 ^ (8 * y.size) ∧ t.mod.furReg c (0x440 + k * 8) = (put + 1) % 2 ^ 64 ∧
        t.mod.cntVal x = min (s.mod.cntVal x + 1) (2 ^ 64 - 1) ∧
        (∀ a, (a < hk ∨ hk + 8 ≤ a) → (a < dk ∨ dk + y.size ≤ a) → SMap.get 0 t.mod.mem a = SMap.get 0 s.mod.mem a)))

/-- Entry begins by FURROW_CTRL.ENTER or by an armed counter, clearing ARMED; in stream mode it sets BUSY instead (R304, R306). Entry
completes in stream mode with TAKE, PUT and PERMIT 0, ENTERED set and segment 14 executable, loading the image's rules where IMG is 1; a
core that runs refuses it with reason 1 and changes nothing (R304, R306). DRAIN stops the injectors of a core in stream mode; an empty core
whose upstream neighbours have drained sets DRAINED; EXIT is then accepted and returns the core to program mode at its PC, and sets
NOT_DRAINED in any other case (R309, R312). -/
def Obligations.FurrowModes : Prop :=
  (
    (∀ a c s, isCore c = true → s.works a (c / 256) (furPage c) 0x100 = true → bitOn a.v 0 = true → bitOn a.v 3 = false → bitOn a.v 4 = false →
      let f := s.mod.fur c
      (f.stream = false → ∃ t, exec (.furrowEnter a) s = .next t ∧ t.mod.fur c = { f with loading := true } ∧ bits (t.mod.furReg c 0x100) 2 1 = 0 ∧
        bits (t.mod.furReg c 0x100) 1 1 = bits a.v.toNat 1 1) ∧
      (f.stream = true → ∃ t, exec (.furrowEnter a) s = .next t ∧ t.mod.fur c = f ∧ t.mod.errSet (c / 256) (furPage c) 11)) ∧
    (∀ c x s, isCore c = true → cntOf (s.mod.furReg c 0x118) = some x → (x.kind = 1 ∨ (x.kind = 0 ∧ x.die = c / 256 ∧ x.page = corePage c 6)) →
      bits (s.mod.furReg c 0x100) 2 1 = 1 → (s.mod.fur c).stream = false →
      (s.mod.furReg c 0x120 ≤ s.mod.cntVal x → ∃ t, exec (.furrowArmedEntry c) s = .next t ∧ t.mod.fur c = { s.mod.fur c with loading := true } ∧
        bits (t.mod.furReg c 0x100) 2 1 = 0) ∧
      (s.mod.cntVal x < s.mod.furReg c 0x120 → exec (.furrowArmedEntry c) s = .next s))) ∧
  (
    ∀ c s, isCore c = true → (s.mod.fur c).loading = true →
      let m := s.mod.setFur c { s.mod.fur c with loading := false }
      let k := s.mod.core c
      let img := bits (s.mod.furReg c 0x100) 1 1
      let base := bits (s.mod.furReg c 0x110) 8 14 * 256
      let entered := fun (t : State) => (t.mod.fur c).stream = true ∧ (t.mod.fur c).loading = false ∧ t.mod.irqSet (c / 256) (furPage c) 1 ∧
        bits (t.mod.seg c) 14 1 = 1 ∧ (∀ j, j < 4 → t.mod.furReg c (0x400 + 8 * j) = 0 ∧ t.mod.furReg c (0x420 + 8 * j) = 0 ∧
          t.mod.furReg c (0x440 + 8 * j) = 0)
      ((k.running = true ∨ k.halted = true) → ∃ t, exec (.furrowEntryComplete c) s = .next t ∧ t.mod.fur c = { s.mod.fur c with loading := false } ∧
        t.mod.pm = s.mod.pm ∧ t.mod.core c = k ∧ t.mod.errSet (c / 256) (furPage c) 8 ∧ t.mod.irqSet (c / 256) (furPage c) 3 ∧
        (s.mod.furReg c 0x038 = 0 → t.mod.furReg c 0x040 % 256 = 1) ∧
        (∀ off, 0x200 ≤ off → off < 0x400 → off % 8 = 0 → t.mod.furReg c off = s.mod.furReg c off)) ∧
      (k.running = false → k.halted = false → k.mxq = [] → k.tmuls = [] → img = 0 → m.furCheck c none = none →
        ∃ t, exec (.furrowEntryComplete c) s = .next t ∧ entered t ∧ t.mod.pm = s.mod.pm ∧ t.mod.mem = s.mod.mem) ∧
      (∀ g ttag, k.running = false → k.halted = false → k.mxq = [] → k.tmuls = [] → img = 1 → bits (s.mod.seg c) 30 1 = 0 → s.mod.bad = [] →
        let h := s.mod.rd (loftKey c + base) 16
        base + 0x400 ≤ 0x400000 → h % 256 = 1 → bits h 16 11 ≤ 1024 → bits h 32 8 = 0 → ttag = bits h 64 64 →
        g = { base := base, p := bits h 16 11, tmask := 0 } → base + g.size ≤ 0x400000 → (m.loadImage c g ttag).furCheck c (some g) = none →
        ∃ t, exec (.furrowEntryComplete c) s = .next t ∧ entered t ∧ t.mod.mem = s.mod.mem ∧
          (∀ i, i < 128 → t.mod.parcel c (0xEF80 + i) = BitVec.ofNat 14 (s.mod.rd (loftKey c + base + 0x300 + 2 * i) 2)) ∧
          (∀ i, i < g.p → t.mod.parcel c (0xE000 + i) = BitVec.ofNat 14 (s.mod.rd (loftKey c + base + 0x400 + 2 * i) 2)))) ∧
  (
    (∀ a c s, isCore c = true → s.works a (c / 256) (furPage c) 0x100 = true → bitOn a.v 0 = false → bitOn a.v 3 = true → bitOn a.v 4 = false →
      (s.mod.fur c).stream = true →
      ∃ t, exec (.furrowDrain a) s = .next t ∧ t.mod.fur c = { s.mod.fur c with drainReq := true } ∧ ∀ k, t.mod.injOpen c k = false) ∧
    (∀ c s, isCore c = true → let f := s.mod.fur c
      f.stream = true → f.drainReq = true → f.drained = false → f.isEmpty = true →
      ((∀ i n, i < 16 → s.mod.inEn c i = true → laneNeighbour c (i / 4) = some n → (s.mod.fur n).drained = true) →
        ∃ t, exec (.furrowDrained c) s = .next t ∧ t.mod.fur c = { f with drained := true } ∧ t.mod.irqSet (c / 256) (furPage c) 2) ∧
      (∀ i n, i < 16 → s.mod.inEn c i = true → laneNeighbour c (i / 4) = some n → (s.mod.fur n).drained = false →
        exec (.furrowDrained c) s = .next s)) ∧
    (∀ a c s, isCore c = true → s.works a (c / 256) (furPage c) 0x100 = true → bitOn a.v 0 = false → bitOn a.v 3 = false → bitOn a.v 4 = true →
      let f := s.mod.fur c
      (f.stream = true → (f.drained = true ∨ (f.sink = true ∧ f.isEmpty = true)) → (s.mod.core c).routine = none →
        ∃ t, exec (.furrowExit a) s = .next t ∧ (t.mod.fur c).stream = false ∧ (t.mod.fur c).drainReq = false ∧ (t.mod.core c).pc = (s.mod.core c).pc ∧
          (t.mod.core c).running = (s.mod.core c).running) ∧
      (f.stream = true → f.drained = false → f.sink = false →
        ∃ t, exec (.furrowExit a) s = .next t ∧ t.mod.fur c = f ∧ t.mod.errSet (c / 256) (furPage c) 10)))

/-- A block that arrives whole and in order advances the expected block, and its CHECK frame's acknowledgement and NAK are taken; a packet
that it completes has crossed. Any other block is discarded, sets NAK and is counted. REPLAY sends again the blocks kept, and retrains the
link at the eighth replay in a row; a missing CHECK frame retrains with reason REPLAY (R334, R335, R336). An end in DATA or LP sends its
epoch and mask, and compares those of its partner: another epoch retrains with reason partner reset, another mask records the difference and
retrains; a lost beacon is recorded; a partner in DR is waited for (R343, R344). -/
def Obligations.DieLinkTraffic : Prop :=
  (
    (∀ l low x die page k a1 blk s, linkOf die page = some (l, low) → linkPartner die page = some x → k < linkBundles l →
      s.mod.linkState die page = 3 → s.mod.linkState x.1 x.2 = 3 → s.mod.fld die page 0x108 k 1 = 1 → s.mod.fld x.1 x.2 0x108 (convBundle l k) 1 = 1 →
      let a := s.mod.bundle x.1 x.2 (convBundle l k)
      let b := s.mod.bundle die page k
      let b1 := b.acked ((a.expect + 65535) % 65536) a.naking
      let ready := s.mod.linkReady x.1 x.2 (convBundle l k)
      a.send b.buffer ready = some (blk, a1) → blk.seq < 65536 →
      (blk.seq = b.expect → ∃ t, exec (.checkFrame die page k 0 0 0 0) s = .next t ∧ t.mod.bundle x.1 x.2 (convBundle l k) = a1 ∧
        t.mod.bundle die page k = (b1.deliver blk.frames ready).1 ∧ (t.mod.bundle die page k).expect = (b.expect + 1) % 65536 ∧
        (t.mod.bundle die page k).naking = false ∧ (t.mod.bundle die page k).replay = (b.replay || a.naking) ∧
        t.mod.reg die page 0x150 = s.mod.reg die page 0x150 ∧
        (∀ r, s.mod.net = [r] → s.mod.hostQ = [] → r.path.atEnd x.1 x.2 (convBundle l k) = true →
          (∃ y ∈ (b1.deliver blk.frames ready).2, y.born = r.path.born) → t.mod.net = [{ r with path := r.path.cross }])) ∧
      (blk.seq ≠ b.expect → ∃ t, exec (.checkFrame die page k 0 0 0 0) s = .next t ∧ t.mod.bundle die page k = { b1 with naking := true } ∧
        t.mod.net = s.mod.net ∧ t.mod.reg die page 0x150 = (s.mod.reg die page 0x150 + 1) % 2 ^ 64) ∧
      (∀ frames seq reply crc, blockOk frames crc = false → ∃ t, exec (.checkFrame die page k frames seq reply crc) s = .next t ∧ t.mod.bundle die page k = { b with naking := true } ∧
        t.mod.net = s.mod.net ∧ t.mod.reg die page 0x150 = (s.mod.reg die page 0x150 + 1) % 2 ^ 64)) ∧
    (∀ die page k s, isLinkEnd die page = true → k < 16 → s.mod.linkState die page = 3 → (s.mod.bundle die page k).replay = true →
      let b := s.mod.bundle die page k
      (b.replays < 7 → ∃ t, exec (.replay die page k) s = .next t ∧
        t.mod.bundle die page k = { b with replay := false, replays := b.replays + 1, resend := b.kept } ∧
        t.mod.reg die page 0x148 = (s.mod.reg die page 0x148 + b.kept.length) % 2 ^ 64) ∧
      (7 ≤ b.replays → s.mod.linkEnabled die page = true → ∃ t, exec (.replay die page k) s = .next t ∧ t.mod.errSet die page 11 ∧
        t.mod.trains die page 4)) ∧
    (∀ die page s, isLinkEnd die page = true → s.mod.linkState die page = 3 → s.mod.linkEnabled die page = true →
      ∃ t, exec (.checkTimeout die page) s = .next t ∧ t.mod.errSet die page 11 ∧ t.mod.trains die page 4 ∧
        t.mod.reg die page 0x140 = (s.mod.reg die page 0x140 + 1) % 2 ^ 64)) ∧
  (
    (∀ die page x s, linkPartner die page = some x → s.mod.inData die page = true →
      ∃ t, exec (.beaconSend die page) s = .next t ∧
        t.mod.beacons = s.mod.beacons ++ [{ die := x.1, page := x.2, epoch := s.aon.epoch die, mask := s.mod.fld die page 0x108 0 12 }]) ∧
    (∀ die page l low b s, linkOf die page = some (l, low) → s.mod.inData die page = true → s.mod.linkEnabled die page = true →
      s.mod.beacons = [b] → b.die = die → b.page = page →
      (b.epoch = s.mod.fld die page 0x110 16 16 → convMask l b.mask = s.mod.fld die page 0x108 0 12 →
        exec (.beaconReceive die page) s = .next (s.upd (fun m => { m with beacons := [] }))) ∧
      (b.epoch ≠ s.mod.fld die page 0x110 16 16 →
        ∃ t, exec (.beaconReceive die page) s = .next t ∧ t.mod.beacons = [] ∧ t.mod.trains die page 2) ∧
      (b.epoch = s.mod.fld die page 0x110 16 16 → convMask l b.mask ≠ s.mod.fld die page 0x108 0 12 →
        ∃ t, exec (.beaconReceive die page) s = .next t ∧ t.mod.beacons = [] ∧ t.mod.trains die page 3 ∧ t.mod.errSet die page 8 ∧
          t.mod.irqSet die page 3)) ∧
    (∀ die page s, isLinkEnd die page = true → s.mod.inData die page = true →
      ∃ t, exec (.beaconLost die page) s = .next t ∧ t.mod.errSet die page 9 ∧ t.mod.linkState die page = s.mod.linkState die page) ∧
    (∀ die page x s, linkPartner die page = some x → s.mod.dr.contains x.1 = true → s.mod.dr.contains die = false →
      s.mod.linkState die page ≠ 5 →
      ∃ t, exec (.resetNotice die page) s = .next t ∧ t.mod.linkState die page = 1 ∧ t.mod.mem = s.mod.mem))

/-- Training adopts at each end the bundles that both allow and that are usable or repairable, takes the partner's epoch, and ends in DATA,
or in DOWN where no bundle is left (R338 to R342); an end without TRAIN_ACK enters DOWN, and DOWN tries again (R342). RETRAIN trains both
ends with reason 5; LP moves both ends between DATA and LP, and a frame that is ready wakes them (R346, R347). -/
def Obligations.DieLinkStates : Prop :=
  (
    (∀ l da pa db pb rxLow rxHigh s, linkTable[l]? = some (da, pa, db, pb) → s.aon.powered = true → s.mod.mayTrain da pa = true →
      s.mod.mayTrain db pb = true →
      let u := s.aon.usable l rxLow rxHigh
      let locA := u &&& s.mod.fld da pa 0x100 16 12
      let locB := convMask l u &&& s.mod.fld db pb 0x100 16 12
      let ended := fun (m : Mod) (die page loc partner epoch : Nat) =>
        m.fld die page 0x108 0 16 = loc &&& partner ∧ m.fld die page 0x108 16 16 = loc ∧ m.fld die page 0x108 32 16 = partner ∧
          m.fld die page 0x110 16 16 = epoch % 2 ^ 16 ∧
          (loc &&& partner ≠ 0 → m.linkState die page = 3 ∧ m.irqSet die page 4) ∧
          (loc &&& partner = 0 → m.linkState die page = 5 ∧ m.errSet die page 10 ∧ m.irqSet die page 0)
      ∃ t, exec (.training l rxLow rxHigh) s = .next t ∧ ended t.mod da pa locA (convMask l locB) (s.aon.epoch db) ∧
        ended t.mod db pb locB (convMask l locA) (s.aon.epoch da)) ∧
    (∀ die page x s, linkPartner die page = some x → s.aon.powered = true →
      (s.mod.linkState die page = 2 ∨ s.mod.linkState die page ≤ 1 ∧ s.mod.linkEnabled die page = true ∧ s.mod.dr.contains die = false ∧ s.mod.dr.contains x.1 = false) →
      ∃ t, exec (.trainAckTimeout die page) s = .next t ∧ t.mod.linkState die page = 5 ∧ t.mod.errSet die page 10 ∧ t.mod.irqSet die page 0) ∧
    (∀ die page x s, linkPartner die page = some x → s.mod.linkState die page = 5 → s.mod.linkEnabled die page = true →
      s.mod.linkEnabled x.1 x.2 = true → ∃ t, exec (.downRetry die page) s = .next t ∧ t.mod.trains die page 6)) ∧
  (
    (∀ a die page x s, linkPartner die page = some x → s.works a die page 0x100 = true → bitOn a.v 0 = true →
      bits a.v.toNat 1 1 = s.mod.fld die page 0x100 1 1 → 3 ≤ s.mod.linkState die page →
      ∃ t, exec (.dielinkRetrain a) s = .next t ∧ t.mod.trains die page 5 ∧ t.mod.fld die page 0x100 16 12 = bits a.v.toNat 16 12 ∧
        (3 ≤ s.mod.linkState x.1 x.2 → s.mod.linkEnabled x.1 x.2 = true → t.mod.trains x.1 x.2 5)) ∧
    (∀ a die page x s, linkPartner die page = some x → s.works a die page 0x100 = true → bitOn a.v 0 = false → bitOn a.v 1 = true →
      s.mod.fld die page 0x100 1 1 = 0 → s.mod.linkState die page = 3 → s.mod.linkState x.1 x.2 = 3 →
      ∃ t, exec (.lpEnter a) s = .next t ∧ t.mod.linkState die page = 4 ∧ t.mod.linkState x.1 x.2 = 4) ∧
    (∀ a die page x s, linkPartner die page = some x → s.works a die page 0x100 = true → bitOn a.v 0 = false → bitOn a.v 1 = false →
      s.mod.fld die page 0x100 1 1 = 1 → s.mod.linkState die page = 4 → s.mod.linkState x.1 x.2 = 4 →
      ∃ t, exec (.lpExit none a) s = .next t ∧ t.mod.linkState die page = 3 ∧ t.mod.linkState x.1 x.2 = 3 ∧ t.mod.irqSet die page 4) ∧
    (∀ a die page x s, linkPartner die page = some x → s.aon.powered = true → s.mod.linkState die page = 4 → s.mod.linkState x.1 x.2 = 4 →
      (s.mod.linkWaits die page = true ∨ s.mod.linkWaits x.1 x.2 = true) →
      ∃ t, exec (.lpExit (some (die, page)) a) s = .next t ∧ t.mod.linkState die page = 3 ∧ t.mod.linkState x.1 x.2 = 3))

/-- A read at its home Barn answers the bytes, poison where the granule is poisoned, and an access error where the Barn's own table gave and
gives it to the other; a write stores its masked bytes (R15, R16, R354, R355). A FAST write adds each element whose bytes are all present to
the one in memory, outside EXACT buffers; an EXACT write adds its integers to the bins of its buffer, setting RANGE or NONFIN for a value
outside it, and leaves memory; either is refused elsewhere (R357, R359). -/
def Obligations.BarnMemory : Prop :=
  (
    ∀ id r l s, s.mod.findReq id = some r → decodeMpa r.mpa = .hbm l → r.waiting = true → r.path.flit = .clean → r.use.isGone = false →
      s.mod.hostOther id → s.mod.mustFollow r = false → s.mod.farWaits r.mpa = false → s.mod.deadStacks = [] → (r.home = 4 ∨ r.home = 5) →
      let b := r.home - 4
      let a := r.mpa % 2 ^ 38
      let k := hbmKey b a
      s.mod.granuleOk b a →
      ((r.owned = true ∨ s.mod.homeBarn r.home r.mpa = b) → s.mod.gPoison b a = false →
        (r.op = .read → ∃ t, exec (.barnRead id) s = .next t ∧ t.mod.answered id r (.data (s.mod.rd k r.len)) ∧ t.mod.mem = s.mod.mem) ∧
        (∀ mask data, r.op = .write mask data → ∃ t, exec (.barnWrite id) s = .next t ∧ t.mod.answered id r .ok ∧
          t.mod.stored s.mod k r.len mask data)) ∧
      ((r.owned = true ∨ s.mod.homeBarn r.home r.mpa = b) → s.mod.gPoison b a = true →
        (r.op = .read → ∃ t, exec (.barnRead id) s = .next t ∧ t.mod.answered id r .poison) ∧
        (∀ mask data, r.op = .write mask data → (r.len = 64 → mask ≠ 2 ^ 64 - 1) →
          ∃ t, exec (.barnWrite id) s = .next t ∧ t.mod.answered id r .poison ∧ t.mod.mem = s.mod.mem) ∧
        (∀ data, r.op = .write (2 ^ 64 - 1) data → r.len = 64 →
          ∃ t, exec (.barnWrite id) s = .next t ∧ t.mod.answered id r .ok ∧ t.mod.gPoison b a = false)) ∧
      (r.owned = false → s.mod.homeBarn r.home r.mpa ≠ b → r.op = .read →
        ∃ t, exec (.barnRead id) s = .next t ∧ t.mod.answered id r .err ∧ t.mod.errSet r.home placePage 8 ∧ t.mod.mem = s.mod.mem)) ∧
  (
    ∀ id r l mask data fmt s, s.mod.findReq id = some r → decodeMpa r.mpa = .hbm l → r.waiting = true → r.path.flit = .clean →
      r.use.isGone = false → s.mod.hostOther id → s.mod.mustFollow r = false → s.mod.farWaits r.mpa = false → s.mod.deadStacks = [] →
      (r.home = 4 ∨ r.home = 5) →
      let die := r.home
      let b := die - 4
      let k := hbmKey b (r.mpa % 2 ^ 38)
      let w := if fmt = 1 then 2 else 4
      s.mod.granuleOk b (r.mpa % 2 ^ 38) → s.mod.gPoison b (r.mpa % 2 ^ 38) = false → (r.owned = true ∨ s.mod.homeBarn die r.mpa = b) →
      (r.op = .accFast mask data fmt → s.mod.accAt die r.mpa = none → s.mod.accAt die (r.mpa + r.len - 1) = none →
        ∃ t, exec (.accumulatingWriteFast id) s = .next t ∧ t.mod.answered id r .ok ∧
          (∀ i, i < r.len / w → bits mask (w * i) w = 2 ^ w - 1 →
            t.mod.rd (k + w * i) w = fastSum fmt (s.mod.rd (k + w * i) w) (bits data (8 * w * i) (8 * w)) % 2 ^ (8 * w)) ∧
          (∀ a, (∀ i, i < r.len / w → bits mask (w * i) w = 2 ^ w - 1 → a < k + w * i ∨ k + w * i + w ≤ a) →
            SMap.get 0 t.mod.mem a = SMap.get 0 s.mod.mem a) ∧
          t.mod.reg die granaryPage 0x158 = (s.mod.reg die granaryPage 0x158 + 1) % 2 ^ 64) ∧
      (r.op = .accFast mask data fmt → (s.mod.accAt die r.mpa).isSome = true →
        ∃ t, exec (.accumulatingWriteFast id) s = .next t ∧ t.mod.answered id r .err ∧ t.mod.errSet die granaryPage 10 ∧ t.mod.mem = s.mod.mem) ∧
      (∀ n, r.op = .accExact mask data fmt → s.mod.accAt die r.mpa = some n →
        r.mpa + r.len ≤ s.mod.accBase die n + 4 * s.mod.accCount die n → s.mod.accMoved.contains (die * 16 + n) = false →
        s.mod.accInt die n = (fmt == 2) →
        let e := (r.mpa - s.mod.accBase die n) / 4
        ∃ t, exec (.accumulatingWriteExact id) s = .next t ∧ t.mod.answered id r .ok ∧ t.mod.mem = s.mod.mem ∧
          (∀ i, i < r.len / 4 → bits mask (4 * i) 4 = 15 →
            (∀ v, contribution (s.mod.accInt die n) (s.mod.accAnchor die n) (bits data (32 * i) 32) = .inl v →
              SMap.get 0 t.mod.bins (s.mod.binKey die n (e + i)) = SMap.get 0 s.mod.bins (s.mod.binKey die n (e + i)) + BitVec.ofInt 128 v) ∧
            (∀ f, contribution (s.mod.accInt die n) (s.mod.accAnchor die n) (bits data (32 * i) 32) = .inr f →
              bits (t.mod.accReg die n 5) f 1 = 1)) ∧
          (∀ j, (∀ i, i < r.len / 4 → j ≠ s.mod.binKey die n (e + i)) → SMap.get 0 t.mod.bins j = SMap.get 0 s.mod.bins j)) ∧
      (r.op = .accExact mask data fmt → s.mod.accAt die r.mpa = none →
        ∃ t, exec (.accumulatingWriteExact id) s = .next t ∧ t.mod.answered id r .err ∧ t.mod.errSet die granaryPage 10 ∧
          t.mod.bins = s.mod.bins ∧ t.mod.mem = s.mod.mem))

/-- An access through a Loft window is admitted or refused by the destination's ring stop; admitted, it reads the Loft or stores its masked
bytes (R195, R329). A patrol read corrects the correctable errors of its granule; one that finds an uncorrectable error poisons the granule
and records it; a controller stores its stack's temperature, doubles the refresh rate above 85 °C, and stores its ECS count (R355, R356). -/
def Obligations.WindowsAndControllers : Prop :=
  (
    ∀ id r c off s, s.mod.findReq id = some r → decodeMpa r.mpa = .loft c off → r.waiting = true → r.path.flit = .clean →
      r.use.isGone = false → s.mod.hostOther id → s.mod.mustFollow r = false → s.mod.coreSweep c = false → s.mod.bad = [] →
      (s.mod.windowDenied r.tag r.die c = none → r.op = .read →
        ∃ t, exec (.loftWindowAccess id) s = .next t ∧ t.mod.answered id r (.data (s.mod.rd (loftKey c + off) r.len)) ∧ t.mod.mem = s.mod.mem) ∧
      (∀ mask data, s.mod.windowDenied r.tag r.die c = none → r.op = .write mask data →
        ∃ t, exec (.loftWindowAccess id) s = .next t ∧ t.mod.answered id r .ok ∧
          t.mod.stored s.mod (loftKey c + off) r.len mask data) ∧
      (∀ b, s.mod.windowDenied r.tag r.die c = some b →
        ∃ t, exec (.loftWindowAccess id) s = .next t ∧ t.mod.answered id r .err ∧ t.mod.mem = s.mod.mem ∧
          (r.q ≠ hostCode → t.mod.errSet (c / 256) (2048 + c % 256) b)) ∧
      (∀ tag, s.mod.windowDenied tag r.die c = none ↔ s.mod.retired c = false ∧ (tag = 16 ∨
        (r.die = c / 256 ∧ (tag = s.mod.partition c ∨ s.mod.fld (c / 256) (2048 + c % 256) 0x100 tag 1 = 1)) ∨
        (r.die ≠ c / 256 ∧ s.mod.fld (c / 256) (2048 + c % 256) 0x100 16 1 = 1)))) ∧
  (
    (∀ k l s, k < 8 → s.aon.powered = true →
      let b := k / 4
      let a := l / 64 * 64 % 2 ^ 38
      s.mod.fld (4 + b) (2064 + k % 4) 0x108 0 16 ≠ 0 → stackOf b a = k → s.mod.deadStacks.contains k = false →
      s.mod.poisoned.contains (hbmKey b a / 64) = false → s.mod.wordsOk (hbmKey b a) 64 = false →
      ∃ t, exec (.patrolRead k l) s = .next t ∧ t.mod.poisoned = s.mod.poisoned ++ [hbmKey b a / 64] ∧ t.mod.errSet (4 + b) (2064 + k % 4) 8 ∧
        t.mod.reg (4 + b) (2064 + k % 4) 0x148 = (s.mod.reg (4 + b) (2064 + k % 4) 0x148 + 1) % 2 ^ 64 ∧ t.mod.mem = s.mod.mem) ∧
    (∀ k l s, k < 8 → s.aon.powered = true →
      let b := k / 4
      let a := l / 64 * 64 % 2 ^ 38
      s.mod.fld (4 + b) (2064 + k % 4) 0x108 0 16 ≠ 0 → stackOf b a = k → s.mod.deadStacks.contains k = false →
      s.mod.poisoned.contains (hbmKey b a / 64) = false → s.mod.wordsOk (hbmKey b a) 64 = true →
      ∃ t, exec (.patrolRead k l) s = .next t ∧ t.mod.mem = s.mod.mem ∧ t.mod.poisoned = s.mod.poisoned ∧
        (∀ x, x ∈ t.mod.ce ↔ x ∈ s.mod.ce ∧ (x < hbmKey b a / 64 * 8 ∨ hbmKey b a / 64 * 8 + 8 ≤ x))) ∧
    (∀ k v s, k < 8 → s.aon.powered = true →
      (∃ t, exec (.ecsRead k v) s = .next t ∧ t.mod.reg (4 + k / 4) (2064 + k % 4) 0x150 = v % 2 ^ 32) ∧
      (∃ t, exec (.doubledRefresh k v) s = .next t ∧ t.mod.fld (4 + k / 4) (2064 + k % 4) 0x100 8 8 = v % 256 ∧
        t.mod.fld (4 + k / 4) (2064 + k % 4) 0x100 1 1 = (if 85 < v % 256 then 1 else 0))))

/-- Enabling an accumulation buffer stores its base, checks its descriptor, zeroes its bins and clears its flags, or records ACC_CFG with
the reason; disabling discards its bins, after an operation in progress (R358). FINALISE writes the value of every bin of a buffer to memory
and nothing else, then discards the bins unless KEEP is set; ZERO zeroes them and clears the flags; completion counts, signals and
interrupts as DONE says and clears BUSY (R360, R361). A write of a placement entry stores its NOALLOC bits there and its SPREAD bits in both
entries of its pair, and disturbs an enabled EXACT buffer whose placement it changes (R353, R361). -/
def Obligations.AccumulationAndPlacement : Prop :=
  (
    (∀ a die n s, (die = 4 ∨ die = 5) → n < 16 → s.works a die granaryPage (accOffset n 0) = true → bitOn a.v 0 = true → s.mod.accEn die n = false →
      let m := s.mod.setFld die granaryPage (accOffset n 0) 6 38 (bits a.v.toNat 6 38)
      (m.accCheck die n = none → ∃ t, exec (.accEnable a) s = .next t ∧ t.mod.accEn die n = true ∧ t.mod.accBase die n = bits a.v.toNat 6 38 * 64 ∧
        (∀ e, e < s.mod.accCount die n → SMap.get 0 t.mod.bins (s.mod.binKey die n e) = 0) ∧ bits (t.mod.accReg die n 5) 1 3 = 0) ∧
      (∀ r, m.accCheck die n = some r → ∃ t, exec (.accEnable a) s = .next t ∧ t.mod.accEn die n = false ∧ t.mod.bins = s.mod.bins ∧
        t.mod.errSet die granaryPage 9 ∧ (s.mod.reg die granaryPage 0x038 = 0 → t.mod.reg die granaryPage 0x040 % 2 ^ 32 = n + r * 256))) ∧
    (∀ a die n s, (die = 4 ∨ die = 5) → n < 16 → s.works a die granaryPage (accOffset n 0) = true → bitOn a.v 0 = false → s.mod.accEn die n = true →
      (s.mod.accBusy die n = false → ∃ t, exec (.accDisable a) s = .next t ∧ t.mod.accEn die n = false ∧ t.mod.mem = s.mod.mem ∧
        (∀ e, e < s.mod.accCount die n → SMap.get 0 t.mod.bins (s.mod.binKey die n e) = 0)) ∧
      (s.mod.accBusy die n = true → ∃ t, exec (.accDisable a) s = .next t ∧ t.mod.accEn die n = true ∧ t.mod.bins = s.mod.bins ∧
        t.mod.accOff.contains (die * 16 + n) = true)) ∧
    (∀ a die s, (die = 4 ∨ die = 5) → s.works a die granaryPage 0x100 = true →
      ((∀ n, n < 16 → s.mod.accEn die n = false) →
        ∃ t, exec (.granaryCtrlWrite a) s = .next t ∧ t.mod.fld die granaryPage 0x100 0 4 = min 8 (a.v.toNat % 16) ∧
          (SMap.wf ([] : List GLine) s.mod.granary = true → ∀ set, set / 2 ^ 17 = die - 4 → ∀ g ∈ t.mod.gLines set, min 8 (a.v.toNat % 16) ≤ g.way)) ∧
      (∀ n, n < 16 → s.mod.accEn die n = true → ∃ t, exec (.granaryCtrlWrite a) s = .next t ∧ t.mod.errSet die granaryPage 11 ∧
        t.mod.reg die granaryPage 0x100 = s.mod.reg die granaryPage 0x100))) ∧
  (
    (∀ a b n s, b < 2 → n < 16 → s.works a (4 + b) granaryPage (accOffset n 3) = true → s.mod.accEn (4 + b) n = true → s.mod.accBusy (4 + b) n = false →
      let die := 4 + b
      let base := s.mod.accBase die n
      let cnt := s.mod.accCount die n
      let at_ := fun (e : Nat) => hbmKey b ((base + 4 * e) % 2 ^ 38)
      (bitOn a.v 1 = true → bitOn a.v 0 = false → s.mod.accMoved.contains (die * 16 + n) = false → s.mod.deadStacks = [] → s.mod.bad = [] →
        s.mod.poisoned = [] → s.mod.badBins = [] → (∀ e ∈ s.mod.granary, ∀ g ∈ e.2, g.poison = 0 ∧ g.bad = 0) →
        ∃ t, exec (.finalise a) s = .next t ∧ (∀ e, e < cnt → t.mod.rd (at_ e) 4 = s.mod.binValue die n e) ∧
          (∀ x, (∀ e, e < cnt → x < at_ e ∨ at_ e + 4 ≤ x) → SMap.get 0 t.mod.mem x = SMap.get 0 s.mod.mem x) ∧
          (bitOn a.v 2 = true → t.mod.bins = s.mod.bins) ∧
          (bitOn a.v 2 = false → ∀ e, e < cnt → SMap.get 0 t.mod.bins (s.mod.binKey die n e) = 0) ∧ t.mod.accBusy die n = true ∧
          t.mod.accOps = s.mod.accOps ++ [{ die := die, n := n, fin := true, keep := bitOn a.v 2, zero := false }]) ∧
      (bitOn a.v 0 = true → bitOn a.v 1 = false →
        ∃ t, exec (.zero a) s = .next t ∧ t.mod.mem = s.mod.mem ∧ (∀ e, e < cnt → SMap.get 0 t.mod.bins (s.mod.binKey die n e) = 0) ∧
          bits (t.mod.accReg die n 5) 1 3 = 0 ∧ t.mod.accBusy die n = true)) ∧
    (∀ a die n s, (die = 4 ∨ die = 5) → n < 16 → s.works a die granaryPage (accOffset n 3) = true → bitOn a.v 1 = true →
      (s.mod.accEn die n = false ∨ s.mod.accBusy die n = true) →
      ∃ t, exec (.finalise a) s = .next t ∧ t.mod.errSet die granaryPage 11 ∧ t.mod.mem = s.mod.mem ∧ t.mod.bins = s.mod.bins) ∧
    (∀ die n o s, (die = 4 ∨ die = 5) → n < 16 → s.mod.accOps = [o] → o.die = die → o.n = n → s.mod.accOff = [] →
      let d := s.mod.accReg die n 4
      (o.fin = true → ∃ t, exec (.finaliseComplete die n) s = .next t ∧ t.mod.accOps = [] ∧ t.mod.accBusy die n = false ∧
        bits (t.mod.accReg die n 5) 32 32 = (bits (s.mod.accReg die n 5) 32 32 + 1) % 2 ^ 32 ∧
        (bits d 33 1 = 1 → t.mod.irqSet die granaryPage 1) ∧ (bits d 32 1 = 0 → t.mod.incs = s.mod.incs) ∧
        (∀ x, bits d 32 1 = 1 → cntOf (bits d 0 32) = some x → s.mod.routeCut die x.die x.mpa = false →
          t.mod.sends s.mod (bits d 0 32) 1 (0xF00 + die))) ∧
      (o.fin = false → ∃ t, exec (.zeroComplete die n) s = .next t ∧ t.mod.accOps = [] ∧ t.mod.accBusy die n = false ∧ t.mod.incs = s.mod.incs))) ∧
  (
    ∀ a die k s, (die = 4 ∨ die = 5) → k < 64 → s.works a die placePage (0x200 + 8 * k) = true →
      ∃ t, exec (.placeEntWrite a) s = .next t ∧
        (∀ i, i < 8 → bits (t.mod.reg die placePage (0x200 + 8 * k)) (8 * i) 2 = bits a.v.toNat (8 * i) 2 ∧
          bits (t.mod.reg die placePage (0x200 + 8 * (k ^^^ 32))) (8 * i) 1 = bits a.v.toNat (8 * i) 1 ∧
          bits (t.mod.reg die placePage (0x200 + 8 * (k ^^^ 32))) (8 * i + 1) 1 = bits (s.mod.reg die placePage (0x200 + 8 * (k ^^^ 32))) (8 * i + 1) 1) ∧
        (∀ n g, n < 16 → g < 512 → s.mod.accEn die n = true → s.mod.spread die g ≠ t.mod.spread die g →
          g * 2 ^ 30 < s.mod.accBase die n + 4 * s.mod.accCount die n → s.mod.accBase die n < (g + 1) * 2 ^ 30 →
          t.mod.errSet die placePage 9 ∧ t.mod.accMoved.contains (die * 16 + n) = true))

/-- An accepted PPS edge captures TIME; with ALIGN it runs the servo, which steps TIME or steers INCR; an edge within 0.5 s is a glitch;
after 1.5 s without one the module holds over (R365, R366). SEC_APPLY and LOAD set TIME as R367 says, and LOAD under ALIGN sets TIME_WRITE;
a 32-bit read of the low half of CAD_TIME latches the high half (R367). -/
def Obligations.TimeOfDay : Prop :=
  (
    (∀ el s, s.aon.powered = true → s.mod.secPend = false →
      let a := s.aon.advance el
      let c := a.capture a.time
      let nom : Int := s.mod.nom
      (∀ l, a.ppsLast = some l → a.now - l < refSecond / 2 → exec (.ppsEdge el) s = .next { s with aon := { a with cntPpsGlitch := a.cntPpsGlitch + 1 } }) ∧
      ((∀ l, a.ppsLast = some l → refSecond / 2 ≤ a.now - l) →
        (s.mod.align = false → ∃ t, exec (.ppsEdge el) s = .next t ∧ t.aon.ppsCapt = c / 2 ^ 32 % 2 ^ 64 ∧ t.aon.ppsLost = false ∧
          t.aon.ppsLast = some a.now ∧ t.aon.time = a.time ∧ t.aon.incr = a.incr ∧ t.aon.trim = a.trim) ∧
        (s.mod.align = true →
          let ctrl := s.mod.reg 4 cadBw 0x110
          let e : Int := (c : Int) - (c + 2 ^ 63) / 2 ^ 64 * 2 ^ 64
          let corr := (-e).tdiv 100000000
          let trim := max (-36893488) (min 36893488 (a.trim + corr / 2 ^ bits ctrl 12 4))
          let far := a.ppsLocked = false ∨ bits ctrl 16 16 * 2 ^ 64 / 10 ^ 9 < e.natAbs
          ∃ t, exec (.ppsEdge el) s = .next t ∧ t.aon.ppsCapt = c / 2 ^ 32 % 2 ^ 64 ∧ t.aon.ppsLost = false ∧ t.aon.mono = a.mono ∧
            (far → (t.aon.time : Int) = ((a.time : Int) - e) % 2 ^ 96 ∧ t.aon.ppsLocked = true ∧ t.aon.phase = 0 ∧ t.aon.trim = a.trim ∧
              t.aon.incr = nom + a.trim ∧ t.mod.irqSet 4 cadBw 4) ∧
            (¬ far → t.aon.time = a.time ∧ t.aon.trim = trim ∧ t.aon.phase = corr / 2 ^ bits ctrl 8 4 ∧
              t.aon.incr = nom + trim + corr / 2 ^ bits ctrl 8 4)))) ∧
    (∀ l s, s.aon.ppsLast = some l → s.aon.ppsLost = false → s.aon.powered = true →
      ∃ t, exec .ppsLost s = .next t ∧ t.aon.ppsLost = true ∧ t.aon.ppsLocked = false ∧ t.aon.phase = 0 ∧ t.aon.incr = s.mod.nom + s.aon.trim ∧
        t.mod.irqSet 4 cadBw 0)) ∧
  (
    (∀ a s, s.works a 4 cadBw 0x110 = true → bitOn a.v 1 = true → bitOn a.v 2 = false →
      let sec := s.mod.fld 4 cadBw 0x108 32 32
      (bitOn a.v 0 = true → s.mod.align = true → s.aon.ppsLocked = true →
        ∃ t, exec (.secApply a) s = .next t ∧ t.mod.secPend = true ∧ t.aon.time = s.aon.time) ∧
      ((bitOn a.v 0 = false ∨ s.mod.align = false ∨ s.aon.ppsLocked = false) →
        ∃ t, exec (.secApply a) s = .next t ∧ t.aon.time = sec * 2 ^ 64 + s.aon.time % 2 ^ 64 ∧ t.aon.mono = s.aon.mono)) ∧
    (∀ a s, s.works a 4 cadBw 0x110 = true → bitOn a.v 1 = false → bitOn a.v 2 = true →
      (bitOn a.v 0 = false → ∃ t, exec (.load a) s = .next t ∧ t.aon.time = s.mod.reg 4 cadBw 0x108 * 2 ^ 32 ∧ t.aon.mono = s.aon.mono) ∧
      (bitOn a.v 0 = true → ∃ t, exec (.load a) s = .next t ∧ t.aon.time = s.aon.time ∧ t.mod.errSet 4 cadBw 12)) ∧
    (∀ a s, s.up = true → a.id = none → isReq a.q = true → a.mpa = regMpa 4 cadBw 0x100 → a.size = 4 →
      s.mod.regRefused a.q 4 cadBw 0x100 4 = none → s.mod.isFrozen 4 cadBw = false →
      ∃ t, exec (.cadTimeLowRead a) s = .next t ∧ t.mod.timeLatch = some (s.aon.time / 2 ^ 64 % 2 ^ 32) ∧ t.aon = s.aon))

/-- CAD_FRAME_CFG takes effect at the next frame edge; the free-run grid, an accepted house edge and holdover each begin a frame, which
counts by one, starts at line 0 with the settings then written, and is sent to every die; lines follow in order (R369 to R375). A tick word
with good parity moves its die to the position it names, entering the lines between, and records a gap; one with bad parity is discarded and
recorded (R376). -/
def Obligations.FramesAndTicks : Prop :=
  (
    (∀ a s, s.works a 4 cadBw 0x138 = true →
      ∃ t, exec (.frameCfgWrite a) s = .next t ∧ t.aon = s.aon ∧ t.mod.fld 4 cadBw 0x138 0 1 = bits a.v.toNat 0 1 ∧
        t.mod.fld 4 cadBw 0x138 8 4 = (if bits a.v.toNat 8 4 ≤ 11 then bits a.v.toNat 8 4 else 1) ∧
        t.mod.fld 4 cadBw 0x138 16 14 = (if 1 ≤ bits a.v.toNat 16 14 ∧ bits a.v.toNat 16 14 ≤ 8192 then bits a.v.toNat 16 14 else 1125)) ∧
    (∀ x s, let t := newFrame x s
      let cfg := s.mod.reg 4 cadBw 0x138
      t.aon.frameNum = (s.aon.frameNum + 1) % 2 ^ 64 ∧ t.aon.line = 0 ∧ t.aon.lastEdge = x ∧ t.aon.source = bits cfg 0 1 ∧
        t.aon.rate = bits cfg 8 4 ∧ t.aon.lpf = bits cfg 16 14 ∧ t.mod.ticked s.mod ((s.aon.frameNum + 1) % 2 ^ 64) 0 (bits cfg 16 14) ∧
        (s.aon.source = 0 → bits cfg 0 1 = 1 → t.aon.holdover = true) ∧ (s.aon.source = 1 → bits cfg 0 1 = 0 → t.aon.grid0 = x)) ∧
    (∀ s, s.aon.source = 0 → s.aon.powered = true → 0 < s.aon.incr →
      ∃ t, exec .freeRunEdge s = .next t ∧ t.aon.frameNum = (s.aon.frameNum + 1) % 2 ^ 64 ∧ t.aon.lastEdge = gridEdge s.aon (s.aon.gridK + 1)) ∧
    (∀ el s, s.aon.powered = true → s.aon.source = 1 →
      let a := s.aon.advance el
      let c := a.capture a.mono
      ((c - a.lastEdge) * 125 < 2 ^ 64 →
        exec (.frameInEdge el) s = .next { s with aon := { a with cntFrameGlitch := a.cntFrameGlitch + 1 } }) ∧
      (2 ^ 64 ≤ (c - a.lastEdge) * 125 → a.holdover = false → 2 * (c - a.lastEdge) < a.p →
        exec (.frameInEdge el) s = .next { s with aon := { a with cntFrameGlitch := a.cntFrameGlitch + 1 } }) ∧
      (2 ^ 64 ≤ (c - a.lastEdge) * 125 → a.p ≤ 2 * (c - a.lastEdge) →
        ∃ t, exec (.frameInEdge el) s = .next t ∧ t.aon.frameNum = (a.frameNum + 1) % 2 ^ 64 ∧ t.aon.lastEdge = c ∧
          (∀ l, bits (s.mod.reg 4 cadBw 0x138) 0 1 = 1 → a.holdover = false → a.lastIn = some l → 1 ≤ a.accepted →
            t.aon.period = c - l ∧ t.aon.locked = true ∧ (a.locked = false → t.mod.irqSet 4 cadBw 5))) ∧
      (2 ^ 64 ≤ (c - a.lastEdge) * 125 → a.holdover = true → 2 * (c - a.lastEdge) < a.p →
        ∃ t, exec (.frameInEdge el) s = .next t ∧ t.aon.frameNum = a.frameNum ∧ t.aon.lastEdge = c ∧ t.aon.holdover = false ∧ t.aon.line = a.line)) ∧
    (∀ s, s.aon.powered = true → s.aon.source = 1 → 0 < s.aon.incr →
      (s.aon.holdover = false → ∃ t, exec .frameLost s = .next t ∧ t.aon.holdover = true ∧ t.aon.locked = false ∧
        t.aon.frameNum = s.aon.frameNum ∧ t.mod.irqSet 4 cadBw 1) ∧
      (s.aon.holdover = true → ∃ t, exec .holdoverEdge s = .next t ∧ t.aon.frameNum = (s.aon.frameNum + 1) % 2 ^ 64 ∧
        t.aon.lastEdge = s.aon.holdBase + s.aon.holdK * s.aon.p ∧ t.aon.cntHold = s.aon.cntHold + 1)) ∧
    (∀ s, s.aon.powered = true → s.aon.begun = true → s.aon.line + 1 < s.aon.lpf → 0 < s.aon.incr →
      ∃ t, exec .lineBoundary s = .next t ∧ t.aon.line = s.aon.line + 1 ∧ t.aon.frameNum = s.aon.frameNum ∧
        t.mod.ticked s.mod s.aon.frameNum (s.aon.line + 1) s.aon.lpf)) ∧
  (
    (∀ die tk s, die < 6 → s.mod.ticks = [tk] → tk.die = die → s.mod.dr.contains die = false → s.mod.enabled die (cadPage die) = true →
      let f := s.mod.cad die 0x148
      let l := s.mod.fld die (cadPage die) 0x150 0 13
      let lpf := SMap.get 0 s.mod.unitLpf die
      let next := if l + 1 < lpf then (f, l + 1) else (f + 1, 0)
      (∃ t, exec (.tickWord die false) s = .next t ∧ t.mod.errSet die (cadPage die) 10 ∧ t.mod.cad die 0x148 = f ∧ t.mod.fld die (cadPage die) 0x150 0 13 = l) ∧
      (lpf ≠ 0 → tk.line < 8192 → tk.frame < 2 ^ 64 → (tk.line = 0 → (tk.frame, 0) = next) → (tk.line ≠ 0 → tk.frame % 65536 = f % 65536 ∧ (f, tk.line) = next) →
        ∃ t, exec (.tickWord die true) s = .next t ∧ t.mod.ticks = [] ∧ t.mod.cad die 0x148 = (if tk.line = 0 then tk.frame else f) ∧
          t.mod.fld die (cadPage die) 0x150 0 13 = tk.line) ∧
      (lpf ≠ 0 → tk.line = 0 → f + 1 < tk.frame → tk.frame < 2 ^ 64 →
        ∃ t, exec (.tickWord die true) s = .next t ∧ t.mod.errSet die (cadPage die) 10 ∧ t.mod.cad die 0x148 = tk.frame ∧
          t.mod.fld die (cadPage die) 0x150 0 13 = 0) ∧
      (lpf = 0 → tk.line = 0 → tk.frame < 2 ^ 64 →
        ∃ t, exec (.tickWord die true) s = .next t ∧ t.mod.cad die 0x148 = tk.frame ∧ SMap.get 0 t.mod.unitLpf die = tk.lpf)))

/-- A slot that matches the line entered acts: INC, IRQ, WAIN, INTAKE, GATE and DEADLINE as R381 to R383 say, and a slot that fails the
checks of R379 sets SLOT_FAIL; enabling a slot checks it and clears its STATE (R377 to R383). While the frame is not locked a die's INTAKE
slots are sampled each period; the read goes to its home, and its answer, when it differs from the slot's STATE, becomes it and counts or
notifies; a read that fails sets SLOT_FAIL (R382). -/
def Obligations.SlotActions : Prop :=
  (
    (∀ die k tk s, die < 6 → k < 64 → s.mod.ticks = [tk] → tk.die = die → tk.line = 0 → tk.frame < 2 ^ 64 → SMap.get 0 s.mod.unitLpf die = 0 →
      s.mod.dr.contains die = false → s.mod.enabled die (cadPage die) = true → tk.early = false → s.mod.onlySlot die k →
      bits (s.mod.slotWhen die k) 61 3 ≠ 4 → slotMatch (s.mod.slotWhen die k) tk.frame 0 = true →
      ∃ (t : State) (m : Mod), exec (.tickWord die true) s = .next t ∧ t.mod = m.fireSlot die k tk.frame 0 tk.lpf ∧ m.incs = s.mod.incs ∧ m.mem = s.mod.mem ∧
        m.cad die 0x148 = tk.frame) ∧
    (∀ (m : Mod) die k f l lpf, die < 6 → k < 64 → lpf ≤ 8192 →
      let a0 := m.slotArg die k 0
      let a1 := m.slotArg die k 1
      let t := m.fireSlot die k f l lpf
      let act := bits (m.slotWhen die k) 61 3
      (m.slotOk die k = false → t.errSet die (cadPage die) 9 ∧ t.incs = m.incs) ∧
      (m.slotOk die k = true →
        (∀ x, act = 1 → cntOf (bits a0 0 32) = some x → m.routeCut die x.die x.mpa = false →
          t.sends m (bits a0 0 32) (bits a1 0 32) (0xF00 + die) ∧ t.mem = m.mem ∧ t.cores = m.cores ∧ t.wains = m.wains ∧
            ∃ i ∈ t.incs, i.slot = some k ∧ i.path.vc = .prio) ∧
        (∀ c, act = 2 → die < 4 → isCore c = true → c / 256 = die → m.retired c = false → m.coreSweep c = false → bits a0 (c % 256 / 16) 1 = 1 →
          bits a0 (16 + c % 16) 1 = 1 → t.irqSet die (corePage c 0) 0) ∧
        (act = 3 → m.standby = false → let w := if die < 4 then (die * 256 + bits a1 0 8) * 2 + bits a1 8 1 else 2048 + 16 * (die - 4) + bits a1 0 4
          (m.enabled (wainDie w) (wainPage w) = true → m.wainBusy w = false → (m.wain w).ending = none → a0 % 32 = 0 →
            (∀ c, wainCore w = some c → m.coreSweep c = false ∧ m.retired c = false ∧ m.parked c = false) →
            t.wainState w = 1 ∧ (t.wain w).next = a0) ∧
          (m.wainBusy w = true → t.errSet die (cadPage die) 9 ∧ t.wain w = m.wain w)) ∧
        (act = 4 → m.standby = false → (∀ x ∈ m.intakes, ¬ (x.die = die ∧ x.slot = k)) → t.intakes = m.intakes ++ [Intake.mk die k a0 a1] ∧ t.mem = m.mem) ∧
        (act = 5 → m.coreSweep (die * 256 + bits a0 0 8) = false →
          let page := bits a0 0 8 * 8 + 4
          let j := bits a0 8 2
          t.fld die page (0x420 + 8 * j) 0 16 = min (m.fld die page (0x420 + 8 * j) 0 16 + m.fld die page (0x310 + 0x20 * j) 0 16) 65535) ∧
        (∀ x, act = 6 → cntOf (bits a0 0 32) = some x → m.routeCut die x.die x.mpa = false → bits a1 32 1 = 0 →
          let o := winOff (bits (m.slotArg die k 2) 32 4)
          bits (t.cad die (o + 0x10)) 48 2 = 1 ∧ bits (t.cad die (o + 0x10)) 0 32 = bits a0 0 32 ∧ t.cad die (o + 8) = (m.cntVal x + bits a1 0 32) % 2 ^ 64))) ∧
    (∀ a die k s, k < 64 → s.works a die (cadPage die) 0x140 = true → bits a.v.toNat k 1 = 1 → s.mod.fld die (cadPage die) 0x140 k 1 = 0 →
      ∃ t, exec (.slotEnable a) s = .next t ∧
        (s.mod.slotOk die k = true → t.mod.fld die (cadPage die) 0x140 k 1 = 1 ∧ t.mod.cad die (0x600 + 8 * k) = 0) ∧
        (s.mod.slotOk die k = false → t.mod.fld die (cadPage die) 0x140 k 1 = 0 ∧ t.mod.errSet die (cadPage die) 8))) ∧
  (
    (∀ die k s, die < 6 → k < 64 → s.aon.powered = true → s.aon.locked = false → s.mod.fld die (cadPage die) 0x168 0 10 ≠ 0 → s.mod.dr.contains die = false →
      s.mod.enabled die (cadPage die) = true → s.mod.cad die 0x140 = 2 ^ k → bits (s.mod.slotWhen die k) 61 3 = 4 → s.mod.slotOk die k = true → s.mod.standby = false →
      (∀ x ∈ s.mod.intakes, ¬ (x.die = die ∧ x.slot = k)) →
      exec (.intakePeriodSample die) s = .next (s.upd (fun m => { m with intakes := m.intakes ++ [Intake.mk die k (m.slotArg die k 0) (m.slotArg die k 1)] }))) ∧
    (∀ x s, s.mod.intakes = [x] → x.die < 6 → x.slot < 64 →
      let key := 0x20000 + 64 * x.die + x.slot
      let st := 0x600 + 8 * x.slot
      (s.mod.fetched key x.mpa 8 = none → isRegSpace x.mpa = false → ∃ t r, exec (.intakeReadResponse 0) s = .next t ∧ t.mod.intakes = [x] ∧
        t.mod.net = s.mod.net ++ [r] ∧ r.use = .fetch key ∧ r.q = 0xF00 + x.die ∧ r.die = x.die ∧ r.mpa = x.mpa ∧ r.len = 8 ∧ r.op = .read) ∧
      (∀ r, s.mod.fetched key x.mpa 8 = some r → r.answer = none → exec (.intakeReadResponse 0) s = .next s) ∧
      (∀ r v, s.mod.fetched key x.mpa 8 = some r → r.answer = some (.data v) → v < 2 ^ 64 →
        (v = s.mod.cad x.die st → ∃ t, exec (.intakeReadResponse 0) s = .next t ∧ t.mod.intakes = [] ∧ t.mod.regs = s.mod.regs ∧ t.mod.incs = s.mod.incs) ∧
        (∀ y, v ≠ s.mod.cad x.die st → bits x.arg 33 1 = 0 → cntOf (bits x.arg 0 32) = some y → s.mod.routeCut x.die y.die y.mpa = false →
          ∃ t, exec (.intakeReadResponse 0) s = .next t ∧ t.mod.cad x.die st = v ∧ t.mod.intakes = [] ∧
            (bits x.arg 32 1 = 1 → t.mod.sends s.mod (bits x.arg 0 32) 1 (0xF00 + x.die)) ∧ (bits x.arg 32 1 = 0 → t.mod.incs = s.mod.incs))) ∧
      (∀ r e, s.mod.fetched key x.mpa 8 = some r → r.answer = some e → (e = .poison ∨ e = .err) →
        ∃ t, exec (.intakeReadResponse 0) s = .next t ∧ t.mod.intakes = [] ∧ t.mod.errSet x.die (cadPage x.die) 9 ∧
          t.mod.cad x.die st = s.mod.cad x.die st)))

/-- A host access through BAR4 becomes requests to the Loft it names, of one granule each, and a read completes with the bytes that answer
it; a refused one is recorded and completes with zero; a poisoned write is discarded and recorded; a register access through BAR0 goes by
the page's rules (R388 to R391). A request to the host window leaves as a memory request at the address its entry maps, a write acknowledged
once accepted; unmapped, or with the link down, it is an access error; a read's completion answers it, and a time-out is an access error
(R392, R393). -/
def Obligations.HostMemory : Prop :=
  (
    (∀ off len c o s, s.hostOpen → off < 2 ^ 32 → decodeMpa (0x40000000000 + off) = .loft c o → off % 64 + len ≤ 64 → 1 ≤ len →
      s.mod.routeCut 4 (c / 256) (0x40000000000 + off) = false → s.mod.kState ≠ 2 → s.mod.kState ≠ 5 →
      (∀ data hdr test dead, ∃ t r h, exec (.hostMemoryWrite 4 off len data false hdr test dead) s = .next t ∧ t.mod.net = s.mod.net ++ [r] ∧
        r.use = .host h.id ∧ r.q = hostCode ∧ r.mpa = 0x40000000000 + off ∧ r.len = len ∧ r.resp = none ∧
        r.op = .write (2 ^ len - 1) (data % 2 ^ (8 * len)) ∧ t.mod.hostQ = [h] ∧ h.write = true ∧ t.mod.mem = s.mod.mem ∧ t.mod.out = s.mod.out) ∧
      (∀ tag, ∃ t r h, exec (.hostMemoryRead 4 off len tag) s = .next t ∧ t.mod.net = s.mod.net ++ [r] ∧ r.use = .host h.id ∧ r.q = hostCode ∧
        r.mpa = 0x40000000000 + off ∧ r.len = len ∧ r.resp = none ∧ r.op = .read ∧ t.mod.hostQ = [h] ∧ h.write = false ∧ h.len = len ∧ h.tag = tag ∧
        t.mod.out = s.mod.out)) ∧
    (∀ (m : Mod) h r x, m.hostQ = [h] → m.hostParts h.id = [r] → r.path.flit = .clean → r.answer = some x → m.fld 4 hostportPage 0x100 0 1 = 1 →
      let t := m.hostSettle
      t.hostQ = [] ∧ t.mem = m.mem ∧ (∀ y ∈ m.net, y.id ≠ r.id → y ∈ t.net) ∧
        (x = .err → isRegSpace r.mpa = false → t.errSet 4 hostportPage 8) ∧ (x ≠ .err → h.write = true → t.out = m.out) ∧
        (h.write = false →
          (∀ v, x = .data v → t.out = m.out ++ [.completion h.tag h.len (v % 2 ^ (8 * r.len)) false]) ∧
          (x = .poison → t.out = m.out ++ [.completion h.tag h.len 0 true]) ∧
          (x = .err → ∃ l, t.out = m.out ++ l ++ [.completion h.tag h.len 0 false]))) ∧
    (∀ bar off len data hdr test dead s, s.hostOpen → (bar = 0 ∨ bar = 2 ∨ bar = 4) → 1 ≤ len → len ≤ 512 →
      ∃ t, exec (.hostMemoryWrite bar off len data true hdr test dead) s = .next t ∧ t.mod.mem = s.mod.mem ∧ t.mod.errSet 4 hostportPage 11) ∧
    (∀ off len die page o s, s.hostOpen → off < 0xC000000 → decodeMpa (0x50000000000 + off) = .reg die page o → 1 ≤ len → len ≤ 512 →
      (∀ data hdr test dead, exec (.hostMemoryWrite 0 off len data false hdr test dead) s =
        .next (regAccess { test := test, dead := dead } hostCode die page o len true true data (s.upd Mod.rx)).2) ∧
      (∀ tag v m, readReg s.aon s.mod.rx hostCode die page o len = (some v, m) →
        exec (.hostMemoryRead 0 off len tag) s = .next { s with mod := m.tlp (.completion tag len v false) })) ∧
    (∀ bar off len data hdr test dead tag s, s.linkUp = true → (s.mod.mrSweep = true ∨ s.mod.d3 = true) → (bar = 2 ∨ bar = 4) → 1 ≤ len → len ≤ 512 →
      exec (.hostMemoryWrite bar off len data false hdr test dead) s = .next (s.upd Mod.rx) ∧
      (managementRead (s.mod.rx.barTo bar off) = false → exec (.hostMemoryRead bar off len tag) s = .next (s.upd (fun m => m.rx.tlp (.unsupported tag)))))) ∧
  (
    (∀ id r o s, s.mod.findReq id = some r → decodeMpa r.mpa = .host o → r.waiting = true → r.path.flit = .clean → r.sent = false →
      r.use.isGone = false → s.mod.hostOther id → s.mod.mustFollow r = false →
      (∀ p, s.mod.hostAddr r.mpa = some p → s.mod.hostUp = true →
        (r.op = .read → ∃ t, exec (.hostWindowAccess id) s = .next t ∧ t.mod.out = s.mod.out ++ [.memRead id p.1 r.len p.2] ∧
          t.mod.findReq id = some { r with sent := true }) ∧
        (∀ mask data, r.op = .write mask data → ∃ t, exec (.hostWindowAccess id) s = .next t ∧
          t.mod.out = s.mod.out ++ [.memWrite p.1 r.len mask data p.2] ∧ t.mod.answered id r .ok)) ∧
      ((s.mod.hostAddr r.mpa = none ∨ s.mod.hostUp = false) → ∃ t, exec (.hostWindowAccess id) s = .next t ∧
        t.mod.answered id r .err ∧ t.mod.errSet 4 hostportPage 8)) ∧
    (∀ (m : Mod) mpa p, let e := m.reg 4 hostportPage (0x800 + (mpa - 0x60000000000) / 2 ^ 32 % 256 * 8)
      m.hostAddr mpa = some p ↔ (bits e 63 1 = 1 ∧ bits e 0 52 * 4096 + (mpa - 0x60000000000) % 2 ^ 32 < 2 ^ 64 ∧
        p = (bits e 0 52 * 4096 + (mpa - 0x60000000000) % 2 ^ 32, bits e 62 1 == 1))) ∧
    (∀ id r data s, s.mod.hostWaits id = some r → r.use.isGone = false → s.mod.hostOther id →
      (∃ t, exec (.hostCompletion id 0 data) s = .next t ∧ t.mod.answered id r (.data (data % 2 ^ (8 * r.len)))) ∧
      (∃ t, exec (.hostCompletion id 1 data) s = .next t ∧ t.mod.answered id r .err ∧ t.mod.errSet 4 hostportPage 8) ∧
      (∃ t, exec (.hostCompletion id 2 data) s = .next t ∧ t.mod.answered id r .poison) ∧
      (∃ t, exec (.completionTimeout id) s = .next t ∧ t.mod.answered id r .err ∧ t.mod.errSet 4 hostportPage 10 ∧ bits t.mod.aer 14 1 = 1)))

/-- A raised vector sends its message, or stays pending while masked and is sent when the mask clears; APER and the BAR size keep the
aperture a multiple of its size within HBM; the link's training and loss set UP (R387, R390, R393, R394). Configuration reads complete with
the identity of R386 and what was written elsewhere, and are retried during an MR; unsupported requests are answered, unexpected completions
discarded, and each error logged in AER (R386, R395, R403). -/
def Obligations.HostPort : Prop :=
  (
    (∀ a s, s.works a 4 hostportPage 0x110 = true →
      let v := bits a.v.toNat 0 8
      let msg := Out.msix v (SMap.get 0 s.mod.msixTab (3 * v)).toNat (SMap.get 0 s.mod.msixTab (3 * v + 1)).toNat
      (s.mod.vectorMasked v = false → s.mod.msixOn = true → ∃ t, exec (.msixSend a) s = .next t ∧ t.mod.out = s.mod.out ++ [msg] ∧ t.mod.pba = s.mod.pba) ∧
      (s.mod.vectorMasked v = true → ∃ t, exec (.msixSend a) s = .next t ∧ t.mod.out = s.mod.out ∧ t.mod.pba.getLsbD v = true)) ∧
    (∀ v s, v < 256 → s.linkUp = true →
      let msg := Out.msix v (SMap.get 0 s.mod.msixTab (3 * v)).toNat (SMap.get 0 s.mod.msixTab (3 * v + 1)).toNat
      ∃ t, exec (.msixUnmask v) s = .next t ∧ t.mod.vectorMasked v = false ∧
        (s.mod.msixOn = true → t.mod.pba.getLsbD v = false ∧ t.mod.out = s.mod.out ++ (if s.mod.pba.getLsbD v then [msg] else []))) ∧
    (∀ a s, s.works a 4 hostportPage 0x108 = true →
      let base := bits a.v.toNat 28 11 * 2 ^ 28
      let good := base % 2 ^ s.mod.bar2Log = 0 ∧ base + 2 ^ s.mod.bar2Log ≤ 2 ^ 39
      (good → ∃ t, exec (.bar2AperWrite a) s = .next t ∧ t.mod.fld 4 hostportPage 0x108 28 11 = bits a.v.toNat 28 11) ∧
      (¬ good → ∃ t, exec (.bar2AperWrite a) s = .next t ∧ t.mod.reg 4 hostportPage 0x108 = s.mod.reg 4 hostportPage 0x108 ∧
        t.mod.errSet 4 hostportPage 9)) ∧
    (∀ n s, s.linkUp = true → 28 ≤ n → n ≤ 39 →
      let base := s.mod.fld 4 hostportPage 0x108 28 11 * 2 ^ 28
      ∃ t, exec (.barResize n) s = .next t ∧ t.mod.bar2Log = n ∧
        (base % 2 ^ n = 0 → base + 2 ^ n ≤ 2 ^ 39 → t.mod.regs = s.mod.regs) ∧
        ((base % 2 ^ n ≠ 0 ∨ 2 ^ 39 < base + 2 ^ n) → t.mod.fld 4 hostportPage 0x108 28 11 = 0)) ∧
    (∀ rate width s, s.up = true → s.aon.jtag = false → s.aon.perstN = true → 1 ≤ rate → rate ≤ 6 → width ∈ [1, 2, 4, 8, 16] →
      ∃ t, exec (.hostLinkTraining rate width) s = .next t ∧ t.mod.fld 4 hostportPage 0x100 0 1 = 1 ∧ t.mod.fld 4 hostportPage 0x100 16 4 = rate ∧
        t.mod.fld 4 hostportPage 0x100 8 5 = width) ∧
    (∀ r o s, s.mod.fld 4 hostportPage 0x100 0 1 = 1 → s.mod.net = [r] → decodeMpa r.mpa = .host o → r.sent = true → r.resp = none →
      r.use.isGone = false → s.mod.hostQ = [] → ∃ t, exec .hostLinkDown s = .next t ∧ t.mod.fld 4 hostportPage 0x100 0 1 = 0 ∧
        t.mod.net = [{ r with resp := some .err, path := r.path.retrace }])) ∧
  (
    (∀ tag dw v s, s.linkUp = true → s.mod.mrSweep = false →
      (∃ t, exec (.configurationRequest tag dw false v) s = .next t ∧ t.mod.out = s.mod.out ++ [.completion tag 4 (s.mod.cfgRead (dw % 1024)) false]) ∧
      (dw % 1024 ≠ 0x2C → ∃ t, exec (.configurationRequest tag dw true v) s = .next t ∧ SMap.get 0 t.mod.cfgSpace (dw % 1024) = v ∧
        t.mod.out = s.mod.out ++ [.completion tag 0 0 false])) ∧
    (∀ tag dw w v s, s.linkUp = true → s.mod.mrSweep = true →
      ∃ t, exec (.configurationRequest tag dw w v) s = .next t ∧ t.mod.out = s.mod.out ++ [.retry tag] ∧ t.mod.cfgSpace = s.mod.cfgSpace) ∧
    (∀ (m : Mod), m.cfgRead 0 = 0xC4A01E6B) ∧
    (∀ tag hdr s, s.linkUp = true →
      (∃ t, exec (.unsupportedRequest tag hdr) s = .next t ∧ t.mod.out = s.mod.out ++ [.unsupported tag] ∧ bits t.mod.aer 20 1 = 1) ∧
      (∃ t, exec (.unexpectedCompletion false hdr) s = .next t ∧ t.mod.out = s.mod.out ∧ bits t.mod.aer 16 1 = 1) ∧
      (∃ t, exec (.malformedTlp 0 hdr) s = .next t ∧ t.mod.fld 4 hostportPage 0x100 0 1 = 0 ∧ bits t.mod.aer 18 1 = 1 ∧
        (s.mod.aerHeader = none → t.mod.aerHeader = some (hdr % 2 ^ 128))) ∧
      (∃ t, exec (.receiverError 0) s = .next t ∧ bits t.mod.aerCor 0 1 = 1 ∧ SMap.get 0 t.mod.aerCount 0 = SMap.get 0 s.mod.aerCount 0 + 1)))

/-- Enabling a ring sets up and enables its sampling slot; a write of an enabled ring renews firmware's view (R396, R402). An entry is
consumed and acts by its OPCODE: NOP completes, SIGNAL sends its increment, FENCE waits for earlier entries of its ring, and RUN checks its
descriptor and starts its cores (R397 to R400). A task completes when its counter reaches its target with no core of it halted, or with
status 4 when one halts; an owed completion is written to its completion ring while that has room (R400, R401). -/
def Obligations.IntakeRings : Prop :=
  (
    (∀ a r s, r < 16 → s.works a 4 hostportPage (ringIn r) = true → bitOn a.v 63 = true → s.mod.ringOn r = false → s.mod.slotArg 4 r 2 = 0 →
      ∃ t, exec (.ringEnable a) s = .next t ∧ t.mod.ringOn r = true ∧ t.mod.ringBase r = bits a.v.toNat 8 36 * 256 ∧
        t.mod.ring r = { waiting := (s.mod.ring r).waiting } ∧ t.mod.fld 4 cadBw 0x140 r 1 = 1 ∧ bits (t.mod.slotWhen 4 r) 61 3 = 4 ∧
        t.mod.slotArg 4 r 0 = bits a.v.toNat 8 36 * 256) ∧
    (∀ a r s, r < 16 → s.works a 4 hostportPage (ringIn r) = true → bitOn a.v 63 = true → s.mod.ringOn r = true → (s.mod.ring r).stopped = true →
      ∃ t, exec (.ringRewrite a) s = .next t ∧ t.mod.ringOn r = true ∧ t.mod.ring r = { waiting := (s.mod.ring r).waiting } ∧
        t.mod.slotArg 4 r 0 = bits a.v.toNat 8 36 * 256)) ∧
  (
    (∀ r x e m s, s.takes r 0 x e m → ∃ t, exec (.intakeNop r) s = .next t ∧ t.mod.took r x (owed s e (okStatus s.aon (bits e 192 64)) 0) ∧
      t.mod.incs = m.incs ∧ t.mod.tasks = m.tasks) ∧
    (∀ r x e m y s, s.takes r 3 x e m → cntOf (bits e 256 32) = some y → m.routeCut 4 y.die y.mpa = false →
      ∃ t, exec (.intakeSignal r) s = .next t ∧ t.mod.took r x (owed s e (okStatus s.aon (bits e 192 64)) 0) ∧
        t.mod.sends m (bits e 256 32) (bits e 320 64) fwCode) ∧
    (∀ r x e m s, s.takes r 2 x e m →
      ((∀ k ∈ m.tasks, k.ring ≠ r) → ∃ t, exec (.intakeFence r) s = .next t ∧ t.mod.took r x (owed s e (okStatus s.aon (bits e 192 64)) 0) ∧
        t.mod.tasks = m.tasks) ∧
      (∀ k ∈ m.tasks, k.ring = r → ∃ t y, exec (.intakeFence r) s = .next t ∧ t.mod.took r x [] ∧ t.mod.tasks = m.tasks ++ [y] ∧ y.fence = true ∧
        y.ring = r ∧ y.seq = bits e 0 64)) ∧
    (∀ r x e m s, s.takes r 1 x e m →
      ((bits e 256 64 % 64 ≠ 0 ∨ 2 ^ 39 ≤ bits e 256 64) → ∃ t, exec (.intakeRun r) s = .next t ∧ t.mod.took r x (owed s e 4 1) ∧
        t.mod.tasks = m.tasks) ∧
      (∀ d m1 l m2 m3 y, bits e 256 64 % 64 = 0 → bits e 256 64 < 2 ^ 39 → readNum s.aon (bits e 256 64) 64 (m.consume r) = (some d, m1) →
        (taskDesc d).ok d = true → readCores s.aon (bits e 256 64 + 64) (taskDesc d).ncore m1 = (some l, m2) →
        (∀ k ∈ l, k.ok (taskDesc d) = true ∧ m2.taskCoreFree k (taskDesc d) = true) → (l.map (fun k => k.core)).Nodup →
        startCores s.aon (taskDesc d) l [] m2 = (true, m3) → cntOf (taskDesc d).ref = some y →
        ∃ t z, exec (.intakeRun r) s = .next t ∧ t.mod.tasks = m3.tasks ++ [z] ∧ z.ring = r ∧ z.seq = bits e 0 64 ∧ z.cores = l.map (fun k => k.core) ∧
          z.ref = (taskDesc d).ref ∧ z.target = m2.cntVal y + (taskDesc d).count ∧ z.result = none ∧ t.mod.cores = m3.cores ∧ t.mod.mem = m3.mem))) ∧
  (
    (∀ i k y s, s.mod.tasks[i]? = some k → k.result = none → k.fence = false → cntOf k.ref = some y → k.stopWait = false →
      ((∀ c ∈ k.cores, (s.mod.core c).halted = false) → k.target ≤ s.mod.cntVal y →
        ∃ t, exec (.taskCompletion i) s = .next t ∧ t.mod.tasks = s.mod.tasks.eraseIdx i ∧ t.mod.cores = s.mod.cores ∧
          (t.mod.ring k.ring).waiting = (s.mod.ring k.ring).waiting ++
            (if bits k.flags 0 1 = 1 then [[k.tag, k.seq, s.aon.frameNum, okStatus s.aon k.due, 0, k.flags]] else [])) ∧
      ((∀ c ∈ k.cores, (s.mod.core c).halted = false) → s.mod.cntVal y < k.target → exec (.taskCompletion i) s = .next s) ∧
      (∀ c ∈ k.cores, (s.mod.core c).halted = true → ∃ t, exec (.taskCompletion i) s = .next t ∧ t.mod.tasks = s.mod.tasks.eraseIdx i)) ∧
    (∀ r e rest m head p o s, r < 16 → (s.mod.ring r).waiting = e :: rest → (s.mod.ring r).synced = true →
      readNum s.aon (s.mod.ringBase r + 0x80) 8 s.mod = (some head, m) →
      let x := s.mod.ring r
      let size := 2 ^ m.fld 4 hostportPage (ringCq r) 56 5
      let mpa := m.fld 4 hostportPage (ringCq r) 5 39 * 32 + 32 * (x.cq % size)
      (size ≤ (x.cq + 2 ^ 64 - head) % 2 ^ 64 → exec (.completionEntry r) s = .next { s with mod := m }) ∧
      ((x.cq + 2 ^ 64 - head) % 2 ^ 64 < size → decodeMpa mpa = .host o → m.hostAddr mpa = some p → m.hostUp = true → bits (e.getD 5 0) 1 1 = 0 →
        ∃ t, exec (.completionEntry r) s = .next t ∧ t.mod.ring r = { x with waiting := rest, cq := (x.cq + 1) % 2 ^ 64 } ∧
          t.mod.out = m.out ++ [.memWrite p.1 32 (2 ^ 32 - 1) (completionEntry r x.cq size e) p.2])))

/-- PERST_N falling, a hot reset and an FLR each perform an MR, the FLR with the link kept; a PO gives the always-on island its reset
values; EXTEST performs an MR that holds every die in reset, and its release lets the boot follow (R403, R409, R413, R421, R443, R452,
R456). A PO puts the always-on state to its reset values and boots; EXTEST's release lets the boot follow; PERST_N rising is recorded (R413,
R421, R443, R452). -/
def Obligations.ModuleResets : Prop :=
  (
    ∀ (s : State) (test dead : Nat), s.resettable →
      (s.aon.perstN = true → ∃ t, exec (.perstN test dead) s = .next t ∧ t.aon.perstN = false ∧ t.mrOf s 1 test) ∧
      (s.mod.fld 4 hostportPage 0x100 0 1 = 1 →
        (∃ t, exec (.hotReset test dead) s = .next t ∧ t.mrOf s 2 test) ∧
        (∃ t, exec (.flr test dead) s = .next t ∧ t.mrOf s 3 test ∧ t.mod.fld 4 hostportPage 0x100 0 1 = 1)) ∧
      (∃ t, exec .jtagExtest s = .next t ∧ t.aon.jtag = true ∧ t.aon.keeps s.aon ∧ t.mod.mem = [] ∧
        (∀ d, d < 6 → t.mod.dr.contains d = true ∧ t.aon.epoch d = nextEpoch (s.aon.epoch d)))) ∧
  (
    (∀ s test dead, s.aon.powered = true → s.aon.poDue = true →
      ∃ t, exec (.po test dead) s = .next t ∧ t.aon.poDue = false ∧ t.aon.dieEpoch = [1, 1, 1, 1, 1, 1] ∧ t.aon.time = 0 ∧ t.aon.mono = 0 ∧
        t.aon.frameNum = 0 ∧ t.aon.trim = 0 ∧ (∀ d, d < 6 → t.aon.caused d 0 0) ∧ t.aon.flash = s.aon.flash ∧ t.aon.uds = s.aon.uds ∧ t.mod.fresh0 ∧
        t.mod.kState = s.aon.bootState test) ∧
    (∀ s test dead, s.aon.jtag = true →
      ∃ t, exec (.extestRelease test dead) s = .next t ∧ t.aon.jtag = false ∧ t.mod.kState = s.aon.bootState test) ∧
    (∀ s, ∃ t, exec .perstNDeassert s = .next t ∧ t.aon.perstN = true ∧ t.mod = s.mod))

/-- CR resets its core, and PR every core of its partition and no other; DR resets every core and the steward of its die, raises its epoch
and keeps HBM and STEWARD_RETIRE (R409 to R412, R414, R421, R428). The end of a sweep ends the reset: a core's pages accept writes again and
RST_DONE is set, a parked core is parked again; a die leaves DR; a Barn's memories are served (R411, R412, R415, R417). The Keeper then
loads the die's steward and starts it at ENTRY (R77, R443). -/
def Obligations.CoreAndDieResets : Prop :=
  (
    (∀ a die slot s, die < 4 → isCore (die * 256 + slot) = true → s.works a die 2309 0x100 = true → bitOn a.v 8 = true → bitOn a.v 20 = false →
      bits a.v.toNat 0 8 = slot → s.mod.dr.contains die = false → s.mod.inReset = [] →
      ∃ t, exec (.cr a) s = .next t ∧ t.mod.resetting (die * 256 + slot) ∧
        (∀ c, isCore c = true → c ≠ die * 256 + slot → t.mod.coreSweep c = s.mod.coreSweep c ∧
          (∀ k, k < 0x400000 → SMap.get 0 t.mod.mem (loftKey c + k) = SMap.get 0 s.mod.mem (loftKey c + k))) ∧
        (∀ k, k < 2 ^ 42 → SMap.get 0 t.mod.mem k = SMap.get 0 s.mod.mem k)) ∧
    (∀ a die p s, die < 4 → s.works a die 2309 0x100 = true → bitOn a.v 8 = false → bitOn a.v 20 = true → bits a.v.toNat 16 4 = p →
      s.mod.dr.contains die = false → s.mod.inReset = [] →
      ∃ t, exec (.pr a) s = .next t ∧ (∀ c, isCore c = true → c / 256 = die → s.mod.partition c = p → s.mod.retired c = false → t.mod.resetting c) ∧
        (∀ c, isCore c = true → (c / 256 ≠ die ∨ s.mod.partition c ≠ p ∨ s.mod.retired c = true) → t.mod.coreSweep c = s.mod.coreSweep c ∧
          (∀ k, k < 0x400000 → SMap.get 0 t.mod.mem (loftKey c + k) = SMap.get 0 s.mod.mem (loftKey c + k)))) ∧
    (∀ a d s, s.Inv → d < 4 → s.works a 4 2077 0x118 = true → bitOn a.v 8 = true → bits a.v.toNat 0 2 = d → s.mod.dr.contains d = false →
      ∃ t, exec (.dr a) s = .next t ∧ t.mod.dr.contains d = true ∧ t.aon.epoch d = nextEpoch (s.aon.epoch d) ∧ t.aon.caused d 2 4 ∧
        (∀ e, e ≠ d → t.aon.epoch e = s.aon.epoch e) ∧
        (∀ c, isCore c = true → c / 256 = d → t.mod.resetting c ∧ t.mod.retired c = s.mod.retired c) ∧
        (∀ k, k < 2 ^ 21 → SMap.get 0 t.mod.mem (loftKey (0x3F0 + d) + k) = 0) ∧
        (∀ k, k < 2 ^ 42 → SMap.get 0 t.mod.mem k = SMap.get 0 s.mod.mem k))) ∧
  (
    (∀ c s, isCore c = true → s.mod.inReset.any (fun x => x % 1024 == c) = true → s.mod.net = [] →
      ∃ t, exec (.sweepDone 0 c) s = .next t ∧ t.mod.coreSweep c = false ∧ t.mod.inReset.any (fun x => x % 1024 == c) = false ∧
        t.mod.irqSet (c / 256) 2309 2 ∧ (∀ k, SMap.get 0 t.mod.mem k = SMap.get 0 s.mod.mem k) ∧
        (s.mod.fld (c / 256) 2309 (0x320 + c % 256 / 64 * 8) (c % 64) 1 = 1 → s.mod.retired c = false → t.mod.parked c = true)) ∧
    (∀ d s, d < 4 → s.mod.dr.contains d = true → s.mod.sweeping d 2309 = true → s.mod.dr.contains 5 = false →
      ∃ t, exec (.sweepDone 1 d) s = .next t ∧ t.mod.dr.contains d = false ∧ (∀ c, isCore c = true → c / 256 = d → t.mod.coreSweep c = false) ∧
        t.mod.sweeping d 2309 = false) ∧
    (∀ b s, b < 2 →
      (∃ t, exec (.sweepDone 2 (4 + b)) s = .next t ∧ t.mod.fld (4 + b) 2077 0x100 8 1 = 0 ∧ t.mod.sweeping (4 + b) granaryPage = false) ∧
      (∃ t, exec (.sweepDone 3 (4 + b)) s = .next t ∧ t.mod.fld (4 + b) 2077 0x100 9 1 = 0 ∧ (∀ k, k < 4 → t.mod.sweeping (4 + b) (2064 + k) = false))) ∧
    (∀ d fw cfg s, d < 4 → s.mod.keeper.reload.contains d = true → s.mod.dr.contains d = false → s.mod.keeper.update = none → s.mod.kState = 1 →
      s.aon.imageReason = 0 → (compsOf (s.aon.flashBytes 0 4096)).find? (fun x => x.type == 2) = some fw →
      (compsOf (s.aon.flashBytes 0 4096)).find? (fun x => x.type == 5) = some cfg →
      let c := 0x3F0 + d
      let f := s.aon.flashBytes fw.off fw.len
      ∃ t, exec (.stewardReload d) s = .next t ∧ (t.mod.core c).running = true ∧ (t.mod.core c).pc.toNat = leField f 12 2 ∧ (t.mod.core c).bank = 0 ∧
        t.mod.kp 0x100 (24 + d) 1 = 1 ∧ (∀ i, i < leField f 4 4 → (t.mod.parcel c i).toNat = leField f (16 + 2 * i) 2 % 2 ^ 14) ∧
        (∀ i, i < leField f 8 4 → SMap.get 0 t.mod.mem (loftKey c + i) = BitVec.ofNat 8 (f.getD (16 + 2 * leField f 4 4 + i) 0)) ∧
        (∀ g, g < 16 → bits (t.mod.core c).seg g 1 = if g * 4096 < leField f 4 4 then 1 else 0)))

/-- A partition ID changes only for cores that are retired, parked or quiescent, else the register stays and PART_BUSY is set; retiring a
core or returning it performs a CR (R407, R422). A park request stands until its core is quiescent and has written its buffer out, then the
core is parked with the values of CR; clearing it returns the core. DOZE follows once every core of the die is parked or retired, and
clearing its request leaves it (R417, R418). D3hot puts the module into STANDBY: every quiescent core parks and every die is asked to doze;
the return to D0 leaves DOZE with the cores still parked (R387, R419). A core watchdog that expires sets WARN and CWDOG; again without a
kick, with ACT set, it performs a CR. A steward watchdog warns first; again it performs a DR of its die, or on a Barn an MR with the link
kept; KICK restarts it (R423, R424). -/
def Obligations.PartitionsAndPowerStates : Prop :=
  (
    (∀ a die k s, die < 4 → k < 12 → s.works a die 2309 (0x200 + 8 * k) = true →
      let changes := fun (i : Nat) => decide (bits a.v.toNat (4 * i) 4 ≠ s.mod.partition (die * 256 + 16 * k + i)) &&
        !(s.mod.retired (die * 256 + 16 * k + i) || s.mod.parked (die * 256 + 16 * k + i) || s.mod.quiescent (die * 256 + 16 * k + i))
      ((∀ i, i < 12 → changes i = false) →
        ∃ t, exec (.pmapWrite a) s = .next t ∧ (∀ i, i < 12 → t.mod.partition (die * 256 + 16 * k + i) = bits a.v.toNat (4 * i) 4)) ∧
      ((∃ i, i < 12 ∧ changes i = true) →
        ∃ t, exec (.pmapWrite a) s = .next t ∧ t.mod.errSet die 2309 8 ∧ (∀ c, isCore c = true → t.mod.partition c = s.mod.partition c))) ∧
    (∀ a die w s, die < 4 → w < 3 → s.works a die 2309 (0x300 + 8 * w) = true → s.mod.dr.contains die = false → s.mod.inReset = [] →
      (a.v ≠ 0 → ∃ t, exec (.retire a) s = .next t ∧ (∀ b, b < 64 → isCore (die * 256 + 64 * w + b) = true →
        t.mod.retired (die * 256 + 64 * w + b) = bitOn a.v b ∧
        (bitOn a.v b ≠ s.mod.retired (die * 256 + 64 * w + b) → t.mod.resetting (die * 256 + 64 * w + b)))) ∧
      (s.mod.reg die 2309 (0x300 + 8 * w) &&& (2 ^ 64 - 1 - a.v.toNat) ≠ 0 → ∃ t, exec (.unretire a) s = .next t ∧
        (∀ b, b < 64 → isCore (die * 256 + 64 * w + b) = true → t.mod.retired (die * 256 + 64 * w + b) = bitOn a.v b ∧
        (bitOn a.v b ≠ s.mod.retired (die * 256 + 64 * w + b) → t.mod.resetting (die * 256 + 64 * w + b)))))) ∧
  (
    (∀ a die w s, die < 4 → w < 3 → s.works a die 2309 (0x320 + 8 * w) = true →
      let done := fun (t : State) => ∀ b, b < 64 → isCore (die * 256 + 64 * w + b) = true →
        t.mod.fld die 2309 (0x320 + 8 * w) b 1 = bits a.v.toNat b 1 ∧
        t.mod.parked (die * 256 + 64 * w + b) = (s.mod.parked (die * 256 + 64 * w + b) && bitOn a.v b)
      (a.v ≠ 0 → ∃ t, exec (.parkRequest a) s = .next t ∧ done t) ∧
      (s.mod.reg die 2309 (0x320 + 8 * w) &&& (2 ^ 64 - 1 - a.v.toNat) ≠ 0 → ∃ t, exec (.parkClear a) s = .next t ∧ done t)) ∧
    (∀ c s, isCore c = true → s.mod.fld (c / 256) 2309 (0x320 + c % 256 / 64 * 8) (c % 64) 1 = 1 → s.mod.parked c = false →
      s.mod.coreSweep c = false → s.mod.retired c = false → s.mod.quiescent c = true → (s.mod.core c).wcb = [] → s.mod.writesOut c = false →
      ∃ t, exec (.parkEnter c) s = .next t ∧ t.mod.parked c = true ∧ t.mod.core c = Core.reset ∧ t.mod.mem = s.mod.mem ∧ t.mod.pm = s.mod.pm) ∧
    (∀ a die s, die < 4 → s.works a die 2309 0x110 = true →
      (bitOn a.v 0 = true → ∃ t, exec (.dozeRequest a) s = .next t ∧ t.mod.fld die 2309 0x110 0 1 = 1 ∧
        t.mod.fld die 2309 0x110 1 1 = s.mod.fld die 2309 0x110 1 1) ∧
      (bitOn a.v 0 = false → ∃ t, exec (.dozeClear a) s = .next t ∧ t.mod.fld die 2309 0x110 0 2 = 0)) ∧
    (∀ die s, die < 4 → s.mod.fld die 2309 0x110 0 1 = 1 → (∀ c, isCore c = true → c / 256 = die → s.mod.parked c = true ∨ s.mod.retired c = true) →
      ∃ t, exec (.dozeEnter die) s = .next t ∧ t.mod.fld die 2309 0x110 1 1 = 1 ∧ t.mod.mem = s.mod.mem)) ∧
  (
    (∀ s, s.aon.powered = true → s.mod.d3 = false → s.mod.fld 4 hostportPage 0x100 0 1 = 1 →
      ∃ t, exec .d3hotEntry s = .next t ∧ t.mod.d3 = true ∧ t.mod.standby = true ∧ t.mod.mem = s.mod.mem ∧
        (∀ d, d < 4 → t.mod.fld d 2309 0x110 0 1 = 1) ∧
        (∀ c, isCore c = true → t.mod.fld (c / 256) 2309 (0x320 + c % 256 / 64 * 8) (c % 64) 1 = 1) ∧
        (∀ c, isCore c = true → s.mod.quiescent c = true → (s.mod.core c).wcb = [] → s.mod.writesOut c = false → s.mod.coreSweep c = false →
          s.mod.retired c = false → t.mod.parked c = true)) ∧
    (∀ s, s.mod.d3 = true →
      ∃ t, exec .d0Return s = .next t ∧ t.mod.d3 = false ∧ t.mod.standby = false ∧ (∀ d, d < 4 → t.mod.fld d 2309 0x110 0 2 = 0) ∧
        (∀ c, t.mod.parked c = s.mod.parked c) ∧ t.mod.mem = s.mod.mem)) ∧
  (
    (∀ c s, isCore c = true → s.mod.fld (c / 256) (corePage c 0) 0x180 0 1 = 1 → s.mod.coreSweep c = false →
      ((s.mod.core c).running || (s.mod.core c).idle) = true →
      (s.mod.warned.contains c = false ∨ s.mod.fld (c / 256) (corePage c 0) 0x180 1 1 = 0 →
        ∃ t, exec (.coreWatchdogExpiry c) s = .next t ∧ t.mod.warned.contains c = true ∧ t.mod.irqSet (c / 256) 2309 1 ∧
          t.mod.fld (c / 256) 2309 (0x380 + c % 256 / 64 * 8) (c % 64) 1 = 1 ∧ t.mod.mem = s.mod.mem) ∧
      (s.mod.warned.contains c = true → s.mod.fld (c / 256) (corePage c 0) 0x180 1 1 = 1 → s.mod.dr.contains (c / 256) = false → s.mod.inReset = [] →
        ∃ t, exec (.coreWatchdogExpiry c) s = .next t ∧ t.mod.resetting c)) ∧
    (∀ a die s, die < 6 → s.works a die (sweepPage die) 0x110 = true → bitOn a.v 16 = true →
      ∃ t, exec (.stewardWatchdogKick a) s = .next t ∧ t.mod.warned.contains (0x3F0 + die) = false) ∧
    (∀ die test dead s, die < 6 → s.mod.fld die (sweepPage die) 0x110 0 1 = 1 → s.mod.dr.contains die = false →
      (s.mod.warned.contains (0x3F0 + die) = false →
        ∃ t, exec (.stewardWatchdogExpiry die test dead) s = .next t ∧ t.mod.irqSet die (sweepPage die) 0 ∧ t.mod.warned.contains (0x3F0 + die) = true) ∧
      (s.mod.warned.contains (0x3F0 + die) = true → die < 4 → s.Inv →
        ∃ t, exec (.stewardWatchdogExpiry die test dead) s = .next t ∧ t.mod.dr.contains die = true ∧ t.aon.caused die 2 5 ∧
          t.aon.epoch die = nextEpoch (s.aon.epoch die)) ∧
      (s.mod.warned.contains (0x3F0 + die) = true → 4 ≤ die → s.resettable → ∃ t, exec (.stewardWatchdogExpiry die test dead) s = .next t ∧ t.mrOf s 5 test)))

/-- VIN below 38.0 V or above 50.0 V, the fall of PWR_EN and a thermal trip each turn the module off, and everything but OTP and flash is
lost; PWR_EN rising, or VIN rising above 39.0 V with PWR_EN asserted, brings power and a PO to come; a crossing of 40.0 V or 48.0 V raises
VIN_WARN (R454, R455, R457, R465, R467). A write of PWR_OP starts the change of a half to a new code, codes 5 to 7 storing 0; during a
change it only sets the next target. The change ends with the new code in effect and OP_DONE (R459, R469). A sag is counted and makes the
droop request at least one step; while it lasts the request rises to at most 8, and without it falls by one; the clock stretch is the
largest request (R461, R462). A grant sets the budget of its die and raises its SEQ, but is lost on a die in DR; a report reaches BW; at the
end of a window the cap request of a half rises above the budget in force and falls below 95% of it; without a grant for 3 ms the fallback
holds; the 10 ms mean above 1.05 × PWR_BUDGET raises OVER_BUDGET (R463 to R465, R469). A sensor at THROTTLE_C raises the thermal request of
its half by a step, all below THROTTLE_C - 2 lower it; a sensor that reaches ALERT_C raises ALERT and asserts ALERT_N (R465, R466, R470). -/
def Obligations.PowerAndHeat : Prop :=
  (
    (∀ vin s, vin < 3800 → ∃ t, exec (.vinUndervoltage vin) s = .next t ∧ t.off s ∧ t.aon.vin = vin) ∧
    (∀ vin s, 5000 < vin → ∃ t, exec (.vinOvervoltage vin) s = .next t ∧ t.off s ∧ t.aon.overV = true) ∧
    (∀ s, ∃ t, exec .pwrEnDeassert s = .next t ∧ t.off s ∧ t.aon.pwrEn = false) ∧
    (∀ n s, n < 6 ∨ (8 ≤ n ∧ n < 16) → s.aon.powered = true →
      ∃ t, exec (.thermalTrip n) s = .next t ∧ t.off s ∧ t.aon.trip = some n ∧ t.alert = true ∧ t.pwrGood = false) ∧
    (∀ s, s.aon.pwrEn = false → ∃ t, exec .pwrEnAssert s = .next t ∧ t.aon.pwrEn = true ∧ t.aon.overV = false ∧ t.aon.trip = none ∧
      (3900 < s.aon.vin → t.aon.powered = true ∧ t.aon.poDue = true) ∧ (s.aon.vin ≤ 3900 → t.aon.powered = s.aon.powered)) ∧
    (∀ vin s, s.aon.powered = true → (decide (s.aon.vin < 4000) ≠ decide (vin < 4000) ∨ decide (4800 < s.aon.vin) ≠ decide (4800 < vin)) →
      ∃ t, exec (.vinWarn vin) s = .next t ∧ t.aon.vin = vin ∧ t.aon.powered = true ∧ t.mod.irqSet 4 2075 4) ∧
    (∀ vin s, s.aon.powered = false → 3900 < vin → s.aon.pwrEn = true → s.aon.overV = false → s.aon.trip = none →
      ∃ t, exec (.vinWarn vin) s = .next t ∧ t.aon.powered = true ∧ t.aon.poDue = true)) ∧
  (
    (∀ a die half s, die < 4 → half < 2 → s.works a die 2315 0x100 = true →
      let code := if bits a.v.toNat (4 * half) 3 < 5 then bits a.v.toNat (4 * half) 3 else 0
      ∃ t, exec (.pwrOpWrite a) s = .next t ∧ t.mod.pwr die 0x100 (4 * half) 3 = code ∧
        t.mod.pwr die 0x108 (4 * half) 3 = s.mod.pwr die 0x108 (4 * half) 3 ∧
        (s.mod.pwr die 0x108 (8 + half) 1 = 0 → s.mod.pwr die 0x108 (4 * half) 3 ≠ code →
          t.mod.pwr die 0x108 (8 + half) 1 = 1 ∧ SMap.get 0 t.mod.opTarget (halfKey die half) = code) ∧
        (s.mod.pwr die 0x108 (8 + half) 1 = 0 → s.mod.pwr die 0x108 (4 * half) 3 = code → t.mod.pwr die 0x108 (8 + half) 1 = 0) ∧
        (s.mod.pwr die 0x108 (8 + half) 1 = 1 → t.mod.pwr die 0x108 (8 + half) 1 = 1 ∧
          SMap.get 0 t.mod.opTarget (halfKey die half) = SMap.get 0 s.mod.opTarget (halfKey die half))) ∧
    (∀ die half s, die < 4 → half < 2 → s.mod.pwr die 0x108 (8 + half) 1 = 1 →
      let goal := SMap.get 0 s.mod.opTarget (halfKey die half)
      goal < 8 → ∃ t, exec (.opChangeDone die half) s = .next t ∧ t.mod.pwr die 0x108 (4 * half) 3 = goal ∧ t.mod.irqSet die 2315 1 ∧
        (s.mod.pwr die 0x100 (4 * half) 3 = goal → t.mod.pwr die 0x108 (8 + half) 1 = 0) ∧
        (s.mod.pwr die 0x100 (4 * half) 3 ≠ goal → t.mod.pwr die 0x108 (8 + half) 1 = 1 ∧
          SMap.get 0 t.mod.opTarget (halfKey die half) = s.mod.pwr die 0x100 (4 * half) 3))) ∧
  (
    ∀ die half s, isHalf die half = true → s.dieOn die = true →
      let key := halfKey die half
      let d := SMap.get 0 s.mod.droop key
      (∃ t, exec (.droopDetect die half) s = .next t ∧ t.mod.reg die (pwrPage die) 0x148 = (s.mod.reg die (pwrPage die) 0x148 + 1) % 2 ^ 64 ∧
        SMap.get 0 t.mod.droop key = max 1 d ∧ t.mod.sag.contains key = true ∧ t.mod.stretched die half) ∧
      (s.mod.sag.contains key = true → ∃ t, exec (.droopStep die half true) s = .next t ∧ SMap.get 0 t.mod.droop key = min 8 (d + 1) ∧ t.mod.stretched die half) ∧
      (∃ t, exec (.droopStep die half false) s = .next t ∧ SMap.get 0 t.mod.droop key = d - 1 ∧ t.mod.sag.contains key = false ∧ t.mod.stretched die half)) ∧
  (
    (∀ a d s, d < 4 → s.works a 4 2075 (0x220 + 8 * d) = true →
      ∃ t, exec (.pwrGrant a) s = .next t ∧
        (s.mod.dr.contains d = false → t.mod.pwr d 0x110 0 16 = bits a.v.toNat 0 16 ∧ t.mod.pwr d 0x110 16 16 = (s.mod.pwr d 0x110 16 16 + 1) % 65536 ∧
          t.mod.budget d = bits a.v.toNat 0 16) ∧
        (s.mod.dr.contains d = true → t.mod = s.mod)) ∧
    (∀ d avg steps s, d < 6 → s.dieOn d = true → avg < 65536 →
      ∃ t, exec (.powerReport d avg steps) s = .next t ∧ t.mod.pwr d 0x120 0 16 = avg ∧ t.mod.fld 4 2075 (0x260 + 8 * d) 0 16 = avg ∧
        t.mod.fld 4 2075 (0x260 + 8 * d) 16 16 = (if d < 4 then avg * (160 + steps) / 160 else 0) % 65536 ∧
        t.mod.fld 4 2075 (0x260 + 8 * d) 32 16 = s.mod.pwr d 0x110 16 16 ∧ t.mod.irqSet 4 2075 2) ∧
    (∀ d mean s, d < 6 → s.dieOn d = true →
      ∃ t, exec (.powerWindow d mean) s = .next t ∧ t.mod.pwr d 0x120 16 16 = max (s.mod.pwr d 0x120 16 16) mean % 65536 ∧
        (∀ half, half < 2 → d < 4 →
          let c := SMap.get 0 s.mod.cap (halfKey d half)
          SMap.get 0 t.mod.cap (halfKey d half) =
            if s.mod.spine d half = true then c else if s.mod.budget d < mean then min 8 (c + 1) else if mean * 100 < 95 * s.mod.budget d then c - 1 else c)) ∧
    (∀ d s, d < 4 → s.dieOn d = true →
      ∃ t, exec (.budgetLost d) s = .next t ∧ t.mod.budget d = s.mod.pwr d 0x118 0 16 ∧ t.mod.errSet d 2315 8 ∧ t.mod.irqSet d 2315 0) ∧
    (∀ mean s, s.dieOn 4 = true →
      (105 * s.mod.pwr 4 0x200 0 12 < 100 * mean → ∃ t, exec (.overBudget mean) s = .next t ∧ t.mod.irqSet 4 2075 3 ∧ t.alert = true) ∧
      (100 * mean ≤ 105 * s.mod.pwr 4 0x200 0 12 → ∃ t, exec (.overBudget mean) s = .next t ∧ t.mod.overMean = false ∧ t.mod.regs = s.mod.regs))) ∧
  (
    (∀ die half temps s, isHalf die half = true → s.dieOn die = true → temps.length = (halfSensors die half).length →
      let thr := sext 8 (s.mod.fld die (thermPage die) 0x108 0 8)
      let c := SMap.get 0 s.mod.therm (halfKey die half)
      ∃ t, exec (.thermalThrottleStep die half temps) s = .next t ∧ t.mod.stretched die half ∧
        (temps.any (fun x => decide (thr ≤ sext 8 x)) = true → SMap.get 0 t.mod.therm (halfKey die half) = min 8 (c + 1) ∧
          t.mod.fld die (thermPage die) 0x110 half 1 = 1 ∧ (c = 0 → t.mod.irqSet die (thermPage die) 0)) ∧
        (temps.all (fun x => decide (sext 8 x < thr - 2)) = true → temps ≠ [] → SMap.get 0 t.mod.therm (halfKey die half) = c - 1)) ∧
    (∀ die n x s, die < 6 → n < (if die < 4 then 16 else 4) → s.dieOn die = true →
      let lim := sext 8 (s.mod.fld die (thermPage die) 0x108 8 8)
      ∃ t, exec (.thermAlert die n x) s = .next t ∧ t.mod.reg die (thermPage die) (0x200 + 8 * n) = x % 256 ∧
        (lim ≤ sext 8 x → t.alert = true) ∧
        (sext 8 (s.mod.fld die (thermPage die) (0x200 + 8 * n) 0 8) < lim → lim ≤ sext 8 x → t.mod.irqSet die (thermPage die) 1)))

/-- STATUS, SELF_TEST, CHALLENGE and ZEROISE are served without a token: the state, life cycle, rollback value and REASON; a test that fails
puts the Keeper into ERROR; a fresh challenge; every secret and the protected store erased, with the device secret and the image kept (R433
to R437). With a token that verifies, RANDOM returns as many bytes as asked, ENROL_CO and ENROL_USER replace their keys, ENROL_CERT writes
the chain to the public record block, and DEBUG_UNLOCK unlocks its level; each check consumes the challenge (R432, R433, R452). A service in
a state or life cycle that does not permit it answers NOT_PERMITTED, in ERROR ERROR_STATE; one whose token does not verify answers
AUTH_FAIL, sets TOKEN_REJECT and consumes the challenge; a request during a long service answers BUSY (R432 to R434). -/
def Obligations.KeeperServices : Prop :=
  (
    ∀ (a : RegAcc) (s : State),
      (s.asksKeeper a 0x01 → s.Inv →
        ∃ t, exec (.status a) s = .next t ∧ t.mod.replied 0 [s.mod.kState, s.aon.lc, s.aon.rollback, s.mod.kp 0x100 8 8] ∧ t.aon = s.aon) ∧
      (s.asksKeeper a 0x02 → (s.mod.kState = 1 ∨ s.mod.kState = 3) →
        (a.test = 0 → ∃ t, exec (.selfTest a) s = .next t ∧ t.mod.replied 0 [] ∧ t.mod.kState = s.mod.kState) ∧
        (a.test ≠ 0 → ∃ t, exec (.selfTest a) s = .next t ∧ t.mod.replied 8 [] ∧ t.mod.kState = 3 ∧ t.mod.kp 0x100 8 8 = a.test % 256 ∧
          t.mod.irqSet 4 keeperPage 4)) ∧
      (s.asksKeeper a 0x03 → (s.mod.kState = 1 ∨ s.mod.kState = 2) →
        ∃ t c, exec (.challenge a) s = .next t ∧ c < 2 ^ 256 ∧ t.mod.replied 0 (leBytes 32 c) ∧ t.mod.keeper.chal = some c) ∧
      ((s.asksKeeper a 0x70 ∨ (s.works a 4 keeperPage 0x108 = true ∧ bitOn a.v 0 = true ∧ bitOn a.v 1 = false)) → s.mod.kState ≠ 5 →
        ∃ t, exec (.zeroise a) s = .next t ∧ t.mod.kState = (if s.mod.kState = 3 then 3 else 4) ∧ t.mod.keeper.chal = none ∧ t.mod.keeper.devid = none ∧
          t.mod.keeper.alias_ = none ∧ t.aon.coKey = none ∧ t.aon.userKey = none ∧ t.aon.uds = s.aon.uds ∧ t.aon.flash = s.aon.flash)) ∧
  (
    ∀ (a : RegAcc) (s : State), s.mod.kState = 1 →
      let p := s.mod.mboxPayload
      (s.asksKeeper a 0x20 → s.tokened 0x20 [2, 1, 0] noArg → 146 ≤ p.length → 1 ≤ leField p 144 2 → leField p 144 2 ≤ 1024 →
        ∃ t l, exec (.random a) s = .next t ∧ t.mod.replied 0 l ∧ l.length = leField p 144 2 ∧ t.mod.keeper.chal = none ∧ t.aon = s.aon) ∧
      (s.asksKeeper a 0x30 → s.aon.lc = 1 → s.tokened 0x30 [0] ownArg →
        ∃ t, exec (.enrolCo a) s = .next t ∧ t.mod.replied 0 [] ∧ t.aon.coPub = some (leField p 48 32) ∧ t.aon.userPub = s.aon.userPub ∧
          t.mod.keeper.chal = none ∧ t.aon.flash = s.aon.flash) ∧
      (s.asksKeeper a 0x31 → s.aon.lc = 1 → s.tokened 0x31 [1, 0] ownArg →
        ∃ t, exec (.enrolUser a) s = .next t ∧ t.mod.replied 0 [] ∧ t.aon.userPub = some (leField p 48 32) ∧ t.aon.coPub = s.aon.coPub ∧
          t.mod.keeper.chal = none ∧ t.aon.flash = s.aon.flash) ∧
      (∀ l m, s.asksKeeper a 0x32 → s.aon.lc ≤ 1 → s.tokened 0x32 [0] (stagedArg s none) → 160 ≤ p.length → 1 ≤ leField p 152 8 → leField p 152 8 ≤ 16384 →
        readHbm s.spent (leField p 144 8) (leField p 152 8) = (some l, m) →
        ∃ t, exec (.enrolCert a) s = .next t ∧ t.mod.replied 0 [] ∧ t.aon.certLen = leField p 152 8 ∧
          (∀ i, i < l.length → t.aon.flashByte (recordBase + i) = l.getD i 0 % 256) ∧
          (∀ o, o < recordBase ∨ recordTop ≤ o → t.aon.flashByte o = s.aon.flashByte o)) ∧
      (∀ level, s.asksKeeper a 0x60 → level = leField p 48 1 → ((level = 1 ∧ s.aon.lc < 3) ∨ (level = 2 ∧ s.aon.lc = 2)) →
        s.tokened 0x60 (if level = 1 then [1, 0] else [0]) byteArg →
        ∃ t, exec (.debugUnlock a) s = .next t ∧ t.mod.replied 0 [] ∧ t.mod.keeper.debug = level ∧ t.mod.keeper.unlocked = true ∧ t.mod.keeper.chal = none)) ∧
  (
    ∀ (a : RegAcc) (s : State),
      (s.asksKeeper a 0x30 → s.mod.kState ≠ 1 ∨ s.aon.lc ≠ 1 →
        ∃ t, exec (.enrolCo a) s = .next t ∧ t.mod.replied (if s.mod.kState = 3 then 8 else 3) [] ∧ t.aon = s.aon ∧ t.mod.keeper = s.mod.keeper) ∧
      (∀ i code signers arg, (i, code, signers, arg) ∈ [(Instr.enrolCo a, 0x30, [0], ownArg), (Instr.enrolUser a, 0x31, [1, 0], ownArg)] →
        s.asksKeeper a code → s.mod.kState = 1 → s.aon.lc = 1 → 144 ≤ s.mod.mboxPayload.length →
        tokenOk s s.mod.mboxPayload code signers (arg s.mod.mboxPayload) = false → ∃ t, exec i s = .next t ∧ t.authFails s) ∧
      (s.works a 4 keeperPage 0x110 = true → bitOn a.v 0 = true → s.mod.mboxCode = 0x40 → s.mod.kp 0x110 1 1 = 1 →
        ∃ t, exec (.update a) s = .next t ∧ t.mod.kp 0x800 0 16 = 7 ∧ t.mod.kp 0x110 1 1 = 1 ∧ t.mod.irqSet 4 keeperPage 0 ∧ t.aon = s.aon))

/-- UPDATE checks the staged image and erases the image region, or refuses it with ROLLBACK or VERIFY_FAIL and leaves the flash; its end
programs the components and the manifest and sets UPDATE_DONE, or answers TAMPERED with no manifest (R445). In RECOVERY, GO checks the image
at MPA 0, programs it and performs an MR, or sets REASON (R444). A LIFECYCLE transition that R451 allows blows its fuses, zeroises, erases
the record block and the store and performs an MR with SRC 7; another answers NOT_PERMITTED. -/
def Obligations.ImagesAndLifeCycle : Prop :=
  (
    (∀ a s, s.asksKeeper a 0x40 → s.mod.kState = 1 → (s.aon.lc = 1 ∨ s.aon.lc = 2) → s.tokened 0x40 [1, 0] (stagedArg s (some 4096)) →
      let p := s.mod.mboxPayload
      let r := checkStaged s.spent (leField p 144 8) (leField p 152 8)
      160 ≤ p.length →
      (r.1 = 0 → ∃ t, exec (.update a) s = .next t ∧ t.mod.kp 0x110 1 1 = 1 ∧ (∀ o, o < imageTop → t.aon.flashByte o = 0xFF) ∧
        (∀ o, imageTop ≤ o → t.aon.flashByte o = s.aon.flashByte o) ∧ t.mod.keeper.update = some ⟨leField p 144 8, leField p 152 8, true, leNat r.2.1⟩) ∧
      (r.1 ≠ 0 → ∃ t, exec (.update a) s = .next t ∧ t.mod.replied (if r.1 = 3 then 5 else 4) [] ∧ t.aon = s.aon)) ∧
    (∀ u l m s, s.mod.keeper.update = some u →
      let b := leBytes 4096 u.manifest
      let s0 : State := { s with mod := s.mod.onKeeper (fun k => ({ k with update := none } : Keeper)) }
      (readComps s.aon u.mpa (compsOf b) s0.mod = (some l, m) → compsReason (compsOf b) l = 0 →
        ∃ t, exec .updateDone s = .next t ∧ t.mod.replied 0 [] ∧ t.mod.irqSet 4 keeperPage 5 ∧ t.aon.flashBytes 0 4096 = b) ∧
      (readComps s.aon u.mpa (compsOf b) s0.mod = (some l, m) → compsReason (compsOf b) l ≠ 0 →
        ∃ t, exec .updateDone s = .next t ∧ t.mod.replied 6 [] ∧ t.aon = s.aon))) ∧
  (
    (∀ a s, s.works a 4 keeperPage 0x120 = true → bitOn a.v 63 = true → s.mod.kState = 2 →
      let s1 : State := { s with mod := s.mod.commonWrite a.q 4 keeperPage 0x120 (2 ^ 64 - 1) a.v.toNat }
      let r := checkStaged s1 0 (bits a.v.toNat 0 23)
      (r.1 = 0 → s.resettable → ∃ t, exec (.recoveryGo a) s = .next t ∧ t.aon.flashBytes 0 4096 = r.2.1 ∧ t.mod.fresh0 ∧ (∀ d, d < 6 → t.aon.caused d 1 6)) ∧
      (r.1 ≠ 0 → ∃ t, exec (.recoveryGo a) s = .next t ∧ t.mod.kp 0x100 8 8 = r.1 ∧ t.aon = s.aon)) ∧
    (∀ a s, s.asksKeeper a 0x50 → s.mod.kState = 1 →
      let goal := leField s.mod.mboxPayload 48 1
      (∀ sg, lifecycleSigners s.aon.lc goal = some sg → s.tokened 0x50 sg byteArg → s.resettable →
        ∃ t, exec (.lifecycle a) s = .next t ∧ t.aon.lc = goal ∧ t.aon.coKey = none ∧ t.aon.userKey = none ∧ t.mod.fresh0 ∧
          (∀ o, recordBase ≤ o → o < 0x4000000 → t.aon.flashByte o = 0xFF) ∧ (∀ d, d < 6 → t.aon.caused d 1 7) ∧
          (goal = 3 → romTest a.test = false → t.mod.kState = 5)) ∧
      (lifecycleSigners s.aon.lc goal = none → ∃ t, exec (.lifecycle a) s = .next t ∧ t.mod.replied 3 [] ∧ t.aon = s.aon)))

/-- The Keeper answers SPDM requests in RUN, over DOE one at a time; a DOE request while a response is pending sets the error bit (R404,
R405, R448, R449). What each reply holds beyond the fields the spec names is the model's layout (log entry 19). MCTP control sets and gets
the endpoint ID; PLDM reads a die's highest temperature and a latched trip, and answers NOT_READY during an MR (R405, R467). Authorised
debug halts and releases a core, and reads and writes its Loft and page registers, only while debug is unlocked (R452). -/
def Obligations.AttestationAndManagement : Prop :=
  (
    ∀ (doe : Bool) (s : State), s.mod.kState = 1 →
      ((doe = true → s.mod.doeBusy = false) →
        (∃ t, exec (.getVersion doe) s = .next t ∧ t.says s 0x84 0 [0x12] ∧ (doe = true → t.mod.doeBusy = true)) ∧
        (∃ t, exec (.getCapabilities doe) s = .next t ∧ t.says s 0xE1 0 (leBytes 4 0x16)) ∧
        (∃ t, exec (.negotiateAlgorithms doe) s = .next t ∧ t.says s 0xE3 0 (leBytes 4 0x200 ++ leBytes 4 4)) ∧
        (∃ t l, exec (.getDigests doe) s = .next t ∧ t.says s 0x81 0 ([1] ++ l) ∧ l.length = 64) ∧
        (∃ t, exec (.getCertificate doe 0) s = .next t ∧ t.says s 0x82 0 (chainBody s)) ∧
        (∀ n, n ≠ 0 → ∃ t, exec (.getCertificate doe n) s = .next t ∧ t.says s 0x7F 1 []) ∧
        (∃ t l, exec (.spdmChallenge doe) s = .next t ∧ t.says s 0x83 0 ([0] ++ l) ∧ l.length = 160) ∧
        (∃ t l, exec (.getMeasurements doe 0) s = .next t ∧ t.says s 0xE0 0 ([17] ++ l) ∧ l.length = 64) ∧
        (∀ i, 1 ≤ i → i ≤ 17 → ∃ t l, exec (.getMeasurements doe i) s = .next t ∧ t.says s 0xE0 0 (measurement s i ++ l) ∧ l.length = 64) ∧
        (∃ t l, exec (.getMeasurements doe 255) s = .next t ∧ l.length = 64 ∧
          t.says s 0xE0 0 ((List.range 17).flatMap (fun i => measurement s (i + 1)) ++ l)) ∧
        (∃ t, exec (.keyExchange doe) s = .next t ∧ t.says s 0x7F 7 [])) ∧
      (s.mod.doeBusy = false →
        (∃ t, exec (.doeDiscovery 0) s = .next t ∧ t.says s 0 0 [1, 0, 0, 1]) ∧
        (∃ t, exec (.doeDiscovery 1) s = .next t ∧ t.says s 0 0 [1, 0, 1, 0])) ∧
      (s.mod.doeBusy = true → ∃ t, exec (.getVersion true) s = .next t ∧ t.mod.doeErr = true ∧ t.mod.out = s.mod.out)) ∧
  (
    (∀ arg s, s.aon.powered = true → s.mod.kState ≠ 0 →
      (∃ t, exec (.mctpControl 1 arg) s = .next t ∧ t.aon.eid = arg % 256 ∧ t.says s 0x100 0 [arg % 256]) ∧
      (∃ t, exec (.mctpControl 2 arg) s = .next t ∧ t.aon = s.aon ∧ t.says s 0x100 0 [s.aon.eid])) ∧
    (∀ n s, s.aon.powered = true → s.mod.kState ≠ 0 → n < 6 →
      ((s.mod.barnSweep 0 || s.mod.barnSweep 1) = false →
        ∃ t, exec (.pldmRequest n) s = .next t ∧ t.says s 0x101 0 (leBytes 4 (s.mod.fld n (thermPage n) 0x100 0 8))) ∧
      ((s.mod.barnSweep 0 || s.mod.barnSweep 1) = true → ∃ t, exec (.pldmRequest n) s = .next t ∧ t.says s 0x101 4 (leBytes 4 0))) ∧
    (∀ x s, s.aon.powered = false → s.aon.trip = some x → ∃ t, exec (.pldmRequest 17) s = .next t ∧ t.says s 0x101 0 (leBytes 4 (256 + x))) ∧
    (∀ c x v s, isCpu c = true → s.up = true → (s.aon.lc = 0 ∨ s.mod.keeper.debug ≠ 0) → x % 8 = 0 → x < localTop c →
      (∃ t, exec (.authorisedDebug 0 c x v) s = .next t ∧ t.mod.debugHalt.contains c = true ∧ t.mod.mem = s.mod.mem) ∧
      (∃ t, exec (.authorisedDebug 1 c x v) s = .next t ∧ t.mod.debugHalt.contains c = false ∧ t.mod.mem = s.mod.mem) ∧
      (∃ t, exec (.authorisedDebug 2 c x v) s = .next t ∧ t.says s 0x14 0 (leBytes 8 (s.mod.rd (loftKey c + x) 8)) ∧ t.mod.mem = s.mod.mem) ∧
      (∃ t, exec (.authorisedDebug 3 c x v) s = .next t ∧ t.mod.stored s.mod (loftKey c + x) 8 255 v.toNat)) ∧
    (∀ c die page off v s, s.up = true → (s.aon.lc = 0 ∨ s.mod.keeper.debug ≠ 0) → ¬(die = 4 ∧ page = keeperPage) →
      decodeMpa (regMpa die page off) = .reg die page off →
      exec (.authorisedDebug 5 c (regMpa die page off) v) s = .next (regAccess {} fwCode die page off 8 true true v.toNat s).2) ∧
    (∀ op c x v s, (op < 4 → isCpu c = true) → s.aon.lc ≠ 0 → s.mod.keeper.debug = 0 → exec (.authorisedDebug op c x v) s = .next s))

/-- Reset leaves nothing pending, every die epoch 1, TIME, MONO and FRAME_NUM 0, memory and registers at their reset values, and no traffic;
the values of registers for which the spec gives none are the model's (log entries 23 and 24). The invariant holds of the reset state. -/
def Obligations.ResetState : Prop :=
  (
    State.reset.pending = [] ∧ (∀ d, d < 6 → State.reset.aon.epoch d = 1) ∧ State.reset.aon.time = 0 ∧ State.reset.aon.mono = 0 ∧
      State.reset.aon.frameNum = 0 ∧ State.reset.aon.trim = 0 ∧ (∀ k, SMap.get 0 State.reset.mod.mem k = 0) ∧
      (∀ c, State.reset.mod.core c = Core.reset) ∧ (∀ die page off, State.reset.mod.reg die page off = (resetVal die page off).toNat) ∧
      State.reset.mod.net = [] ∧ Memory.wf State.reset.mod.mem = true) ∧
  (
    State.reset.Inv)

/-- Every step keeps the invariant: no epoch is ever 0 or beyond 16 bits, SWEEP_CAUSE exists for each die, the trim stays in its range and
no ROLLBACK fuse lies beyond the 64 (R10, R341, R364, R428, R438, R443). -/
def Obligations.StepsKeepInvariant : Prop :=
  ∀ (s t : State), s.Inv → step s = .next t → t.Inv

/-- A command whose agents the module has always has an outcome, and no command is refused: the machine stops exactly on a command that
names an agent it does not have (R5, R7, R17, R228, R265). -/
def Obligations.EveryCommandAnswers : Prop :=
  ∀ (i : Instr) (s : State), (i.wf = true → ∃ t, exec i s = .next t) ∧ (i.wf = false → ∃ n, exec i s = .fault (.noSuchAgent n))
end

