-- ==== Sys2Proof/Laws/SMap.lean ====
section
/-! SUPPORT. Laws of the sparse maps: a read after a write, and that every operation keeps the canonical form. -/

namespace Sys2Proof.Machine

variable {α : Type}

@[simp] theorem SMap.get_nil (d : α) (a : Nat) : SMap.get d [] a = d := rfl

theorem SMap.get_insert (d : α) (m : SMap α) (a b : Nat) (v : α) (h : ∀ e ∈ m, e.1 ≠ a) :
    SMap.get d (SMap.insert a v m) b = if b = a then v else SMap.get d m b := by
  induction m with
  | nil =>
    by_cases hb : b = a
    · simp [SMap.insert, SMap.get, hb]
    · simp [SMap.insert, SMap.get, hb, Ne.symm hb]
  | cons e t ih =>
    obtain ⟨k, w⟩ := e
    have hk : k ≠ a := h (k, w) (by simp)
    have ht := ih (fun e he => h e (by simp [he]))
    unfold SMap.insert
    split
    · by_cases hb : b = a
      · simp [SMap.get, hb]
      · simp [SMap.get, hb, Ne.symm hb]
    · by_cases hb : b = a
      · subst hb; simp [SMap.get, hk, ht]
      · simp only [SMap.get, ht, hb, if_false]

theorem SMap.get_filter_ne (d : α) (m : SMap α) (a b : Nat) :
    SMap.get d (m.filter (fun e => !(e.1 == a))) b = if b = a then d else SMap.get d m b := by
  induction m with
  | nil => simp
  | cons e t ih =>
    obtain ⟨k, w⟩ := e
    by_cases hk : k = a
    · subst hk
      by_cases hb : b = k
      · subst hb; simpa using ih
      · simp [ih, hb, SMap.get, Ne.symm hb]
    · by_cases hb : b = a
      · subst hb; simp [hk, SMap.get, ih]
      · simp [hk, SMap.get, ih, hb]

/-- A read after a write: the value written at its key, the value before at every other. -/
theorem SMap.get_put [DecidableEq α] (d : α) (m : SMap α) (a b : Nat) (v : α) :
    SMap.get d (SMap.put d m a v) b = if b = a then v else SMap.get d m b := by
  unfold SMap.put
  split
  next h => rw [SMap.get_filter_ne]; simp [h]
  next h =>
    rw [SMap.get_insert, SMap.get_filter_ne]
    · by_cases hb : b = a <;> simp [hb]
    · intro e he
      have := List.of_mem_filter he
      simpa using this

@[simp] theorem SMap.get_put_same [DecidableEq α] (d : α) (m : SMap α) (a : Nat) (v : α) :
    SMap.get d (SMap.put d m a v) a = v := by simp [SMap.get_put]

theorem SMap.get_put_ne [DecidableEq α] (d : α) (m : SMap α) {a b : Nat} (v : α) (h : b ≠ a) :
    SMap.get d (SMap.put d m a v) b = SMap.get d m b := by simp [SMap.get_put, h]

/-! ### The canonical form -/

/-- A write leaves every other key, whatever default it is read with. -/
theorem SMap.get_put_other [DecidableEq α] (d d' : α) (m : SMap α) (v : α) {a b : Nat} (h : b ≠ a) :
    SMap.get d' (SMap.put d m a v) b = SMap.get d' m b := by
  have hf : SMap.get d' (m.filter (fun e => !(e.1 == a))) b = SMap.get d' m b := by rw [SMap.get_filter_ne]; simp [h]
  simp only [SMap.put]
  split
  · exact hf
  · rw [SMap.get_insert d' _ a b v (by intro e he; simpa using (List.mem_filter.mp he).2), if_neg h, hf]

theorem SMap.rising_weaken {b : Option Nat} {m : SMap α} (h : SMap.rising b m = true) : SMap.rising none m = true := by
  cases m with
  | nil => rfl
  | cons e t => obtain ⟨k, w⟩ := e; simp [SMap.rising] at h ⊢; exact h.2

theorem SMap.rising_mono {x k : Nat} {m : SMap α} (hxk : x ≤ k) (h : SMap.rising (some k) m = true) :
    SMap.rising (some x) m = true := by
  cases m with
  | nil => rfl
  | cons e t => obtain ⟨j, w⟩ := e; simp [SMap.rising] at h ⊢; exact ⟨by omega, h.2⟩

theorem SMap.rising_filter (p : Nat × α → Bool) : ∀ (b : Option Nat) (m : SMap α), SMap.rising b m = true →
    SMap.rising b (m.filter p) = true
  | _, [], _ => rfl
  | b, (k, w) :: t, h => by
    have ht : SMap.rising (some k) t = true := by simp [SMap.rising] at h; exact h.2
    have ih := SMap.rising_filter p (some k) t ht
    by_cases hp : p (k, w) = true
    · simp only [List.filter_cons, hp, if_true]
      simp only [SMap.rising, Bool.and_eq_true] at h ⊢
      exact ⟨h.1, ih⟩
    · simp only [List.filter_cons, hp]
      cases b with
      | none => exact SMap.rising_weaken ih
      | some x =>
        simp [SMap.rising] at h
        exact SMap.rising_mono (by omega) ih

theorem SMap.rising_insert (a : Nat) (v : α) : ∀ (b : Option Nat) (m : SMap α), SMap.rising b m = true →
    (∀ e ∈ m, e.1 ≠ a) → (∀ x, b = some x → x < a) → SMap.rising b (SMap.insert a v m) = true
  | b, [], _, _, hb => by cases b with
    | none => rfl
    | some x => simp [SMap.insert, SMap.rising, hb x rfl]
  | b, (k, w) :: t, h, hn, hb => by
    have ht : SMap.rising (some k) t = true := by simp [SMap.rising] at h; exact h.2
    have hk : k ≠ a := hn (k, w) (by simp)
    unfold SMap.insert
    split
    next hlt =>
      cases b with
      | none => simp [SMap.rising, hlt, ht]
      | some x => simp [SMap.rising, hlt, ht, hb x rfl]
    next hlt =>
      have ih := SMap.rising_insert a v (some k) t ht (fun e he => hn e (by simp [he])) (by intro x hx; cases hx; omega)
      cases b with
      | none => simp [SMap.rising, ih]
      | some x => simp [SMap.rising] at h; simp [SMap.rising, ih, h.1]

theorem SMap.mem_insert {a : Nat} {v : α} {m : SMap α} {e : Nat × α} (h : e ∈ SMap.insert a v m) : e = (a, v) ∨ e ∈ m := by
  induction m with
  | nil => simpa [SMap.insert] using h
  | cons x t ih =>
    obtain ⟨k, w⟩ := x
    unfold SMap.insert at h
    split at h
    · simpa using h
    · rcases List.mem_cons.1 h with h | h
      · exact .inr (by simp [h])
      · rcases ih h with h | h
        · exact .inl h
        · exact .inr (by simp [h])

/-- A write keeps the canonical form. -/
theorem SMap.wf_put [DecidableEq α] (d : α) (m : SMap α) (a : Nat) (v : α) (h : SMap.wf d m = true) :
    SMap.wf d (SMap.put d m a v) = true := by
  simp only [SMap.wf, Bool.and_eq_true, List.all_eq_true] at h ⊢
  have hf := SMap.rising_filter (fun e => !(e.1 == a)) none m h.1
  unfold SMap.put
  split
  next hv => exact ⟨hf, fun e he => h.2 e (List.mem_filter.1 he).1⟩
  next hv =>
    refine ⟨SMap.rising_insert a v none _ hf ?_ (by simp), fun e he => ?_⟩
    · intro e he; simpa using List.of_mem_filter he
    · rcases SMap.mem_insert he with rfl | he
      · simpa using hv
      · exact h.2 e (List.mem_filter.1 he).1

/-- Removing a range of keys keeps the canonical form. -/
theorem SMap.wf_dropRange [DecidableEq α] (d : α) (m : SMap α) (lo hi : Nat) (h : SMap.wf d m = true) :
    SMap.wf d (SMap.dropRange m lo hi) = true := by
  simp only [SMap.wf, Bool.and_eq_true, List.all_eq_true] at h ⊢
  exact ⟨SMap.rising_filter _ none m h.1, fun e he => h.2 e (List.mem_filter.1 he).1⟩

theorem wf_wrBytes (n : Nat) : ∀ (m : SMap Byte) (a v : Nat), SMap.wf 0 m = true → SMap.wf 0 (wrBytes m a n v) = true := by
  induction n with
  | zero => intro m a v h; exact h
  | succ n ih => intro m a v h; exact ih _ _ _ (SMap.wf_put _ _ _ _ h)

theorem wf_wrList : ∀ (l : List Byte) (m : SMap Byte) (a : Nat), SMap.wf 0 m = true → SMap.wf 0 (wrList m a l) = true
  | [], _, _, h => h
  | _ :: t, _, _, h => wf_wrList t _ _ (SMap.wf_put _ _ _ _ h)

theorem wf_wrMasked : ∀ (l : List Bool) (m : SMap Byte) (a v : Nat), SMap.wf 0 m = true →
    SMap.wf 0 (wrMasked m a l v) = true
  | [], _, _, _, h => h
  | e :: t, m, a, v, h => by
    unfold wrMasked
    cases e
    · exact wf_wrMasked t m _ _ h
    · exact wf_wrMasked t _ _ _ (SMap.wf_put _ _ _ _ h)

/-- Bytes outside the written ones read as before. -/
theorem get_wrBytes_ne (n : Nat) : ∀ (m : SMap Byte) (a v b : Nat), (b < a ∨ a + n ≤ b) →
    SMap.get 0 (wrBytes m a n v) b = SMap.get 0 m b := by
  induction n with
  | zero => intros; rfl
  | succ n ih =>
    intro m a v b h
    unfold wrBytes
    rw [ih _ _ _ _ (by omega), SMap.get_put_ne _ _ _ (by omega)]

theorem get_wrMasked_ne : ∀ (l : List Bool) (m : SMap Byte) (a v b : Nat), (b < a ∨ a + l.length ≤ b) →
    SMap.get 0 (wrMasked m a l v) b = SMap.get 0 m b
  | [], _, _, _, _, _ => rfl
  | e :: t, m, a, v, b, h => by
    unfold wrMasked
    have hl : (e :: t).length = t.length + 1 := rfl
    rw [get_wrMasked_ne t _ _ _ _ (by omega)]
    cases e
    · rfl
    · exact SMap.get_put_ne _ _ _ (by omega)

end Sys2Proof.Machine
end

