-- ==== Sys2Proof/Laws/State.lean ====
section
/-! SUPPORT. What each update of the state leaves: one lemma per field, true by definition, so that no proof unfolds a record update. -/

namespace Sys2Proof.Machine

/-! ### Mod.setCore -/

@[simp] theorem Mod.setCore_mem (m : Mod) (c : Nat) (k : Core) : (m.setCore c k).mem = m.mem := rfl
@[simp] theorem Mod.setCore_bad (m : Mod) (c : Nat) (k : Core) : (m.setCore c k).bad = m.bad := rfl
@[simp] theorem Mod.setCore_ce (m : Mod) (c : Nat) (k : Core) : (m.setCore c k).ce = m.ce := rfl
@[simp] theorem Mod.setCore_pm (m : Mod) (c : Nat) (k : Core) : (m.setCore c k).pm = m.pm := rfl
@[simp] theorem Mod.setCore_regs (m : Mod) (c : Nat) (k : Core) : (m.setCore c k).regs = m.regs := rfl
@[simp] theorem Mod.setCore_frozen (m : Mod) (c : Nat) (k : Core) : (m.setCore c k).frozen = m.frozen := rfl
@[simp] theorem Mod.setCore_wains (m : Mod) (c : Nat) (k : Core) : (m.setCore c k).wains = m.wains := rfl
@[simp] theorem Mod.setCore_net (m : Mod) (c : Nat) (k : Core) : (m.setCore c k).net = m.net := rfl
@[simp] theorem Mod.setCore_nextId (m : Mod) (c : Nat) (k : Core) : (m.setCore c k).nextId = m.nextId := rfl
@[simp] theorem Mod.setCore_walkers (m : Mod) (c : Nat) (k : Core) : (m.setCore c k).walkers = m.walkers := rfl
@[simp] theorem Mod.setCore_fresh (m : Mod) (c : Nat) (k : Core) : (m.setCore c k).fresh = m.fresh := rfl
@[simp] theorem Mod.setCore_incs (m : Mod) (c : Nat) (k : Core) : (m.setCore c k).incs = m.incs := rfl
@[simp] theorem Mod.setCore_chuteReqs (m : Mod) (c : Nat) (k : Core) : (m.setCore c k).chuteReqs = m.chuteReqs := rfl
@[simp] theorem Mod.setCore_rsv (m : Mod) (c : Nat) (k : Core) : (m.setCore c k).rsv = m.rsv := rfl
@[simp] theorem Mod.setCore_arrivals (m : Mod) (c : Nat) (k : Core) : (m.setCore c k).arrivals = m.arrivals := rfl
@[simp] theorem Mod.setCore_flags (m : Mod) (c : Nat) (k : Core) : (m.setCore c k).flags = m.flags := rfl
@[simp] theorem Mod.setCore_held (m : Mod) (c : Nat) (k : Core) : (m.setCore c k).held = m.held := rfl
@[simp] theorem Mod.setCore_dr (m : Mod) (c : Nat) (k : Core) : (m.setCore c k).dr = m.dr := rfl
@[simp] theorem Mod.setCore_poisoned (m : Mod) (c : Nat) (k : Core) : (m.setCore c k).poisoned = m.poisoned := rfl
@[simp] theorem Mod.setCore_granary (m : Mod) (c : Nat) (k : Core) : (m.setCore c k).granary = m.granary := rfl
@[simp] theorem Mod.setCore_bins (m : Mod) (c : Nat) (k : Core) : (m.setCore c k).bins = m.bins := rfl
@[simp] theorem Mod.setCore_badBins (m : Mod) (c : Nat) (k : Core) : (m.setCore c k).badBins = m.badBins := rfl
@[simp] theorem Mod.setCore_accOps (m : Mod) (c : Nat) (k : Core) : (m.setCore c k).accOps = m.accOps := rfl
@[simp] theorem Mod.setCore_accOff (m : Mod) (c : Nat) (k : Core) : (m.setCore c k).accOff = m.accOff := rfl
@[simp] theorem Mod.setCore_accMoved (m : Mod) (c : Nat) (k : Core) : (m.setCore c k).accMoved = m.accMoved := rfl
@[simp] theorem Mod.setCore_deadStacks (m : Mod) (c : Nat) (k : Core) : (m.setCore c k).deadStacks = m.deadStacks := rfl
@[simp] theorem Mod.setCore_inReset (m : Mod) (c : Nat) (k : Core) : (m.setCore c k).inReset = m.inReset := rfl
@[simp] theorem Mod.setCore_ticks (m : Mod) (c : Nat) (k : Core) : (m.setCore c k).ticks = m.ticks := rfl
@[simp] theorem Mod.setCore_unitLpf (m : Mod) (c : Nat) (k : Core) : (m.setCore c k).unitLpf = m.unitLpf := rfl
@[simp] theorem Mod.setCore_intakes (m : Mod) (c : Nat) (k : Core) : (m.setCore c k).intakes = m.intakes := rfl
@[simp] theorem Mod.setCore_secPend (m : Mod) (c : Nat) (k : Core) : (m.setCore c k).secPend = m.secPend := rfl
@[simp] theorem Mod.setCore_timeLatch (m : Mod) (c : Nat) (k : Core) : (m.setCore c k).timeLatch = m.timeLatch := rfl
@[simp] theorem Mod.setCore_frameOut (m : Mod) (c : Nat) (k : Core) : (m.setCore c k).frameOut = m.frameOut := rfl
@[simp] theorem Mod.setCore_lastMask (m : Mod) (c : Nat) (k : Core) : (m.setCore c k).lastMask = m.lastMask := rfl
@[simp] theorem Mod.setCore_bundles (m : Mod) (c : Nat) (k : Core) : (m.setCore c k).bundles = m.bundles := rfl
@[simp] theorem Mod.setCore_beacons (m : Mod) (c : Nat) (k : Core) : (m.setCore c k).beacons = m.beacons := rfl
@[simp] theorem Mod.setCore_bar2Log (m : Mod) (c : Nat) (k : Core) : (m.setCore c k).bar2Log = m.bar2Log := rfl
@[simp] theorem Mod.setCore_d3 (m : Mod) (c : Nat) (k : Core) : (m.setCore c k).d3 = m.d3 := rfl
@[simp] theorem Mod.setCore_standby (m : Mod) (c : Nat) (k : Core) : (m.setCore c k).standby = m.standby := rfl
@[simp] theorem Mod.setCore_cfgSpace (m : Mod) (c : Nat) (k : Core) : (m.setCore c k).cfgSpace = m.cfgSpace := rfl
@[simp] theorem Mod.setCore_msixTab (m : Mod) (c : Nat) (k : Core) : (m.setCore c k).msixTab = m.msixTab := rfl
@[simp] theorem Mod.setCore_pba (m : Mod) (c : Nat) (k : Core) : (m.setCore c k).pba = m.pba := rfl
@[simp] theorem Mod.setCore_aer (m : Mod) (c : Nat) (k : Core) : (m.setCore c k).aer = m.aer := rfl
@[simp] theorem Mod.setCore_aerCor (m : Mod) (c : Nat) (k : Core) : (m.setCore c k).aerCor = m.aerCor := rfl
@[simp] theorem Mod.setCore_aerCount (m : Mod) (c : Nat) (k : Core) : (m.setCore c k).aerCount = m.aerCount := rfl
@[simp] theorem Mod.setCore_aerHeader (m : Mod) (c : Nat) (k : Core) : (m.setCore c k).aerHeader = m.aerHeader := rfl
@[simp] theorem Mod.setCore_out (m : Mod) (c : Nat) (k : Core) : (m.setCore c k).out = m.out := rfl
@[simp] theorem Mod.setCore_hostQ (m : Mod) (c : Nat) (k : Core) : (m.setCore c k).hostQ = m.hostQ := rfl
@[simp] theorem Mod.setCore_doeBusy (m : Mod) (c : Nat) (k : Core) : (m.setCore c k).doeBusy = m.doeBusy := rfl
@[simp] theorem Mod.setCore_doeErr (m : Mod) (c : Nat) (k : Core) : (m.setCore c k).doeErr = m.doeErr := rfl
@[simp] theorem Mod.setCore_rings (m : Mod) (c : Nat) (k : Core) : (m.setCore c k).rings = m.rings := rfl
@[simp] theorem Mod.setCore_tasks (m : Mod) (c : Nat) (k : Core) : (m.setCore c k).tasks = m.tasks := rfl
@[simp] theorem Mod.setCore_stirred (m : Mod) (c : Nat) (k : Core) : (m.setCore c k).stirred = m.stirred := rfl
@[simp] theorem Mod.setCore_furrows (m : Mod) (c : Nat) (k : Core) : (m.setCore c k).furrows = m.furrows := rfl
@[simp] theorem Mod.setCore_digests (m : Mod) (c : Nat) (k : Core) : (m.setCore c k).digests = m.digests := rfl
@[simp] theorem Mod.setCore_keeper (m : Mod) (c : Nat) (k : Core) : (m.setCore c k).keeper = m.keeper := rfl
@[simp] theorem Mod.setCore_opTarget (m : Mod) (c : Nat) (k : Core) : (m.setCore c k).opTarget = m.opTarget := rfl
@[simp] theorem Mod.setCore_droop (m : Mod) (c : Nat) (k : Core) : (m.setCore c k).droop = m.droop := rfl
@[simp] theorem Mod.setCore_cap (m : Mod) (c : Nat) (k : Core) : (m.setCore c k).cap = m.cap := rfl
@[simp] theorem Mod.setCore_therm (m : Mod) (c : Nat) (k : Core) : (m.setCore c k).therm = m.therm := rfl
@[simp] theorem Mod.setCore_sag (m : Mod) (c : Nat) (k : Core) : (m.setCore c k).sag = m.sag := rfl
@[simp] theorem Mod.setCore_overMean (m : Mod) (c : Nat) (k : Core) : (m.setCore c k).overMean = m.overMean := rfl
@[simp] theorem Mod.setCore_grantOk (m : Mod) (c : Nat) (k : Core) : (m.setCore c k).grantOk = m.grantOk := rfl
@[simp] theorem Mod.setCore_warned (m : Mod) (c : Nat) (k : Core) : (m.setCore c k).warned = m.warned := rfl
@[simp] theorem Mod.setCore_debugHalt (m : Mod) (c : Nat) (k : Core) : (m.setCore c k).debugHalt = m.debugHalt := rfl

/-! ### Mod.onCore -/

@[simp] theorem Mod.onCore_mem (m : Mod) (c : Nat) (f : Core → Core) : (m.onCore c f).mem = m.mem := rfl
@[simp] theorem Mod.onCore_bad (m : Mod) (c : Nat) (f : Core → Core) : (m.onCore c f).bad = m.bad := rfl
@[simp] theorem Mod.onCore_ce (m : Mod) (c : Nat) (f : Core → Core) : (m.onCore c f).ce = m.ce := rfl
@[simp] theorem Mod.onCore_pm (m : Mod) (c : Nat) (f : Core → Core) : (m.onCore c f).pm = m.pm := rfl
@[simp] theorem Mod.onCore_regs (m : Mod) (c : Nat) (f : Core → Core) : (m.onCore c f).regs = m.regs := rfl
@[simp] theorem Mod.onCore_frozen (m : Mod) (c : Nat) (f : Core → Core) : (m.onCore c f).frozen = m.frozen := rfl
@[simp] theorem Mod.onCore_wains (m : Mod) (c : Nat) (f : Core → Core) : (m.onCore c f).wains = m.wains := rfl
@[simp] theorem Mod.onCore_net (m : Mod) (c : Nat) (f : Core → Core) : (m.onCore c f).net = m.net := rfl
@[simp] theorem Mod.onCore_nextId (m : Mod) (c : Nat) (f : Core → Core) : (m.onCore c f).nextId = m.nextId := rfl
@[simp] theorem Mod.onCore_walkers (m : Mod) (c : Nat) (f : Core → Core) : (m.onCore c f).walkers = m.walkers := rfl
@[simp] theorem Mod.onCore_fresh (m : Mod) (c : Nat) (f : Core → Core) : (m.onCore c f).fresh = m.fresh := rfl
@[simp] theorem Mod.onCore_incs (m : Mod) (c : Nat) (f : Core → Core) : (m.onCore c f).incs = m.incs := rfl
@[simp] theorem Mod.onCore_chuteReqs (m : Mod) (c : Nat) (f : Core → Core) : (m.onCore c f).chuteReqs = m.chuteReqs := rfl
@[simp] theorem Mod.onCore_rsv (m : Mod) (c : Nat) (f : Core → Core) : (m.onCore c f).rsv = m.rsv := rfl
@[simp] theorem Mod.onCore_arrivals (m : Mod) (c : Nat) (f : Core → Core) : (m.onCore c f).arrivals = m.arrivals := rfl
@[simp] theorem Mod.onCore_flags (m : Mod) (c : Nat) (f : Core → Core) : (m.onCore c f).flags = m.flags := rfl
@[simp] theorem Mod.onCore_held (m : Mod) (c : Nat) (f : Core → Core) : (m.onCore c f).held = m.held := rfl
@[simp] theorem Mod.onCore_dr (m : Mod) (c : Nat) (f : Core → Core) : (m.onCore c f).dr = m.dr := rfl
@[simp] theorem Mod.onCore_poisoned (m : Mod) (c : Nat) (f : Core → Core) : (m.onCore c f).poisoned = m.poisoned := rfl
@[simp] theorem Mod.onCore_granary (m : Mod) (c : Nat) (f : Core → Core) : (m.onCore c f).granary = m.granary := rfl
@[simp] theorem Mod.onCore_bins (m : Mod) (c : Nat) (f : Core → Core) : (m.onCore c f).bins = m.bins := rfl
@[simp] theorem Mod.onCore_badBins (m : Mod) (c : Nat) (f : Core → Core) : (m.onCore c f).badBins = m.badBins := rfl
@[simp] theorem Mod.onCore_accOps (m : Mod) (c : Nat) (f : Core → Core) : (m.onCore c f).accOps = m.accOps := rfl
@[simp] theorem Mod.onCore_accOff (m : Mod) (c : Nat) (f : Core → Core) : (m.onCore c f).accOff = m.accOff := rfl
@[simp] theorem Mod.onCore_accMoved (m : Mod) (c : Nat) (f : Core → Core) : (m.onCore c f).accMoved = m.accMoved := rfl
@[simp] theorem Mod.onCore_deadStacks (m : Mod) (c : Nat) (f : Core → Core) : (m.onCore c f).deadStacks = m.deadStacks := rfl
@[simp] theorem Mod.onCore_inReset (m : Mod) (c : Nat) (f : Core → Core) : (m.onCore c f).inReset = m.inReset := rfl
@[simp] theorem Mod.onCore_ticks (m : Mod) (c : Nat) (f : Core → Core) : (m.onCore c f).ticks = m.ticks := rfl
@[simp] theorem Mod.onCore_unitLpf (m : Mod) (c : Nat) (f : Core → Core) : (m.onCore c f).unitLpf = m.unitLpf := rfl
@[simp] theorem Mod.onCore_intakes (m : Mod) (c : Nat) (f : Core → Core) : (m.onCore c f).intakes = m.intakes := rfl
@[simp] theorem Mod.onCore_secPend (m : Mod) (c : Nat) (f : Core → Core) : (m.onCore c f).secPend = m.secPend := rfl
@[simp] theorem Mod.onCore_timeLatch (m : Mod) (c : Nat) (f : Core → Core) : (m.onCore c f).timeLatch = m.timeLatch := rfl
@[simp] theorem Mod.onCore_frameOut (m : Mod) (c : Nat) (f : Core → Core) : (m.onCore c f).frameOut = m.frameOut := rfl
@[simp] theorem Mod.onCore_lastMask (m : Mod) (c : Nat) (f : Core → Core) : (m.onCore c f).lastMask = m.lastMask := rfl
@[simp] theorem Mod.onCore_bundles (m : Mod) (c : Nat) (f : Core → Core) : (m.onCore c f).bundles = m.bundles := rfl
@[simp] theorem Mod.onCore_beacons (m : Mod) (c : Nat) (f : Core → Core) : (m.onCore c f).beacons = m.beacons := rfl
@[simp] theorem Mod.onCore_bar2Log (m : Mod) (c : Nat) (f : Core → Core) : (m.onCore c f).bar2Log = m.bar2Log := rfl
@[simp] theorem Mod.onCore_d3 (m : Mod) (c : Nat) (f : Core → Core) : (m.onCore c f).d3 = m.d3 := rfl
@[simp] theorem Mod.onCore_standby (m : Mod) (c : Nat) (f : Core → Core) : (m.onCore c f).standby = m.standby := rfl
@[simp] theorem Mod.onCore_cfgSpace (m : Mod) (c : Nat) (f : Core → Core) : (m.onCore c f).cfgSpace = m.cfgSpace := rfl
@[simp] theorem Mod.onCore_msixTab (m : Mod) (c : Nat) (f : Core → Core) : (m.onCore c f).msixTab = m.msixTab := rfl
@[simp] theorem Mod.onCore_pba (m : Mod) (c : Nat) (f : Core → Core) : (m.onCore c f).pba = m.pba := rfl
@[simp] theorem Mod.onCore_aer (m : Mod) (c : Nat) (f : Core → Core) : (m.onCore c f).aer = m.aer := rfl
@[simp] theorem Mod.onCore_aerCor (m : Mod) (c : Nat) (f : Core → Core) : (m.onCore c f).aerCor = m.aerCor := rfl
@[simp] theorem Mod.onCore_aerCount (m : Mod) (c : Nat) (f : Core → Core) : (m.onCore c f).aerCount = m.aerCount := rfl
@[simp] theorem Mod.onCore_aerHeader (m : Mod) (c : Nat) (f : Core → Core) : (m.onCore c f).aerHeader = m.aerHeader := rfl
@[simp] theorem Mod.onCore_out (m : Mod) (c : Nat) (f : Core → Core) : (m.onCore c f).out = m.out := rfl
@[simp] theorem Mod.onCore_hostQ (m : Mod) (c : Nat) (f : Core → Core) : (m.onCore c f).hostQ = m.hostQ := rfl
@[simp] theorem Mod.onCore_doeBusy (m : Mod) (c : Nat) (f : Core → Core) : (m.onCore c f).doeBusy = m.doeBusy := rfl
@[simp] theorem Mod.onCore_doeErr (m : Mod) (c : Nat) (f : Core → Core) : (m.onCore c f).doeErr = m.doeErr := rfl
@[simp] theorem Mod.onCore_rings (m : Mod) (c : Nat) (f : Core → Core) : (m.onCore c f).rings = m.rings := rfl
@[simp] theorem Mod.onCore_tasks (m : Mod) (c : Nat) (f : Core → Core) : (m.onCore c f).tasks = m.tasks := rfl
@[simp] theorem Mod.onCore_stirred (m : Mod) (c : Nat) (f : Core → Core) : (m.onCore c f).stirred = m.stirred := rfl
@[simp] theorem Mod.onCore_furrows (m : Mod) (c : Nat) (f : Core → Core) : (m.onCore c f).furrows = m.furrows := rfl
@[simp] theorem Mod.onCore_digests (m : Mod) (c : Nat) (f : Core → Core) : (m.onCore c f).digests = m.digests := rfl
@[simp] theorem Mod.onCore_keeper (m : Mod) (c : Nat) (f : Core → Core) : (m.onCore c f).keeper = m.keeper := rfl
@[simp] theorem Mod.onCore_opTarget (m : Mod) (c : Nat) (f : Core → Core) : (m.onCore c f).opTarget = m.opTarget := rfl
@[simp] theorem Mod.onCore_droop (m : Mod) (c : Nat) (f : Core → Core) : (m.onCore c f).droop = m.droop := rfl
@[simp] theorem Mod.onCore_cap (m : Mod) (c : Nat) (f : Core → Core) : (m.onCore c f).cap = m.cap := rfl
@[simp] theorem Mod.onCore_therm (m : Mod) (c : Nat) (f : Core → Core) : (m.onCore c f).therm = m.therm := rfl
@[simp] theorem Mod.onCore_sag (m : Mod) (c : Nat) (f : Core → Core) : (m.onCore c f).sag = m.sag := rfl
@[simp] theorem Mod.onCore_overMean (m : Mod) (c : Nat) (f : Core → Core) : (m.onCore c f).overMean = m.overMean := rfl
@[simp] theorem Mod.onCore_grantOk (m : Mod) (c : Nat) (f : Core → Core) : (m.onCore c f).grantOk = m.grantOk := rfl
@[simp] theorem Mod.onCore_warned (m : Mod) (c : Nat) (f : Core → Core) : (m.onCore c f).warned = m.warned := rfl
@[simp] theorem Mod.onCore_debugHalt (m : Mod) (c : Nat) (f : Core → Core) : (m.onCore c f).debugHalt = m.debugHalt := rfl

/-! ### Mod.setReg -/

@[simp] theorem Mod.setReg_mem (m : Mod) (die page off v : Nat) : (m.setReg die page off v).mem = m.mem := rfl
@[simp] theorem Mod.setReg_bad (m : Mod) (die page off v : Nat) : (m.setReg die page off v).bad = m.bad := rfl
@[simp] theorem Mod.setReg_ce (m : Mod) (die page off v : Nat) : (m.setReg die page off v).ce = m.ce := rfl
@[simp] theorem Mod.setReg_pm (m : Mod) (die page off v : Nat) : (m.setReg die page off v).pm = m.pm := rfl
@[simp] theorem Mod.setReg_frozen (m : Mod) (die page off v : Nat) : (m.setReg die page off v).frozen = m.frozen := rfl
@[simp] theorem Mod.setReg_cores (m : Mod) (die page off v : Nat) : (m.setReg die page off v).cores = m.cores := rfl
@[simp] theorem Mod.setReg_wains (m : Mod) (die page off v : Nat) : (m.setReg die page off v).wains = m.wains := rfl
@[simp] theorem Mod.setReg_net (m : Mod) (die page off v : Nat) : (m.setReg die page off v).net = m.net := rfl
@[simp] theorem Mod.setReg_nextId (m : Mod) (die page off v : Nat) : (m.setReg die page off v).nextId = m.nextId := rfl
@[simp] theorem Mod.setReg_walkers (m : Mod) (die page off v : Nat) : (m.setReg die page off v).walkers = m.walkers := rfl
@[simp] theorem Mod.setReg_fresh (m : Mod) (die page off v : Nat) : (m.setReg die page off v).fresh = m.fresh := rfl
@[simp] theorem Mod.setReg_incs (m : Mod) (die page off v : Nat) : (m.setReg die page off v).incs = m.incs := rfl
@[simp] theorem Mod.setReg_chuteReqs (m : Mod) (die page off v : Nat) : (m.setReg die page off v).chuteReqs = m.chuteReqs := rfl
@[simp] theorem Mod.setReg_rsv (m : Mod) (die page off v : Nat) : (m.setReg die page off v).rsv = m.rsv := rfl
@[simp] theorem Mod.setReg_arrivals (m : Mod) (die page off v : Nat) : (m.setReg die page off v).arrivals = m.arrivals := rfl
@[simp] theorem Mod.setReg_flags (m : Mod) (die page off v : Nat) : (m.setReg die page off v).flags = m.flags := rfl
@[simp] theorem Mod.setReg_held (m : Mod) (die page off v : Nat) : (m.setReg die page off v).held = m.held := rfl
@[simp] theorem Mod.setReg_dr (m : Mod) (die page off v : Nat) : (m.setReg die page off v).dr = m.dr := rfl
@[simp] theorem Mod.setReg_poisoned (m : Mod) (die page off v : Nat) : (m.setReg die page off v).poisoned = m.poisoned := rfl
@[simp] theorem Mod.setReg_granary (m : Mod) (die page off v : Nat) : (m.setReg die page off v).granary = m.granary := rfl
@[simp] theorem Mod.setReg_bins (m : Mod) (die page off v : Nat) : (m.setReg die page off v).bins = m.bins := rfl
@[simp] theorem Mod.setReg_badBins (m : Mod) (die page off v : Nat) : (m.setReg die page off v).badBins = m.badBins := rfl
@[simp] theorem Mod.setReg_accOps (m : Mod) (die page off v : Nat) : (m.setReg die page off v).accOps = m.accOps := rfl
@[simp] theorem Mod.setReg_accOff (m : Mod) (die page off v : Nat) : (m.setReg die page off v).accOff = m.accOff := rfl
@[simp] theorem Mod.setReg_accMoved (m : Mod) (die page off v : Nat) : (m.setReg die page off v).accMoved = m.accMoved := rfl
@[simp] theorem Mod.setReg_deadStacks (m : Mod) (die page off v : Nat) : (m.setReg die page off v).deadStacks = m.deadStacks := rfl
@[simp] theorem Mod.setReg_inReset (m : Mod) (die page off v : Nat) : (m.setReg die page off v).inReset = m.inReset := rfl
@[simp] theorem Mod.setReg_ticks (m : Mod) (die page off v : Nat) : (m.setReg die page off v).ticks = m.ticks := rfl
@[simp] theorem Mod.setReg_unitLpf (m : Mod) (die page off v : Nat) : (m.setReg die page off v).unitLpf = m.unitLpf := rfl
@[simp] theorem Mod.setReg_intakes (m : Mod) (die page off v : Nat) : (m.setReg die page off v).intakes = m.intakes := rfl
@[simp] theorem Mod.setReg_secPend (m : Mod) (die page off v : Nat) : (m.setReg die page off v).secPend = m.secPend := rfl
@[simp] theorem Mod.setReg_timeLatch (m : Mod) (die page off v : Nat) : (m.setReg die page off v).timeLatch = m.timeLatch := rfl
@[simp] theorem Mod.setReg_frameOut (m : Mod) (die page off v : Nat) : (m.setReg die page off v).frameOut = m.frameOut := rfl
@[simp] theorem Mod.setReg_lastMask (m : Mod) (die page off v : Nat) : (m.setReg die page off v).lastMask = m.lastMask := rfl
@[simp] theorem Mod.setReg_bundles (m : Mod) (die page off v : Nat) : (m.setReg die page off v).bundles = m.bundles := rfl
@[simp] theorem Mod.setReg_beacons (m : Mod) (die page off v : Nat) : (m.setReg die page off v).beacons = m.beacons := rfl
@[simp] theorem Mod.setReg_bar2Log (m : Mod) (die page off v : Nat) : (m.setReg die page off v).bar2Log = m.bar2Log := rfl
@[simp] theorem Mod.setReg_d3 (m : Mod) (die page off v : Nat) : (m.setReg die page off v).d3 = m.d3 := rfl
@[simp] theorem Mod.setReg_standby (m : Mod) (die page off v : Nat) : (m.setReg die page off v).standby = m.standby := rfl
@[simp] theorem Mod.setReg_cfgSpace (m : Mod) (die page off v : Nat) : (m.setReg die page off v).cfgSpace = m.cfgSpace := rfl
@[simp] theorem Mod.setReg_msixTab (m : Mod) (die page off v : Nat) : (m.setReg die page off v).msixTab = m.msixTab := rfl
@[simp] theorem Mod.setReg_pba (m : Mod) (die page off v : Nat) : (m.setReg die page off v).pba = m.pba := rfl
@[simp] theorem Mod.setReg_aer (m : Mod) (die page off v : Nat) : (m.setReg die page off v).aer = m.aer := rfl
@[simp] theorem Mod.setReg_aerCor (m : Mod) (die page off v : Nat) : (m.setReg die page off v).aerCor = m.aerCor := rfl
@[simp] theorem Mod.setReg_aerCount (m : Mod) (die page off v : Nat) : (m.setReg die page off v).aerCount = m.aerCount := rfl
@[simp] theorem Mod.setReg_aerHeader (m : Mod) (die page off v : Nat) : (m.setReg die page off v).aerHeader = m.aerHeader := rfl
@[simp] theorem Mod.setReg_out (m : Mod) (die page off v : Nat) : (m.setReg die page off v).out = m.out := rfl
@[simp] theorem Mod.setReg_hostQ (m : Mod) (die page off v : Nat) : (m.setReg die page off v).hostQ = m.hostQ := rfl
@[simp] theorem Mod.setReg_doeBusy (m : Mod) (die page off v : Nat) : (m.setReg die page off v).doeBusy = m.doeBusy := rfl
@[simp] theorem Mod.setReg_doeErr (m : Mod) (die page off v : Nat) : (m.setReg die page off v).doeErr = m.doeErr := rfl
@[simp] theorem Mod.setReg_rings (m : Mod) (die page off v : Nat) : (m.setReg die page off v).rings = m.rings := rfl
@[simp] theorem Mod.setReg_tasks (m : Mod) (die page off v : Nat) : (m.setReg die page off v).tasks = m.tasks := rfl
@[simp] theorem Mod.setReg_stirred (m : Mod) (die page off v : Nat) : (m.setReg die page off v).stirred = m.stirred := rfl
@[simp] theorem Mod.setReg_furrows (m : Mod) (die page off v : Nat) : (m.setReg die page off v).furrows = m.furrows := rfl
@[simp] theorem Mod.setReg_digests (m : Mod) (die page off v : Nat) : (m.setReg die page off v).digests = m.digests := rfl
@[simp] theorem Mod.setReg_keeper (m : Mod) (die page off v : Nat) : (m.setReg die page off v).keeper = m.keeper := rfl
@[simp] theorem Mod.setReg_opTarget (m : Mod) (die page off v : Nat) : (m.setReg die page off v).opTarget = m.opTarget := rfl
@[simp] theorem Mod.setReg_droop (m : Mod) (die page off v : Nat) : (m.setReg die page off v).droop = m.droop := rfl
@[simp] theorem Mod.setReg_cap (m : Mod) (die page off v : Nat) : (m.setReg die page off v).cap = m.cap := rfl
@[simp] theorem Mod.setReg_therm (m : Mod) (die page off v : Nat) : (m.setReg die page off v).therm = m.therm := rfl
@[simp] theorem Mod.setReg_sag (m : Mod) (die page off v : Nat) : (m.setReg die page off v).sag = m.sag := rfl
@[simp] theorem Mod.setReg_overMean (m : Mod) (die page off v : Nat) : (m.setReg die page off v).overMean = m.overMean := rfl
@[simp] theorem Mod.setReg_grantOk (m : Mod) (die page off v : Nat) : (m.setReg die page off v).grantOk = m.grantOk := rfl
@[simp] theorem Mod.setReg_warned (m : Mod) (die page off v : Nat) : (m.setReg die page off v).warned = m.warned := rfl
@[simp] theorem Mod.setReg_debugHalt (m : Mod) (die page off v : Nat) : (m.setReg die page off v).debugHalt = m.debugHalt := rfl

/-! ### Mod.setFld -/

@[simp] theorem Mod.setFld_mem (m : Mod) (die page off lo w v : Nat) : (m.setFld die page off lo w v).mem = m.mem := rfl
@[simp] theorem Mod.setFld_bad (m : Mod) (die page off lo w v : Nat) : (m.setFld die page off lo w v).bad = m.bad := rfl
@[simp] theorem Mod.setFld_ce (m : Mod) (die page off lo w v : Nat) : (m.setFld die page off lo w v).ce = m.ce := rfl
@[simp] theorem Mod.setFld_pm (m : Mod) (die page off lo w v : Nat) : (m.setFld die page off lo w v).pm = m.pm := rfl
@[simp] theorem Mod.setFld_frozen (m : Mod) (die page off lo w v : Nat) : (m.setFld die page off lo w v).frozen = m.frozen := rfl
@[simp] theorem Mod.setFld_cores (m : Mod) (die page off lo w v : Nat) : (m.setFld die page off lo w v).cores = m.cores := rfl
@[simp] theorem Mod.setFld_wains (m : Mod) (die page off lo w v : Nat) : (m.setFld die page off lo w v).wains = m.wains := rfl
@[simp] theorem Mod.setFld_net (m : Mod) (die page off lo w v : Nat) : (m.setFld die page off lo w v).net = m.net := rfl
@[simp] theorem Mod.setFld_nextId (m : Mod) (die page off lo w v : Nat) : (m.setFld die page off lo w v).nextId = m.nextId := rfl
@[simp] theorem Mod.setFld_walkers (m : Mod) (die page off lo w v : Nat) : (m.setFld die page off lo w v).walkers = m.walkers := rfl
@[simp] theorem Mod.setFld_fresh (m : Mod) (die page off lo w v : Nat) : (m.setFld die page off lo w v).fresh = m.fresh := rfl
@[simp] theorem Mod.setFld_incs (m : Mod) (die page off lo w v : Nat) : (m.setFld die page off lo w v).incs = m.incs := rfl
@[simp] theorem Mod.setFld_chuteReqs (m : Mod) (die page off lo w v : Nat) : (m.setFld die page off lo w v).chuteReqs = m.chuteReqs := rfl
@[simp] theorem Mod.setFld_rsv (m : Mod) (die page off lo w v : Nat) : (m.setFld die page off lo w v).rsv = m.rsv := rfl
@[simp] theorem Mod.setFld_arrivals (m : Mod) (die page off lo w v : Nat) : (m.setFld die page off lo w v).arrivals = m.arrivals := rfl
@[simp] theorem Mod.setFld_flags (m : Mod) (die page off lo w v : Nat) : (m.setFld die page off lo w v).flags = m.flags := rfl
@[simp] theorem Mod.setFld_held (m : Mod) (die page off lo w v : Nat) : (m.setFld die page off lo w v).held = m.held := rfl
@[simp] theorem Mod.setFld_dr (m : Mod) (die page off lo w v : Nat) : (m.setFld die page off lo w v).dr = m.dr := rfl
@[simp] theorem Mod.setFld_poisoned (m : Mod) (die page off lo w v : Nat) : (m.setFld die page off lo w v).poisoned = m.poisoned := rfl
@[simp] theorem Mod.setFld_granary (m : Mod) (die page off lo w v : Nat) : (m.setFld die page off lo w v).granary = m.granary := rfl
@[simp] theorem Mod.setFld_bins (m : Mod) (die page off lo w v : Nat) : (m.setFld die page off lo w v).bins = m.bins := rfl
@[simp] theorem Mod.setFld_badBins (m : Mod) (die page off lo w v : Nat) : (m.setFld die page off lo w v).badBins = m.badBins := rfl
@[simp] theorem Mod.setFld_accOps (m : Mod) (die page off lo w v : Nat) : (m.setFld die page off lo w v).accOps = m.accOps := rfl
@[simp] theorem Mod.setFld_accOff (m : Mod) (die page off lo w v : Nat) : (m.setFld die page off lo w v).accOff = m.accOff := rfl
@[simp] theorem Mod.setFld_accMoved (m : Mod) (die page off lo w v : Nat) : (m.setFld die page off lo w v).accMoved = m.accMoved := rfl
@[simp] theorem Mod.setFld_deadStacks (m : Mod) (die page off lo w v : Nat) : (m.setFld die page off lo w v).deadStacks = m.deadStacks := rfl
@[simp] theorem Mod.setFld_inReset (m : Mod) (die page off lo w v : Nat) : (m.setFld die page off lo w v).inReset = m.inReset := rfl
@[simp] theorem Mod.setFld_ticks (m : Mod) (die page off lo w v : Nat) : (m.setFld die page off lo w v).ticks = m.ticks := rfl
@[simp] theorem Mod.setFld_unitLpf (m : Mod) (die page off lo w v : Nat) : (m.setFld die page off lo w v).unitLpf = m.unitLpf := rfl
@[simp] theorem Mod.setFld_intakes (m : Mod) (die page off lo w v : Nat) : (m.setFld die page off lo w v).intakes = m.intakes := rfl
@[simp] theorem Mod.setFld_secPend (m : Mod) (die page off lo w v : Nat) : (m.setFld die page off lo w v).secPend = m.secPend := rfl
@[simp] theorem Mod.setFld_timeLatch (m : Mod) (die page off lo w v : Nat) : (m.setFld die page off lo w v).timeLatch = m.timeLatch := rfl
@[simp] theorem Mod.setFld_frameOut (m : Mod) (die page off lo w v : Nat) : (m.setFld die page off lo w v).frameOut = m.frameOut := rfl
@[simp] theorem Mod.setFld_lastMask (m : Mod) (die page off lo w v : Nat) : (m.setFld die page off lo w v).lastMask = m.lastMask := rfl
@[simp] theorem Mod.setFld_bundles (m : Mod) (die page off lo w v : Nat) : (m.setFld die page off lo w v).bundles = m.bundles := rfl
@[simp] theorem Mod.setFld_beacons (m : Mod) (die page off lo w v : Nat) : (m.setFld die page off lo w v).beacons = m.beacons := rfl
@[simp] theorem Mod.setFld_bar2Log (m : Mod) (die page off lo w v : Nat) : (m.setFld die page off lo w v).bar2Log = m.bar2Log := rfl
@[simp] theorem Mod.setFld_d3 (m : Mod) (die page off lo w v : Nat) : (m.setFld die page off lo w v).d3 = m.d3 := rfl
@[simp] theorem Mod.setFld_standby (m : Mod) (die page off lo w v : Nat) : (m.setFld die page off lo w v).standby = m.standby := rfl
@[simp] theorem Mod.setFld_cfgSpace (m : Mod) (die page off lo w v : Nat) : (m.setFld die page off lo w v).cfgSpace = m.cfgSpace := rfl
@[simp] theorem Mod.setFld_msixTab (m : Mod) (die page off lo w v : Nat) : (m.setFld die page off lo w v).msixTab = m.msixTab := rfl
@[simp] theorem Mod.setFld_pba (m : Mod) (die page off lo w v : Nat) : (m.setFld die page off lo w v).pba = m.pba := rfl
@[simp] theorem Mod.setFld_aer (m : Mod) (die page off lo w v : Nat) : (m.setFld die page off lo w v).aer = m.aer := rfl
@[simp] theorem Mod.setFld_aerCor (m : Mod) (die page off lo w v : Nat) : (m.setFld die page off lo w v).aerCor = m.aerCor := rfl
@[simp] theorem Mod.setFld_aerCount (m : Mod) (die page off lo w v : Nat) : (m.setFld die page off lo w v).aerCount = m.aerCount := rfl
@[simp] theorem Mod.setFld_aerHeader (m : Mod) (die page off lo w v : Nat) : (m.setFld die page off lo w v).aerHeader = m.aerHeader := rfl
@[simp] theorem Mod.setFld_out (m : Mod) (die page off lo w v : Nat) : (m.setFld die page off lo w v).out = m.out := rfl
@[simp] theorem Mod.setFld_hostQ (m : Mod) (die page off lo w v : Nat) : (m.setFld die page off lo w v).hostQ = m.hostQ := rfl
@[simp] theorem Mod.setFld_doeBusy (m : Mod) (die page off lo w v : Nat) : (m.setFld die page off lo w v).doeBusy = m.doeBusy := rfl
@[simp] theorem Mod.setFld_doeErr (m : Mod) (die page off lo w v : Nat) : (m.setFld die page off lo w v).doeErr = m.doeErr := rfl
@[simp] theorem Mod.setFld_rings (m : Mod) (die page off lo w v : Nat) : (m.setFld die page off lo w v).rings = m.rings := rfl
@[simp] theorem Mod.setFld_tasks (m : Mod) (die page off lo w v : Nat) : (m.setFld die page off lo w v).tasks = m.tasks := rfl
@[simp] theorem Mod.setFld_stirred (m : Mod) (die page off lo w v : Nat) : (m.setFld die page off lo w v).stirred = m.stirred := rfl
@[simp] theorem Mod.setFld_furrows (m : Mod) (die page off lo w v : Nat) : (m.setFld die page off lo w v).furrows = m.furrows := rfl
@[simp] theorem Mod.setFld_digests (m : Mod) (die page off lo w v : Nat) : (m.setFld die page off lo w v).digests = m.digests := rfl
@[simp] theorem Mod.setFld_keeper (m : Mod) (die page off lo w v : Nat) : (m.setFld die page off lo w v).keeper = m.keeper := rfl
@[simp] theorem Mod.setFld_opTarget (m : Mod) (die page off lo w v : Nat) : (m.setFld die page off lo w v).opTarget = m.opTarget := rfl
@[simp] theorem Mod.setFld_droop (m : Mod) (die page off lo w v : Nat) : (m.setFld die page off lo w v).droop = m.droop := rfl
@[simp] theorem Mod.setFld_cap (m : Mod) (die page off lo w v : Nat) : (m.setFld die page off lo w v).cap = m.cap := rfl
@[simp] theorem Mod.setFld_therm (m : Mod) (die page off lo w v : Nat) : (m.setFld die page off lo w v).therm = m.therm := rfl
@[simp] theorem Mod.setFld_sag (m : Mod) (die page off lo w v : Nat) : (m.setFld die page off lo w v).sag = m.sag := rfl
@[simp] theorem Mod.setFld_overMean (m : Mod) (die page off lo w v : Nat) : (m.setFld die page off lo w v).overMean = m.overMean := rfl
@[simp] theorem Mod.setFld_grantOk (m : Mod) (die page off lo w v : Nat) : (m.setFld die page off lo w v).grantOk = m.grantOk := rfl
@[simp] theorem Mod.setFld_warned (m : Mod) (die page off lo w v : Nat) : (m.setFld die page off lo w v).warned = m.warned := rfl
@[simp] theorem Mod.setFld_debugHalt (m : Mod) (die page off lo w v : Nat) : (m.setFld die page off lo w v).debugHalt = m.debugHalt := rfl

/-! ### Mod.orReg -/

@[simp] theorem Mod.orReg_mem (m : Mod) (die page off v : Nat) : (m.orReg die page off v).mem = m.mem := rfl
@[simp] theorem Mod.orReg_bad (m : Mod) (die page off v : Nat) : (m.orReg die page off v).bad = m.bad := rfl
@[simp] theorem Mod.orReg_ce (m : Mod) (die page off v : Nat) : (m.orReg die page off v).ce = m.ce := rfl
@[simp] theorem Mod.orReg_pm (m : Mod) (die page off v : Nat) : (m.orReg die page off v).pm = m.pm := rfl
@[simp] theorem Mod.orReg_frozen (m : Mod) (die page off v : Nat) : (m.orReg die page off v).frozen = m.frozen := rfl
@[simp] theorem Mod.orReg_cores (m : Mod) (die page off v : Nat) : (m.orReg die page off v).cores = m.cores := rfl
@[simp] theorem Mod.orReg_wains (m : Mod) (die page off v : Nat) : (m.orReg die page off v).wains = m.wains := rfl
@[simp] theorem Mod.orReg_net (m : Mod) (die page off v : Nat) : (m.orReg die page off v).net = m.net := rfl
@[simp] theorem Mod.orReg_nextId (m : Mod) (die page off v : Nat) : (m.orReg die page off v).nextId = m.nextId := rfl
@[simp] theorem Mod.orReg_walkers (m : Mod) (die page off v : Nat) : (m.orReg die page off v).walkers = m.walkers := rfl
@[simp] theorem Mod.orReg_fresh (m : Mod) (die page off v : Nat) : (m.orReg die page off v).fresh = m.fresh := rfl
@[simp] theorem Mod.orReg_incs (m : Mod) (die page off v : Nat) : (m.orReg die page off v).incs = m.incs := rfl
@[simp] theorem Mod.orReg_chuteReqs (m : Mod) (die page off v : Nat) : (m.orReg die page off v).chuteReqs = m.chuteReqs := rfl
@[simp] theorem Mod.orReg_rsv (m : Mod) (die page off v : Nat) : (m.orReg die page off v).rsv = m.rsv := rfl
@[simp] theorem Mod.orReg_arrivals (m : Mod) (die page off v : Nat) : (m.orReg die page off v).arrivals = m.arrivals := rfl
@[simp] theorem Mod.orReg_flags (m : Mod) (die page off v : Nat) : (m.orReg die page off v).flags = m.flags := rfl
@[simp] theorem Mod.orReg_held (m : Mod) (die page off v : Nat) : (m.orReg die page off v).held = m.held := rfl
@[simp] theorem Mod.orReg_dr (m : Mod) (die page off v : Nat) : (m.orReg die page off v).dr = m.dr := rfl
@[simp] theorem Mod.orReg_poisoned (m : Mod) (die page off v : Nat) : (m.orReg die page off v).poisoned = m.poisoned := rfl
@[simp] theorem Mod.orReg_granary (m : Mod) (die page off v : Nat) : (m.orReg die page off v).granary = m.granary := rfl
@[simp] theorem Mod.orReg_bins (m : Mod) (die page off v : Nat) : (m.orReg die page off v).bins = m.bins := rfl
@[simp] theorem Mod.orReg_badBins (m : Mod) (die page off v : Nat) : (m.orReg die page off v).badBins = m.badBins := rfl
@[simp] theorem Mod.orReg_accOps (m : Mod) (die page off v : Nat) : (m.orReg die page off v).accOps = m.accOps := rfl
@[simp] theorem Mod.orReg_accOff (m : Mod) (die page off v : Nat) : (m.orReg die page off v).accOff = m.accOff := rfl
@[simp] theorem Mod.orReg_accMoved (m : Mod) (die page off v : Nat) : (m.orReg die page off v).accMoved = m.accMoved := rfl
@[simp] theorem Mod.orReg_deadStacks (m : Mod) (die page off v : Nat) : (m.orReg die page off v).deadStacks = m.deadStacks := rfl
@[simp] theorem Mod.orReg_inReset (m : Mod) (die page off v : Nat) : (m.orReg die page off v).inReset = m.inReset := rfl
@[simp] theorem Mod.orReg_ticks (m : Mod) (die page off v : Nat) : (m.orReg die page off v).ticks = m.ticks := rfl
@[simp] theorem Mod.orReg_unitLpf (m : Mod) (die page off v : Nat) : (m.orReg die page off v).unitLpf = m.unitLpf := rfl
@[simp] theorem Mod.orReg_intakes (m : Mod) (die page off v : Nat) : (m.orReg die page off v).intakes = m.intakes := rfl
@[simp] theorem Mod.orReg_secPend (m : Mod) (die page off v : Nat) : (m.orReg die page off v).secPend = m.secPend := rfl
@[simp] theorem Mod.orReg_timeLatch (m : Mod) (die page off v : Nat) : (m.orReg die page off v).timeLatch = m.timeLatch := rfl
@[simp] theorem Mod.orReg_frameOut (m : Mod) (die page off v : Nat) : (m.orReg die page off v).frameOut = m.frameOut := rfl
@[simp] theorem Mod.orReg_lastMask (m : Mod) (die page off v : Nat) : (m.orReg die page off v).lastMask = m.lastMask := rfl
@[simp] theorem Mod.orReg_bundles (m : Mod) (die page off v : Nat) : (m.orReg die page off v).bundles = m.bundles := rfl
@[simp] theorem Mod.orReg_beacons (m : Mod) (die page off v : Nat) : (m.orReg die page off v).beacons = m.beacons := rfl
@[simp] theorem Mod.orReg_bar2Log (m : Mod) (die page off v : Nat) : (m.orReg die page off v).bar2Log = m.bar2Log := rfl
@[simp] theorem Mod.orReg_d3 (m : Mod) (die page off v : Nat) : (m.orReg die page off v).d3 = m.d3 := rfl
@[simp] theorem Mod.orReg_standby (m : Mod) (die page off v : Nat) : (m.orReg die page off v).standby = m.standby := rfl
@[simp] theorem Mod.orReg_cfgSpace (m : Mod) (die page off v : Nat) : (m.orReg die page off v).cfgSpace = m.cfgSpace := rfl
@[simp] theorem Mod.orReg_msixTab (m : Mod) (die page off v : Nat) : (m.orReg die page off v).msixTab = m.msixTab := rfl
@[simp] theorem Mod.orReg_pba (m : Mod) (die page off v : Nat) : (m.orReg die page off v).pba = m.pba := rfl
@[simp] theorem Mod.orReg_aer (m : Mod) (die page off v : Nat) : (m.orReg die page off v).aer = m.aer := rfl
@[simp] theorem Mod.orReg_aerCor (m : Mod) (die page off v : Nat) : (m.orReg die page off v).aerCor = m.aerCor := rfl
@[simp] theorem Mod.orReg_aerCount (m : Mod) (die page off v : Nat) : (m.orReg die page off v).aerCount = m.aerCount := rfl
@[simp] theorem Mod.orReg_aerHeader (m : Mod) (die page off v : Nat) : (m.orReg die page off v).aerHeader = m.aerHeader := rfl
@[simp] theorem Mod.orReg_out (m : Mod) (die page off v : Nat) : (m.orReg die page off v).out = m.out := rfl
@[simp] theorem Mod.orReg_hostQ (m : Mod) (die page off v : Nat) : (m.orReg die page off v).hostQ = m.hostQ := rfl
@[simp] theorem Mod.orReg_doeBusy (m : Mod) (die page off v : Nat) : (m.orReg die page off v).doeBusy = m.doeBusy := rfl
@[simp] theorem Mod.orReg_doeErr (m : Mod) (die page off v : Nat) : (m.orReg die page off v).doeErr = m.doeErr := rfl
@[simp] theorem Mod.orReg_rings (m : Mod) (die page off v : Nat) : (m.orReg die page off v).rings = m.rings := rfl
@[simp] theorem Mod.orReg_tasks (m : Mod) (die page off v : Nat) : (m.orReg die page off v).tasks = m.tasks := rfl
@[simp] theorem Mod.orReg_stirred (m : Mod) (die page off v : Nat) : (m.orReg die page off v).stirred = m.stirred := rfl
@[simp] theorem Mod.orReg_furrows (m : Mod) (die page off v : Nat) : (m.orReg die page off v).furrows = m.furrows := rfl
@[simp] theorem Mod.orReg_digests (m : Mod) (die page off v : Nat) : (m.orReg die page off v).digests = m.digests := rfl
@[simp] theorem Mod.orReg_keeper (m : Mod) (die page off v : Nat) : (m.orReg die page off v).keeper = m.keeper := rfl
@[simp] theorem Mod.orReg_opTarget (m : Mod) (die page off v : Nat) : (m.orReg die page off v).opTarget = m.opTarget := rfl
@[simp] theorem Mod.orReg_droop (m : Mod) (die page off v : Nat) : (m.orReg die page off v).droop = m.droop := rfl
@[simp] theorem Mod.orReg_cap (m : Mod) (die page off v : Nat) : (m.orReg die page off v).cap = m.cap := rfl
@[simp] theorem Mod.orReg_therm (m : Mod) (die page off v : Nat) : (m.orReg die page off v).therm = m.therm := rfl
@[simp] theorem Mod.orReg_sag (m : Mod) (die page off v : Nat) : (m.orReg die page off v).sag = m.sag := rfl
@[simp] theorem Mod.orReg_overMean (m : Mod) (die page off v : Nat) : (m.orReg die page off v).overMean = m.overMean := rfl
@[simp] theorem Mod.orReg_grantOk (m : Mod) (die page off v : Nat) : (m.orReg die page off v).grantOk = m.grantOk := rfl
@[simp] theorem Mod.orReg_warned (m : Mod) (die page off v : Nat) : (m.orReg die page off v).warned = m.warned := rfl
@[simp] theorem Mod.orReg_debugHalt (m : Mod) (die page off v : Nat) : (m.orReg die page off v).debugHalt = m.debugHalt := rfl

/-! ### Mod.addReg -/

@[simp] theorem Mod.addReg_mem (m : Mod) (die page off n : Nat) : (m.addReg die page off n).mem = m.mem := rfl
@[simp] theorem Mod.addReg_bad (m : Mod) (die page off n : Nat) : (m.addReg die page off n).bad = m.bad := rfl
@[simp] theorem Mod.addReg_ce (m : Mod) (die page off n : Nat) : (m.addReg die page off n).ce = m.ce := rfl
@[simp] theorem Mod.addReg_pm (m : Mod) (die page off n : Nat) : (m.addReg die page off n).pm = m.pm := rfl
@[simp] theorem Mod.addReg_frozen (m : Mod) (die page off n : Nat) : (m.addReg die page off n).frozen = m.frozen := rfl
@[simp] theorem Mod.addReg_cores (m : Mod) (die page off n : Nat) : (m.addReg die page off n).cores = m.cores := rfl
@[simp] theorem Mod.addReg_wains (m : Mod) (die page off n : Nat) : (m.addReg die page off n).wains = m.wains := rfl
@[simp] theorem Mod.addReg_net (m : Mod) (die page off n : Nat) : (m.addReg die page off n).net = m.net := rfl
@[simp] theorem Mod.addReg_nextId (m : Mod) (die page off n : Nat) : (m.addReg die page off n).nextId = m.nextId := rfl
@[simp] theorem Mod.addReg_walkers (m : Mod) (die page off n : Nat) : (m.addReg die page off n).walkers = m.walkers := rfl
@[simp] theorem Mod.addReg_fresh (m : Mod) (die page off n : Nat) : (m.addReg die page off n).fresh = m.fresh := rfl
@[simp] theorem Mod.addReg_incs (m : Mod) (die page off n : Nat) : (m.addReg die page off n).incs = m.incs := rfl
@[simp] theorem Mod.addReg_chuteReqs (m : Mod) (die page off n : Nat) : (m.addReg die page off n).chuteReqs = m.chuteReqs := rfl
@[simp] theorem Mod.addReg_rsv (m : Mod) (die page off n : Nat) : (m.addReg die page off n).rsv = m.rsv := rfl
@[simp] theorem Mod.addReg_arrivals (m : Mod) (die page off n : Nat) : (m.addReg die page off n).arrivals = m.arrivals := rfl
@[simp] theorem Mod.addReg_flags (m : Mod) (die page off n : Nat) : (m.addReg die page off n).flags = m.flags := rfl
@[simp] theorem Mod.addReg_held (m : Mod) (die page off n : Nat) : (m.addReg die page off n).held = m.held := rfl
@[simp] theorem Mod.addReg_dr (m : Mod) (die page off n : Nat) : (m.addReg die page off n).dr = m.dr := rfl
@[simp] theorem Mod.addReg_poisoned (m : Mod) (die page off n : Nat) : (m.addReg die page off n).poisoned = m.poisoned := rfl
@[simp] theorem Mod.addReg_granary (m : Mod) (die page off n : Nat) : (m.addReg die page off n).granary = m.granary := rfl
@[simp] theorem Mod.addReg_bins (m : Mod) (die page off n : Nat) : (m.addReg die page off n).bins = m.bins := rfl
@[simp] theorem Mod.addReg_badBins (m : Mod) (die page off n : Nat) : (m.addReg die page off n).badBins = m.badBins := rfl
@[simp] theorem Mod.addReg_accOps (m : Mod) (die page off n : Nat) : (m.addReg die page off n).accOps = m.accOps := rfl
@[simp] theorem Mod.addReg_accOff (m : Mod) (die page off n : Nat) : (m.addReg die page off n).accOff = m.accOff := rfl
@[simp] theorem Mod.addReg_accMoved (m : Mod) (die page off n : Nat) : (m.addReg die page off n).accMoved = m.accMoved := rfl
@[simp] theorem Mod.addReg_deadStacks (m : Mod) (die page off n : Nat) : (m.addReg die page off n).deadStacks = m.deadStacks := rfl
@[simp] theorem Mod.addReg_inReset (m : Mod) (die page off n : Nat) : (m.addReg die page off n).inReset = m.inReset := rfl
@[simp] theorem Mod.addReg_ticks (m : Mod) (die page off n : Nat) : (m.addReg die page off n).ticks = m.ticks := rfl
@[simp] theorem Mod.addReg_unitLpf (m : Mod) (die page off n : Nat) : (m.addReg die page off n).unitLpf = m.unitLpf := rfl
@[simp] theorem Mod.addReg_intakes (m : Mod) (die page off n : Nat) : (m.addReg die page off n).intakes = m.intakes := rfl
@[simp] theorem Mod.addReg_secPend (m : Mod) (die page off n : Nat) : (m.addReg die page off n).secPend = m.secPend := rfl
@[simp] theorem Mod.addReg_timeLatch (m : Mod) (die page off n : Nat) : (m.addReg die page off n).timeLatch = m.timeLatch := rfl
@[simp] theorem Mod.addReg_frameOut (m : Mod) (die page off n : Nat) : (m.addReg die page off n).frameOut = m.frameOut := rfl
@[simp] theorem Mod.addReg_lastMask (m : Mod) (die page off n : Nat) : (m.addReg die page off n).lastMask = m.lastMask := rfl
@[simp] theorem Mod.addReg_bundles (m : Mod) (die page off n : Nat) : (m.addReg die page off n).bundles = m.bundles := rfl
@[simp] theorem Mod.addReg_beacons (m : Mod) (die page off n : Nat) : (m.addReg die page off n).beacons = m.beacons := rfl
@[simp] theorem Mod.addReg_bar2Log (m : Mod) (die page off n : Nat) : (m.addReg die page off n).bar2Log = m.bar2Log := rfl
@[simp] theorem Mod.addReg_d3 (m : Mod) (die page off n : Nat) : (m.addReg die page off n).d3 = m.d3 := rfl
@[simp] theorem Mod.addReg_standby (m : Mod) (die page off n : Nat) : (m.addReg die page off n).standby = m.standby := rfl
@[simp] theorem Mod.addReg_cfgSpace (m : Mod) (die page off n : Nat) : (m.addReg die page off n).cfgSpace = m.cfgSpace := rfl
@[simp] theorem Mod.addReg_msixTab (m : Mod) (die page off n : Nat) : (m.addReg die page off n).msixTab = m.msixTab := rfl
@[simp] theorem Mod.addReg_pba (m : Mod) (die page off n : Nat) : (m.addReg die page off n).pba = m.pba := rfl
@[simp] theorem Mod.addReg_aer (m : Mod) (die page off n : Nat) : (m.addReg die page off n).aer = m.aer := rfl
@[simp] theorem Mod.addReg_aerCor (m : Mod) (die page off n : Nat) : (m.addReg die page off n).aerCor = m.aerCor := rfl
@[simp] theorem Mod.addReg_aerCount (m : Mod) (die page off n : Nat) : (m.addReg die page off n).aerCount = m.aerCount := rfl
@[simp] theorem Mod.addReg_aerHeader (m : Mod) (die page off n : Nat) : (m.addReg die page off n).aerHeader = m.aerHeader := rfl
@[simp] theorem Mod.addReg_out (m : Mod) (die page off n : Nat) : (m.addReg die page off n).out = m.out := rfl
@[simp] theorem Mod.addReg_hostQ (m : Mod) (die page off n : Nat) : (m.addReg die page off n).hostQ = m.hostQ := rfl
@[simp] theorem Mod.addReg_doeBusy (m : Mod) (die page off n : Nat) : (m.addReg die page off n).doeBusy = m.doeBusy := rfl
@[simp] theorem Mod.addReg_doeErr (m : Mod) (die page off n : Nat) : (m.addReg die page off n).doeErr = m.doeErr := rfl
@[simp] theorem Mod.addReg_rings (m : Mod) (die page off n : Nat) : (m.addReg die page off n).rings = m.rings := rfl
@[simp] theorem Mod.addReg_tasks (m : Mod) (die page off n : Nat) : (m.addReg die page off n).tasks = m.tasks := rfl
@[simp] theorem Mod.addReg_stirred (m : Mod) (die page off n : Nat) : (m.addReg die page off n).stirred = m.stirred := rfl
@[simp] theorem Mod.addReg_furrows (m : Mod) (die page off n : Nat) : (m.addReg die page off n).furrows = m.furrows := rfl
@[simp] theorem Mod.addReg_digests (m : Mod) (die page off n : Nat) : (m.addReg die page off n).digests = m.digests := rfl
@[simp] theorem Mod.addReg_keeper (m : Mod) (die page off n : Nat) : (m.addReg die page off n).keeper = m.keeper := rfl
@[simp] theorem Mod.addReg_opTarget (m : Mod) (die page off n : Nat) : (m.addReg die page off n).opTarget = m.opTarget := rfl
@[simp] theorem Mod.addReg_droop (m : Mod) (die page off n : Nat) : (m.addReg die page off n).droop = m.droop := rfl
@[simp] theorem Mod.addReg_cap (m : Mod) (die page off n : Nat) : (m.addReg die page off n).cap = m.cap := rfl
@[simp] theorem Mod.addReg_therm (m : Mod) (die page off n : Nat) : (m.addReg die page off n).therm = m.therm := rfl
@[simp] theorem Mod.addReg_sag (m : Mod) (die page off n : Nat) : (m.addReg die page off n).sag = m.sag := rfl
@[simp] theorem Mod.addReg_overMean (m : Mod) (die page off n : Nat) : (m.addReg die page off n).overMean = m.overMean := rfl
@[simp] theorem Mod.addReg_grantOk (m : Mod) (die page off n : Nat) : (m.addReg die page off n).grantOk = m.grantOk := rfl
@[simp] theorem Mod.addReg_warned (m : Mod) (die page off n : Nat) : (m.addReg die page off n).warned = m.warned := rfl
@[simp] theorem Mod.addReg_debugHalt (m : Mod) (die page off n : Nat) : (m.addReg die page off n).debugHalt = m.debugHalt := rfl

/-! ### Mod.wr -/

@[simp] theorem Mod.wr_pm (m : Mod) (k n v : Nat) : (m.wr k n v).pm = m.pm := rfl
@[simp] theorem Mod.wr_regs (m : Mod) (k n v : Nat) : (m.wr k n v).regs = m.regs := rfl
@[simp] theorem Mod.wr_frozen (m : Mod) (k n v : Nat) : (m.wr k n v).frozen = m.frozen := rfl
@[simp] theorem Mod.wr_cores (m : Mod) (k n v : Nat) : (m.wr k n v).cores = m.cores := rfl
@[simp] theorem Mod.wr_wains (m : Mod) (k n v : Nat) : (m.wr k n v).wains = m.wains := rfl
@[simp] theorem Mod.wr_net (m : Mod) (k n v : Nat) : (m.wr k n v).net = m.net := rfl
@[simp] theorem Mod.wr_nextId (m : Mod) (k n v : Nat) : (m.wr k n v).nextId = m.nextId := rfl
@[simp] theorem Mod.wr_walkers (m : Mod) (k n v : Nat) : (m.wr k n v).walkers = m.walkers := rfl
@[simp] theorem Mod.wr_fresh (m : Mod) (k n v : Nat) : (m.wr k n v).fresh = m.fresh := rfl
@[simp] theorem Mod.wr_incs (m : Mod) (k n v : Nat) : (m.wr k n v).incs = m.incs := rfl
@[simp] theorem Mod.wr_chuteReqs (m : Mod) (k n v : Nat) : (m.wr k n v).chuteReqs = m.chuteReqs := rfl
@[simp] theorem Mod.wr_rsv (m : Mod) (k n v : Nat) : (m.wr k n v).rsv = m.rsv := rfl
@[simp] theorem Mod.wr_arrivals (m : Mod) (k n v : Nat) : (m.wr k n v).arrivals = m.arrivals := rfl
@[simp] theorem Mod.wr_flags (m : Mod) (k n v : Nat) : (m.wr k n v).flags = m.flags := rfl
@[simp] theorem Mod.wr_held (m : Mod) (k n v : Nat) : (m.wr k n v).held = m.held := rfl
@[simp] theorem Mod.wr_dr (m : Mod) (k n v : Nat) : (m.wr k n v).dr = m.dr := rfl
@[simp] theorem Mod.wr_poisoned (m : Mod) (k n v : Nat) : (m.wr k n v).poisoned = m.poisoned := rfl
@[simp] theorem Mod.wr_granary (m : Mod) (k n v : Nat) : (m.wr k n v).granary = m.granary := rfl
@[simp] theorem Mod.wr_bins (m : Mod) (k n v : Nat) : (m.wr k n v).bins = m.bins := rfl
@[simp] theorem Mod.wr_badBins (m : Mod) (k n v : Nat) : (m.wr k n v).badBins = m.badBins := rfl
@[simp] theorem Mod.wr_accOps (m : Mod) (k n v : Nat) : (m.wr k n v).accOps = m.accOps := rfl
@[simp] theorem Mod.wr_accOff (m : Mod) (k n v : Nat) : (m.wr k n v).accOff = m.accOff := rfl
@[simp] theorem Mod.wr_accMoved (m : Mod) (k n v : Nat) : (m.wr k n v).accMoved = m.accMoved := rfl
@[simp] theorem Mod.wr_deadStacks (m : Mod) (k n v : Nat) : (m.wr k n v).deadStacks = m.deadStacks := rfl
@[simp] theorem Mod.wr_inReset (m : Mod) (k n v : Nat) : (m.wr k n v).inReset = m.inReset := rfl
@[simp] theorem Mod.wr_ticks (m : Mod) (k n v : Nat) : (m.wr k n v).ticks = m.ticks := rfl
@[simp] theorem Mod.wr_unitLpf (m : Mod) (k n v : Nat) : (m.wr k n v).unitLpf = m.unitLpf := rfl
@[simp] theorem Mod.wr_intakes (m : Mod) (k n v : Nat) : (m.wr k n v).intakes = m.intakes := rfl
@[simp] theorem Mod.wr_secPend (m : Mod) (k n v : Nat) : (m.wr k n v).secPend = m.secPend := rfl
@[simp] theorem Mod.wr_timeLatch (m : Mod) (k n v : Nat) : (m.wr k n v).timeLatch = m.timeLatch := rfl
@[simp] theorem Mod.wr_frameOut (m : Mod) (k n v : Nat) : (m.wr k n v).frameOut = m.frameOut := rfl
@[simp] theorem Mod.wr_lastMask (m : Mod) (k n v : Nat) : (m.wr k n v).lastMask = m.lastMask := rfl
@[simp] theorem Mod.wr_bundles (m : Mod) (k n v : Nat) : (m.wr k n v).bundles = m.bundles := rfl
@[simp] theorem Mod.wr_beacons (m : Mod) (k n v : Nat) : (m.wr k n v).beacons = m.beacons := rfl
@[simp] theorem Mod.wr_bar2Log (m : Mod) (k n v : Nat) : (m.wr k n v).bar2Log = m.bar2Log := rfl
@[simp] theorem Mod.wr_d3 (m : Mod) (k n v : Nat) : (m.wr k n v).d3 = m.d3 := rfl
@[simp] theorem Mod.wr_standby (m : Mod) (k n v : Nat) : (m.wr k n v).standby = m.standby := rfl
@[simp] theorem Mod.wr_cfgSpace (m : Mod) (k n v : Nat) : (m.wr k n v).cfgSpace = m.cfgSpace := rfl
@[simp] theorem Mod.wr_msixTab (m : Mod) (k n v : Nat) : (m.wr k n v).msixTab = m.msixTab := rfl
@[simp] theorem Mod.wr_pba (m : Mod) (k n v : Nat) : (m.wr k n v).pba = m.pba := rfl
@[simp] theorem Mod.wr_aer (m : Mod) (k n v : Nat) : (m.wr k n v).aer = m.aer := rfl
@[simp] theorem Mod.wr_aerCor (m : Mod) (k n v : Nat) : (m.wr k n v).aerCor = m.aerCor := rfl
@[simp] theorem Mod.wr_aerCount (m : Mod) (k n v : Nat) : (m.wr k n v).aerCount = m.aerCount := rfl
@[simp] theorem Mod.wr_aerHeader (m : Mod) (k n v : Nat) : (m.wr k n v).aerHeader = m.aerHeader := rfl
@[simp] theorem Mod.wr_out (m : Mod) (k n v : Nat) : (m.wr k n v).out = m.out := rfl
@[simp] theorem Mod.wr_hostQ (m : Mod) (k n v : Nat) : (m.wr k n v).hostQ = m.hostQ := rfl
@[simp] theorem Mod.wr_doeBusy (m : Mod) (k n v : Nat) : (m.wr k n v).doeBusy = m.doeBusy := rfl
@[simp] theorem Mod.wr_doeErr (m : Mod) (k n v : Nat) : (m.wr k n v).doeErr = m.doeErr := rfl
@[simp] theorem Mod.wr_rings (m : Mod) (k n v : Nat) : (m.wr k n v).rings = m.rings := rfl
@[simp] theorem Mod.wr_tasks (m : Mod) (k n v : Nat) : (m.wr k n v).tasks = m.tasks := rfl
@[simp] theorem Mod.wr_stirred (m : Mod) (k n v : Nat) : (m.wr k n v).stirred = m.stirred := rfl
@[simp] theorem Mod.wr_furrows (m : Mod) (k n v : Nat) : (m.wr k n v).furrows = m.furrows := rfl
@[simp] theorem Mod.wr_digests (m : Mod) (k n v : Nat) : (m.wr k n v).digests = m.digests := rfl
@[simp] theorem Mod.wr_keeper (m : Mod) (k n v : Nat) : (m.wr k n v).keeper = m.keeper := rfl
@[simp] theorem Mod.wr_opTarget (m : Mod) (k n v : Nat) : (m.wr k n v).opTarget = m.opTarget := rfl
@[simp] theorem Mod.wr_droop (m : Mod) (k n v : Nat) : (m.wr k n v).droop = m.droop := rfl
@[simp] theorem Mod.wr_cap (m : Mod) (k n v : Nat) : (m.wr k n v).cap = m.cap := rfl
@[simp] theorem Mod.wr_therm (m : Mod) (k n v : Nat) : (m.wr k n v).therm = m.therm := rfl
@[simp] theorem Mod.wr_sag (m : Mod) (k n v : Nat) : (m.wr k n v).sag = m.sag := rfl
@[simp] theorem Mod.wr_overMean (m : Mod) (k n v : Nat) : (m.wr k n v).overMean = m.overMean := rfl
@[simp] theorem Mod.wr_grantOk (m : Mod) (k n v : Nat) : (m.wr k n v).grantOk = m.grantOk := rfl
@[simp] theorem Mod.wr_warned (m : Mod) (k n v : Nat) : (m.wr k n v).warned = m.warned := rfl
@[simp] theorem Mod.wr_debugHalt (m : Mod) (k n v : Nat) : (m.wr k n v).debugHalt = m.debugHalt := rfl

/-! ### Mod.wrMask -/

@[simp] theorem Mod.wrMask_bad (m : Mod) (k n mask v : Nat) : (m.wrMask k n mask v).bad = m.bad := rfl
@[simp] theorem Mod.wrMask_ce (m : Mod) (k n mask v : Nat) : (m.wrMask k n mask v).ce = m.ce := rfl
@[simp] theorem Mod.wrMask_pm (m : Mod) (k n mask v : Nat) : (m.wrMask k n mask v).pm = m.pm := rfl
@[simp] theorem Mod.wrMask_regs (m : Mod) (k n mask v : Nat) : (m.wrMask k n mask v).regs = m.regs := rfl
@[simp] theorem Mod.wrMask_frozen (m : Mod) (k n mask v : Nat) : (m.wrMask k n mask v).frozen = m.frozen := rfl
@[simp] theorem Mod.wrMask_cores (m : Mod) (k n mask v : Nat) : (m.wrMask k n mask v).cores = m.cores := rfl
@[simp] theorem Mod.wrMask_wains (m : Mod) (k n mask v : Nat) : (m.wrMask k n mask v).wains = m.wains := rfl
@[simp] theorem Mod.wrMask_net (m : Mod) (k n mask v : Nat) : (m.wrMask k n mask v).net = m.net := rfl
@[simp] theorem Mod.wrMask_nextId (m : Mod) (k n mask v : Nat) : (m.wrMask k n mask v).nextId = m.nextId := rfl
@[simp] theorem Mod.wrMask_walkers (m : Mod) (k n mask v : Nat) : (m.wrMask k n mask v).walkers = m.walkers := rfl
@[simp] theorem Mod.wrMask_fresh (m : Mod) (k n mask v : Nat) : (m.wrMask k n mask v).fresh = m.fresh := rfl
@[simp] theorem Mod.wrMask_incs (m : Mod) (k n mask v : Nat) : (m.wrMask k n mask v).incs = m.incs := rfl
@[simp] theorem Mod.wrMask_chuteReqs (m : Mod) (k n mask v : Nat) : (m.wrMask k n mask v).chuteReqs = m.chuteReqs := rfl
@[simp] theorem Mod.wrMask_rsv (m : Mod) (k n mask v : Nat) : (m.wrMask k n mask v).rsv = m.rsv := rfl
@[simp] theorem Mod.wrMask_arrivals (m : Mod) (k n mask v : Nat) : (m.wrMask k n mask v).arrivals = m.arrivals := rfl
@[simp] theorem Mod.wrMask_flags (m : Mod) (k n mask v : Nat) : (m.wrMask k n mask v).flags = m.flags := rfl
@[simp] theorem Mod.wrMask_held (m : Mod) (k n mask v : Nat) : (m.wrMask k n mask v).held = m.held := rfl
@[simp] theorem Mod.wrMask_dr (m : Mod) (k n mask v : Nat) : (m.wrMask k n mask v).dr = m.dr := rfl
@[simp] theorem Mod.wrMask_poisoned (m : Mod) (k n mask v : Nat) : (m.wrMask k n mask v).poisoned = m.poisoned := rfl
@[simp] theorem Mod.wrMask_granary (m : Mod) (k n mask v : Nat) : (m.wrMask k n mask v).granary = m.granary := rfl
@[simp] theorem Mod.wrMask_bins (m : Mod) (k n mask v : Nat) : (m.wrMask k n mask v).bins = m.bins := rfl
@[simp] theorem Mod.wrMask_badBins (m : Mod) (k n mask v : Nat) : (m.wrMask k n mask v).badBins = m.badBins := rfl
@[simp] theorem Mod.wrMask_accOps (m : Mod) (k n mask v : Nat) : (m.wrMask k n mask v).accOps = m.accOps := rfl
@[simp] theorem Mod.wrMask_accOff (m : Mod) (k n mask v : Nat) : (m.wrMask k n mask v).accOff = m.accOff := rfl
@[simp] theorem Mod.wrMask_accMoved (m : Mod) (k n mask v : Nat) : (m.wrMask k n mask v).accMoved = m.accMoved := rfl
@[simp] theorem Mod.wrMask_deadStacks (m : Mod) (k n mask v : Nat) : (m.wrMask k n mask v).deadStacks = m.deadStacks := rfl
@[simp] theorem Mod.wrMask_inReset (m : Mod) (k n mask v : Nat) : (m.wrMask k n mask v).inReset = m.inReset := rfl
@[simp] theorem Mod.wrMask_ticks (m : Mod) (k n mask v : Nat) : (m.wrMask k n mask v).ticks = m.ticks := rfl
@[simp] theorem Mod.wrMask_unitLpf (m : Mod) (k n mask v : Nat) : (m.wrMask k n mask v).unitLpf = m.unitLpf := rfl
@[simp] theorem Mod.wrMask_intakes (m : Mod) (k n mask v : Nat) : (m.wrMask k n mask v).intakes = m.intakes := rfl
@[simp] theorem Mod.wrMask_secPend (m : Mod) (k n mask v : Nat) : (m.wrMask k n mask v).secPend = m.secPend := rfl
@[simp] theorem Mod.wrMask_timeLatch (m : Mod) (k n mask v : Nat) : (m.wrMask k n mask v).timeLatch = m.timeLatch := rfl
@[simp] theorem Mod.wrMask_frameOut (m : Mod) (k n mask v : Nat) : (m.wrMask k n mask v).frameOut = m.frameOut := rfl
@[simp] theorem Mod.wrMask_lastMask (m : Mod) (k n mask v : Nat) : (m.wrMask k n mask v).lastMask = m.lastMask := rfl
@[simp] theorem Mod.wrMask_bundles (m : Mod) (k n mask v : Nat) : (m.wrMask k n mask v).bundles = m.bundles := rfl
@[simp] theorem Mod.wrMask_beacons (m : Mod) (k n mask v : Nat) : (m.wrMask k n mask v).beacons = m.beacons := rfl
@[simp] theorem Mod.wrMask_bar2Log (m : Mod) (k n mask v : Nat) : (m.wrMask k n mask v).bar2Log = m.bar2Log := rfl
@[simp] theorem Mod.wrMask_d3 (m : Mod) (k n mask v : Nat) : (m.wrMask k n mask v).d3 = m.d3 := rfl
@[simp] theorem Mod.wrMask_standby (m : Mod) (k n mask v : Nat) : (m.wrMask k n mask v).standby = m.standby := rfl
@[simp] theorem Mod.wrMask_cfgSpace (m : Mod) (k n mask v : Nat) : (m.wrMask k n mask v).cfgSpace = m.cfgSpace := rfl
@[simp] theorem Mod.wrMask_msixTab (m : Mod) (k n mask v : Nat) : (m.wrMask k n mask v).msixTab = m.msixTab := rfl
@[simp] theorem Mod.wrMask_pba (m : Mod) (k n mask v : Nat) : (m.wrMask k n mask v).pba = m.pba := rfl
@[simp] theorem Mod.wrMask_aer (m : Mod) (k n mask v : Nat) : (m.wrMask k n mask v).aer = m.aer := rfl
@[simp] theorem Mod.wrMask_aerCor (m : Mod) (k n mask v : Nat) : (m.wrMask k n mask v).aerCor = m.aerCor := rfl
@[simp] theorem Mod.wrMask_aerCount (m : Mod) (k n mask v : Nat) : (m.wrMask k n mask v).aerCount = m.aerCount := rfl
@[simp] theorem Mod.wrMask_aerHeader (m : Mod) (k n mask v : Nat) : (m.wrMask k n mask v).aerHeader = m.aerHeader := rfl
@[simp] theorem Mod.wrMask_out (m : Mod) (k n mask v : Nat) : (m.wrMask k n mask v).out = m.out := rfl
@[simp] theorem Mod.wrMask_hostQ (m : Mod) (k n mask v : Nat) : (m.wrMask k n mask v).hostQ = m.hostQ := rfl
@[simp] theorem Mod.wrMask_doeBusy (m : Mod) (k n mask v : Nat) : (m.wrMask k n mask v).doeBusy = m.doeBusy := rfl
@[simp] theorem Mod.wrMask_doeErr (m : Mod) (k n mask v : Nat) : (m.wrMask k n mask v).doeErr = m.doeErr := rfl
@[simp] theorem Mod.wrMask_rings (m : Mod) (k n mask v : Nat) : (m.wrMask k n mask v).rings = m.rings := rfl
@[simp] theorem Mod.wrMask_tasks (m : Mod) (k n mask v : Nat) : (m.wrMask k n mask v).tasks = m.tasks := rfl
@[simp] theorem Mod.wrMask_stirred (m : Mod) (k n mask v : Nat) : (m.wrMask k n mask v).stirred = m.stirred := rfl
@[simp] theorem Mod.wrMask_furrows (m : Mod) (k n mask v : Nat) : (m.wrMask k n mask v).furrows = m.furrows := rfl
@[simp] theorem Mod.wrMask_digests (m : Mod) (k n mask v : Nat) : (m.wrMask k n mask v).digests = m.digests := rfl
@[simp] theorem Mod.wrMask_keeper (m : Mod) (k n mask v : Nat) : (m.wrMask k n mask v).keeper = m.keeper := rfl
@[simp] theorem Mod.wrMask_opTarget (m : Mod) (k n mask v : Nat) : (m.wrMask k n mask v).opTarget = m.opTarget := rfl
@[simp] theorem Mod.wrMask_droop (m : Mod) (k n mask v : Nat) : (m.wrMask k n mask v).droop = m.droop := rfl
@[simp] theorem Mod.wrMask_cap (m : Mod) (k n mask v : Nat) : (m.wrMask k n mask v).cap = m.cap := rfl
@[simp] theorem Mod.wrMask_therm (m : Mod) (k n mask v : Nat) : (m.wrMask k n mask v).therm = m.therm := rfl
@[simp] theorem Mod.wrMask_sag (m : Mod) (k n mask v : Nat) : (m.wrMask k n mask v).sag = m.sag := rfl
@[simp] theorem Mod.wrMask_overMean (m : Mod) (k n mask v : Nat) : (m.wrMask k n mask v).overMean = m.overMean := rfl
@[simp] theorem Mod.wrMask_grantOk (m : Mod) (k n mask v : Nat) : (m.wrMask k n mask v).grantOk = m.grantOk := rfl
@[simp] theorem Mod.wrMask_warned (m : Mod) (k n mask v : Nat) : (m.wrMask k n mask v).warned = m.warned := rfl
@[simp] theorem Mod.wrMask_debugHalt (m : Mod) (k n mask v : Nat) : (m.wrMask k n mask v).debugHalt = m.debugHalt := rfl

/-! ### Mod.sweepMem -/

@[simp] theorem Mod.sweepMem_pm (m : Mod) (lo hi : Nat) : (m.sweepMem lo hi).pm = m.pm := rfl
@[simp] theorem Mod.sweepMem_regs (m : Mod) (lo hi : Nat) : (m.sweepMem lo hi).regs = m.regs := rfl
@[simp] theorem Mod.sweepMem_frozen (m : Mod) (lo hi : Nat) : (m.sweepMem lo hi).frozen = m.frozen := rfl
@[simp] theorem Mod.sweepMem_cores (m : Mod) (lo hi : Nat) : (m.sweepMem lo hi).cores = m.cores := rfl
@[simp] theorem Mod.sweepMem_wains (m : Mod) (lo hi : Nat) : (m.sweepMem lo hi).wains = m.wains := rfl
@[simp] theorem Mod.sweepMem_net (m : Mod) (lo hi : Nat) : (m.sweepMem lo hi).net = m.net := rfl
@[simp] theorem Mod.sweepMem_nextId (m : Mod) (lo hi : Nat) : (m.sweepMem lo hi).nextId = m.nextId := rfl
@[simp] theorem Mod.sweepMem_walkers (m : Mod) (lo hi : Nat) : (m.sweepMem lo hi).walkers = m.walkers := rfl
@[simp] theorem Mod.sweepMem_fresh (m : Mod) (lo hi : Nat) : (m.sweepMem lo hi).fresh = m.fresh := rfl
@[simp] theorem Mod.sweepMem_incs (m : Mod) (lo hi : Nat) : (m.sweepMem lo hi).incs = m.incs := rfl
@[simp] theorem Mod.sweepMem_chuteReqs (m : Mod) (lo hi : Nat) : (m.sweepMem lo hi).chuteReqs = m.chuteReqs := rfl
@[simp] theorem Mod.sweepMem_rsv (m : Mod) (lo hi : Nat) : (m.sweepMem lo hi).rsv = m.rsv := rfl
@[simp] theorem Mod.sweepMem_arrivals (m : Mod) (lo hi : Nat) : (m.sweepMem lo hi).arrivals = m.arrivals := rfl
@[simp] theorem Mod.sweepMem_flags (m : Mod) (lo hi : Nat) : (m.sweepMem lo hi).flags = m.flags := rfl
@[simp] theorem Mod.sweepMem_held (m : Mod) (lo hi : Nat) : (m.sweepMem lo hi).held = m.held := rfl
@[simp] theorem Mod.sweepMem_dr (m : Mod) (lo hi : Nat) : (m.sweepMem lo hi).dr = m.dr := rfl
@[simp] theorem Mod.sweepMem_poisoned (m : Mod) (lo hi : Nat) : (m.sweepMem lo hi).poisoned = m.poisoned := rfl
@[simp] theorem Mod.sweepMem_granary (m : Mod) (lo hi : Nat) : (m.sweepMem lo hi).granary = m.granary := rfl
@[simp] theorem Mod.sweepMem_bins (m : Mod) (lo hi : Nat) : (m.sweepMem lo hi).bins = m.bins := rfl
@[simp] theorem Mod.sweepMem_badBins (m : Mod) (lo hi : Nat) : (m.sweepMem lo hi).badBins = m.badBins := rfl
@[simp] theorem Mod.sweepMem_accOps (m : Mod) (lo hi : Nat) : (m.sweepMem lo hi).accOps = m.accOps := rfl
@[simp] theorem Mod.sweepMem_accOff (m : Mod) (lo hi : Nat) : (m.sweepMem lo hi).accOff = m.accOff := rfl
@[simp] theorem Mod.sweepMem_accMoved (m : Mod) (lo hi : Nat) : (m.sweepMem lo hi).accMoved = m.accMoved := rfl
@[simp] theorem Mod.sweepMem_deadStacks (m : Mod) (lo hi : Nat) : (m.sweepMem lo hi).deadStacks = m.deadStacks := rfl
@[simp] theorem Mod.sweepMem_inReset (m : Mod) (lo hi : Nat) : (m.sweepMem lo hi).inReset = m.inReset := rfl
@[simp] theorem Mod.sweepMem_ticks (m : Mod) (lo hi : Nat) : (m.sweepMem lo hi).ticks = m.ticks := rfl
@[simp] theorem Mod.sweepMem_unitLpf (m : Mod) (lo hi : Nat) : (m.sweepMem lo hi).unitLpf = m.unitLpf := rfl
@[simp] theorem Mod.sweepMem_intakes (m : Mod) (lo hi : Nat) : (m.sweepMem lo hi).intakes = m.intakes := rfl
@[simp] theorem Mod.sweepMem_secPend (m : Mod) (lo hi : Nat) : (m.sweepMem lo hi).secPend = m.secPend := rfl
@[simp] theorem Mod.sweepMem_timeLatch (m : Mod) (lo hi : Nat) : (m.sweepMem lo hi).timeLatch = m.timeLatch := rfl
@[simp] theorem Mod.sweepMem_frameOut (m : Mod) (lo hi : Nat) : (m.sweepMem lo hi).frameOut = m.frameOut := rfl
@[simp] theorem Mod.sweepMem_lastMask (m : Mod) (lo hi : Nat) : (m.sweepMem lo hi).lastMask = m.lastMask := rfl
@[simp] theorem Mod.sweepMem_bundles (m : Mod) (lo hi : Nat) : (m.sweepMem lo hi).bundles = m.bundles := rfl
@[simp] theorem Mod.sweepMem_beacons (m : Mod) (lo hi : Nat) : (m.sweepMem lo hi).beacons = m.beacons := rfl
@[simp] theorem Mod.sweepMem_bar2Log (m : Mod) (lo hi : Nat) : (m.sweepMem lo hi).bar2Log = m.bar2Log := rfl
@[simp] theorem Mod.sweepMem_d3 (m : Mod) (lo hi : Nat) : (m.sweepMem lo hi).d3 = m.d3 := rfl
@[simp] theorem Mod.sweepMem_standby (m : Mod) (lo hi : Nat) : (m.sweepMem lo hi).standby = m.standby := rfl
@[simp] theorem Mod.sweepMem_cfgSpace (m : Mod) (lo hi : Nat) : (m.sweepMem lo hi).cfgSpace = m.cfgSpace := rfl
@[simp] theorem Mod.sweepMem_msixTab (m : Mod) (lo hi : Nat) : (m.sweepMem lo hi).msixTab = m.msixTab := rfl
@[simp] theorem Mod.sweepMem_pba (m : Mod) (lo hi : Nat) : (m.sweepMem lo hi).pba = m.pba := rfl
@[simp] theorem Mod.sweepMem_aer (m : Mod) (lo hi : Nat) : (m.sweepMem lo hi).aer = m.aer := rfl
@[simp] theorem Mod.sweepMem_aerCor (m : Mod) (lo hi : Nat) : (m.sweepMem lo hi).aerCor = m.aerCor := rfl
@[simp] theorem Mod.sweepMem_aerCount (m : Mod) (lo hi : Nat) : (m.sweepMem lo hi).aerCount = m.aerCount := rfl
@[simp] theorem Mod.sweepMem_aerHeader (m : Mod) (lo hi : Nat) : (m.sweepMem lo hi).aerHeader = m.aerHeader := rfl
@[simp] theorem Mod.sweepMem_out (m : Mod) (lo hi : Nat) : (m.sweepMem lo hi).out = m.out := rfl
@[simp] theorem Mod.sweepMem_hostQ (m : Mod) (lo hi : Nat) : (m.sweepMem lo hi).hostQ = m.hostQ := rfl
@[simp] theorem Mod.sweepMem_doeBusy (m : Mod) (lo hi : Nat) : (m.sweepMem lo hi).doeBusy = m.doeBusy := rfl
@[simp] theorem Mod.sweepMem_doeErr (m : Mod) (lo hi : Nat) : (m.sweepMem lo hi).doeErr = m.doeErr := rfl
@[simp] theorem Mod.sweepMem_rings (m : Mod) (lo hi : Nat) : (m.sweepMem lo hi).rings = m.rings := rfl
@[simp] theorem Mod.sweepMem_tasks (m : Mod) (lo hi : Nat) : (m.sweepMem lo hi).tasks = m.tasks := rfl
@[simp] theorem Mod.sweepMem_stirred (m : Mod) (lo hi : Nat) : (m.sweepMem lo hi).stirred = m.stirred := rfl
@[simp] theorem Mod.sweepMem_furrows (m : Mod) (lo hi : Nat) : (m.sweepMem lo hi).furrows = m.furrows := rfl
@[simp] theorem Mod.sweepMem_digests (m : Mod) (lo hi : Nat) : (m.sweepMem lo hi).digests = m.digests := rfl
@[simp] theorem Mod.sweepMem_keeper (m : Mod) (lo hi : Nat) : (m.sweepMem lo hi).keeper = m.keeper := rfl
@[simp] theorem Mod.sweepMem_opTarget (m : Mod) (lo hi : Nat) : (m.sweepMem lo hi).opTarget = m.opTarget := rfl
@[simp] theorem Mod.sweepMem_droop (m : Mod) (lo hi : Nat) : (m.sweepMem lo hi).droop = m.droop := rfl
@[simp] theorem Mod.sweepMem_cap (m : Mod) (lo hi : Nat) : (m.sweepMem lo hi).cap = m.cap := rfl
@[simp] theorem Mod.sweepMem_therm (m : Mod) (lo hi : Nat) : (m.sweepMem lo hi).therm = m.therm := rfl
@[simp] theorem Mod.sweepMem_sag (m : Mod) (lo hi : Nat) : (m.sweepMem lo hi).sag = m.sag := rfl
@[simp] theorem Mod.sweepMem_overMean (m : Mod) (lo hi : Nat) : (m.sweepMem lo hi).overMean = m.overMean := rfl
@[simp] theorem Mod.sweepMem_grantOk (m : Mod) (lo hi : Nat) : (m.sweepMem lo hi).grantOk = m.grantOk := rfl
@[simp] theorem Mod.sweepMem_warned (m : Mod) (lo hi : Nat) : (m.sweepMem lo hi).warned = m.warned := rfl
@[simp] theorem Mod.sweepMem_debugHalt (m : Mod) (lo hi : Nat) : (m.sweepMem lo hi).debugHalt = m.debugHalt := rfl

/-! ### Mod.setParcel -/

@[simp] theorem Mod.setParcel_mem (m : Mod) (c a : Nat) (v : Parcel) : (m.setParcel c a v).mem = m.mem := rfl
@[simp] theorem Mod.setParcel_bad (m : Mod) (c a : Nat) (v : Parcel) : (m.setParcel c a v).bad = m.bad := rfl
@[simp] theorem Mod.setParcel_ce (m : Mod) (c a : Nat) (v : Parcel) : (m.setParcel c a v).ce = m.ce := rfl
@[simp] theorem Mod.setParcel_regs (m : Mod) (c a : Nat) (v : Parcel) : (m.setParcel c a v).regs = m.regs := rfl
@[simp] theorem Mod.setParcel_frozen (m : Mod) (c a : Nat) (v : Parcel) : (m.setParcel c a v).frozen = m.frozen := rfl
@[simp] theorem Mod.setParcel_cores (m : Mod) (c a : Nat) (v : Parcel) : (m.setParcel c a v).cores = m.cores := rfl
@[simp] theorem Mod.setParcel_wains (m : Mod) (c a : Nat) (v : Parcel) : (m.setParcel c a v).wains = m.wains := rfl
@[simp] theorem Mod.setParcel_net (m : Mod) (c a : Nat) (v : Parcel) : (m.setParcel c a v).net = m.net := rfl
@[simp] theorem Mod.setParcel_nextId (m : Mod) (c a : Nat) (v : Parcel) : (m.setParcel c a v).nextId = m.nextId := rfl
@[simp] theorem Mod.setParcel_walkers (m : Mod) (c a : Nat) (v : Parcel) : (m.setParcel c a v).walkers = m.walkers := rfl
@[simp] theorem Mod.setParcel_fresh (m : Mod) (c a : Nat) (v : Parcel) : (m.setParcel c a v).fresh = m.fresh := rfl
@[simp] theorem Mod.setParcel_incs (m : Mod) (c a : Nat) (v : Parcel) : (m.setParcel c a v).incs = m.incs := rfl
@[simp] theorem Mod.setParcel_chuteReqs (m : Mod) (c a : Nat) (v : Parcel) : (m.setParcel c a v).chuteReqs = m.chuteReqs := rfl
@[simp] theorem Mod.setParcel_rsv (m : Mod) (c a : Nat) (v : Parcel) : (m.setParcel c a v).rsv = m.rsv := rfl
@[simp] theorem Mod.setParcel_arrivals (m : Mod) (c a : Nat) (v : Parcel) : (m.setParcel c a v).arrivals = m.arrivals := rfl
@[simp] theorem Mod.setParcel_flags (m : Mod) (c a : Nat) (v : Parcel) : (m.setParcel c a v).flags = m.flags := rfl
@[simp] theorem Mod.setParcel_held (m : Mod) (c a : Nat) (v : Parcel) : (m.setParcel c a v).held = m.held := rfl
@[simp] theorem Mod.setParcel_dr (m : Mod) (c a : Nat) (v : Parcel) : (m.setParcel c a v).dr = m.dr := rfl
@[simp] theorem Mod.setParcel_poisoned (m : Mod) (c a : Nat) (v : Parcel) : (m.setParcel c a v).poisoned = m.poisoned := rfl
@[simp] theorem Mod.setParcel_granary (m : Mod) (c a : Nat) (v : Parcel) : (m.setParcel c a v).granary = m.granary := rfl
@[simp] theorem Mod.setParcel_bins (m : Mod) (c a : Nat) (v : Parcel) : (m.setParcel c a v).bins = m.bins := rfl
@[simp] theorem Mod.setParcel_badBins (m : Mod) (c a : Nat) (v : Parcel) : (m.setParcel c a v).badBins = m.badBins := rfl
@[simp] theorem Mod.setParcel_accOps (m : Mod) (c a : Nat) (v : Parcel) : (m.setParcel c a v).accOps = m.accOps := rfl
@[simp] theorem Mod.setParcel_accOff (m : Mod) (c a : Nat) (v : Parcel) : (m.setParcel c a v).accOff = m.accOff := rfl
@[simp] theorem Mod.setParcel_accMoved (m : Mod) (c a : Nat) (v : Parcel) : (m.setParcel c a v).accMoved = m.accMoved := rfl
@[simp] theorem Mod.setParcel_deadStacks (m : Mod) (c a : Nat) (v : Parcel) : (m.setParcel c a v).deadStacks = m.deadStacks := rfl
@[simp] theorem Mod.setParcel_inReset (m : Mod) (c a : Nat) (v : Parcel) : (m.setParcel c a v).inReset = m.inReset := rfl
@[simp] theorem Mod.setParcel_ticks (m : Mod) (c a : Nat) (v : Parcel) : (m.setParcel c a v).ticks = m.ticks := rfl
@[simp] theorem Mod.setParcel_unitLpf (m : Mod) (c a : Nat) (v : Parcel) : (m.setParcel c a v).unitLpf = m.unitLpf := rfl
@[simp] theorem Mod.setParcel_intakes (m : Mod) (c a : Nat) (v : Parcel) : (m.setParcel c a v).intakes = m.intakes := rfl
@[simp] theorem Mod.setParcel_secPend (m : Mod) (c a : Nat) (v : Parcel) : (m.setParcel c a v).secPend = m.secPend := rfl
@[simp] theorem Mod.setParcel_timeLatch (m : Mod) (c a : Nat) (v : Parcel) : (m.setParcel c a v).timeLatch = m.timeLatch := rfl
@[simp] theorem Mod.setParcel_frameOut (m : Mod) (c a : Nat) (v : Parcel) : (m.setParcel c a v).frameOut = m.frameOut := rfl
@[simp] theorem Mod.setParcel_lastMask (m : Mod) (c a : Nat) (v : Parcel) : (m.setParcel c a v).lastMask = m.lastMask := rfl
@[simp] theorem Mod.setParcel_bundles (m : Mod) (c a : Nat) (v : Parcel) : (m.setParcel c a v).bundles = m.bundles := rfl
@[simp] theorem Mod.setParcel_beacons (m : Mod) (c a : Nat) (v : Parcel) : (m.setParcel c a v).beacons = m.beacons := rfl
@[simp] theorem Mod.setParcel_bar2Log (m : Mod) (c a : Nat) (v : Parcel) : (m.setParcel c a v).bar2Log = m.bar2Log := rfl
@[simp] theorem Mod.setParcel_d3 (m : Mod) (c a : Nat) (v : Parcel) : (m.setParcel c a v).d3 = m.d3 := rfl
@[simp] theorem Mod.setParcel_standby (m : Mod) (c a : Nat) (v : Parcel) : (m.setParcel c a v).standby = m.standby := rfl
@[simp] theorem Mod.setParcel_cfgSpace (m : Mod) (c a : Nat) (v : Parcel) : (m.setParcel c a v).cfgSpace = m.cfgSpace := rfl
@[simp] theorem Mod.setParcel_msixTab (m : Mod) (c a : Nat) (v : Parcel) : (m.setParcel c a v).msixTab = m.msixTab := rfl
@[simp] theorem Mod.setParcel_pba (m : Mod) (c a : Nat) (v : Parcel) : (m.setParcel c a v).pba = m.pba := rfl
@[simp] theorem Mod.setParcel_aer (m : Mod) (c a : Nat) (v : Parcel) : (m.setParcel c a v).aer = m.aer := rfl
@[simp] theorem Mod.setParcel_aerCor (m : Mod) (c a : Nat) (v : Parcel) : (m.setParcel c a v).aerCor = m.aerCor := rfl
@[simp] theorem Mod.setParcel_aerCount (m : Mod) (c a : Nat) (v : Parcel) : (m.setParcel c a v).aerCount = m.aerCount := rfl
@[simp] theorem Mod.setParcel_aerHeader (m : Mod) (c a : Nat) (v : Parcel) : (m.setParcel c a v).aerHeader = m.aerHeader := rfl
@[simp] theorem Mod.setParcel_out (m : Mod) (c a : Nat) (v : Parcel) : (m.setParcel c a v).out = m.out := rfl
@[simp] theorem Mod.setParcel_hostQ (m : Mod) (c a : Nat) (v : Parcel) : (m.setParcel c a v).hostQ = m.hostQ := rfl
@[simp] theorem Mod.setParcel_doeBusy (m : Mod) (c a : Nat) (v : Parcel) : (m.setParcel c a v).doeBusy = m.doeBusy := rfl
@[simp] theorem Mod.setParcel_doeErr (m : Mod) (c a : Nat) (v : Parcel) : (m.setParcel c a v).doeErr = m.doeErr := rfl
@[simp] theorem Mod.setParcel_rings (m : Mod) (c a : Nat) (v : Parcel) : (m.setParcel c a v).rings = m.rings := rfl
@[simp] theorem Mod.setParcel_tasks (m : Mod) (c a : Nat) (v : Parcel) : (m.setParcel c a v).tasks = m.tasks := rfl
@[simp] theorem Mod.setParcel_stirred (m : Mod) (c a : Nat) (v : Parcel) : (m.setParcel c a v).stirred = m.stirred := rfl
@[simp] theorem Mod.setParcel_furrows (m : Mod) (c a : Nat) (v : Parcel) : (m.setParcel c a v).furrows = m.furrows := rfl
@[simp] theorem Mod.setParcel_digests (m : Mod) (c a : Nat) (v : Parcel) : (m.setParcel c a v).digests = m.digests := rfl
@[simp] theorem Mod.setParcel_keeper (m : Mod) (c a : Nat) (v : Parcel) : (m.setParcel c a v).keeper = m.keeper := rfl
@[simp] theorem Mod.setParcel_opTarget (m : Mod) (c a : Nat) (v : Parcel) : (m.setParcel c a v).opTarget = m.opTarget := rfl
@[simp] theorem Mod.setParcel_droop (m : Mod) (c a : Nat) (v : Parcel) : (m.setParcel c a v).droop = m.droop := rfl
@[simp] theorem Mod.setParcel_cap (m : Mod) (c a : Nat) (v : Parcel) : (m.setParcel c a v).cap = m.cap := rfl
@[simp] theorem Mod.setParcel_therm (m : Mod) (c a : Nat) (v : Parcel) : (m.setParcel c a v).therm = m.therm := rfl
@[simp] theorem Mod.setParcel_sag (m : Mod) (c a : Nat) (v : Parcel) : (m.setParcel c a v).sag = m.sag := rfl
@[simp] theorem Mod.setParcel_overMean (m : Mod) (c a : Nat) (v : Parcel) : (m.setParcel c a v).overMean = m.overMean := rfl
@[simp] theorem Mod.setParcel_grantOk (m : Mod) (c a : Nat) (v : Parcel) : (m.setParcel c a v).grantOk = m.grantOk := rfl
@[simp] theorem Mod.setParcel_warned (m : Mod) (c a : Nat) (v : Parcel) : (m.setParcel c a v).warned = m.warned := rfl
@[simp] theorem Mod.setParcel_debugHalt (m : Mod) (c a : Nat) (v : Parcel) : (m.setParcel c a v).debugHalt = m.debugHalt := rfl

/-! ### Mod.setFur -/

@[simp] theorem Mod.setFur_mem (m : Mod) (c : Nat) (f : Furrow) : (m.setFur c f).mem = m.mem := rfl
@[simp] theorem Mod.setFur_bad (m : Mod) (c : Nat) (f : Furrow) : (m.setFur c f).bad = m.bad := rfl
@[simp] theorem Mod.setFur_ce (m : Mod) (c : Nat) (f : Furrow) : (m.setFur c f).ce = m.ce := rfl
@[simp] theorem Mod.setFur_pm (m : Mod) (c : Nat) (f : Furrow) : (m.setFur c f).pm = m.pm := rfl
@[simp] theorem Mod.setFur_regs (m : Mod) (c : Nat) (f : Furrow) : (m.setFur c f).regs = m.regs := rfl
@[simp] theorem Mod.setFur_frozen (m : Mod) (c : Nat) (f : Furrow) : (m.setFur c f).frozen = m.frozen := rfl
@[simp] theorem Mod.setFur_cores (m : Mod) (c : Nat) (f : Furrow) : (m.setFur c f).cores = m.cores := rfl
@[simp] theorem Mod.setFur_wains (m : Mod) (c : Nat) (f : Furrow) : (m.setFur c f).wains = m.wains := rfl
@[simp] theorem Mod.setFur_net (m : Mod) (c : Nat) (f : Furrow) : (m.setFur c f).net = m.net := rfl
@[simp] theorem Mod.setFur_nextId (m : Mod) (c : Nat) (f : Furrow) : (m.setFur c f).nextId = m.nextId := rfl
@[simp] theorem Mod.setFur_walkers (m : Mod) (c : Nat) (f : Furrow) : (m.setFur c f).walkers = m.walkers := rfl
@[simp] theorem Mod.setFur_fresh (m : Mod) (c : Nat) (f : Furrow) : (m.setFur c f).fresh = m.fresh := rfl
@[simp] theorem Mod.setFur_incs (m : Mod) (c : Nat) (f : Furrow) : (m.setFur c f).incs = m.incs := rfl
@[simp] theorem Mod.setFur_chuteReqs (m : Mod) (c : Nat) (f : Furrow) : (m.setFur c f).chuteReqs = m.chuteReqs := rfl
@[simp] theorem Mod.setFur_rsv (m : Mod) (c : Nat) (f : Furrow) : (m.setFur c f).rsv = m.rsv := rfl
@[simp] theorem Mod.setFur_arrivals (m : Mod) (c : Nat) (f : Furrow) : (m.setFur c f).arrivals = m.arrivals := rfl
@[simp] theorem Mod.setFur_flags (m : Mod) (c : Nat) (f : Furrow) : (m.setFur c f).flags = m.flags := rfl
@[simp] theorem Mod.setFur_held (m : Mod) (c : Nat) (f : Furrow) : (m.setFur c f).held = m.held := rfl
@[simp] theorem Mod.setFur_dr (m : Mod) (c : Nat) (f : Furrow) : (m.setFur c f).dr = m.dr := rfl
@[simp] theorem Mod.setFur_poisoned (m : Mod) (c : Nat) (f : Furrow) : (m.setFur c f).poisoned = m.poisoned := rfl
@[simp] theorem Mod.setFur_granary (m : Mod) (c : Nat) (f : Furrow) : (m.setFur c f).granary = m.granary := rfl
@[simp] theorem Mod.setFur_bins (m : Mod) (c : Nat) (f : Furrow) : (m.setFur c f).bins = m.bins := rfl
@[simp] theorem Mod.setFur_badBins (m : Mod) (c : Nat) (f : Furrow) : (m.setFur c f).badBins = m.badBins := rfl
@[simp] theorem Mod.setFur_accOps (m : Mod) (c : Nat) (f : Furrow) : (m.setFur c f).accOps = m.accOps := rfl
@[simp] theorem Mod.setFur_accOff (m : Mod) (c : Nat) (f : Furrow) : (m.setFur c f).accOff = m.accOff := rfl
@[simp] theorem Mod.setFur_accMoved (m : Mod) (c : Nat) (f : Furrow) : (m.setFur c f).accMoved = m.accMoved := rfl
@[simp] theorem Mod.setFur_deadStacks (m : Mod) (c : Nat) (f : Furrow) : (m.setFur c f).deadStacks = m.deadStacks := rfl
@[simp] theorem Mod.setFur_inReset (m : Mod) (c : Nat) (f : Furrow) : (m.setFur c f).inReset = m.inReset := rfl
@[simp] theorem Mod.setFur_ticks (m : Mod) (c : Nat) (f : Furrow) : (m.setFur c f).ticks = m.ticks := rfl
@[simp] theorem Mod.setFur_unitLpf (m : Mod) (c : Nat) (f : Furrow) : (m.setFur c f).unitLpf = m.unitLpf := rfl
@[simp] theorem Mod.setFur_intakes (m : Mod) (c : Nat) (f : Furrow) : (m.setFur c f).intakes = m.intakes := rfl
@[simp] theorem Mod.setFur_secPend (m : Mod) (c : Nat) (f : Furrow) : (m.setFur c f).secPend = m.secPend := rfl
@[simp] theorem Mod.setFur_timeLatch (m : Mod) (c : Nat) (f : Furrow) : (m.setFur c f).timeLatch = m.timeLatch := rfl
@[simp] theorem Mod.setFur_frameOut (m : Mod) (c : Nat) (f : Furrow) : (m.setFur c f).frameOut = m.frameOut := rfl
@[simp] theorem Mod.setFur_lastMask (m : Mod) (c : Nat) (f : Furrow) : (m.setFur c f).lastMask = m.lastMask := rfl
@[simp] theorem Mod.setFur_bundles (m : Mod) (c : Nat) (f : Furrow) : (m.setFur c f).bundles = m.bundles := rfl
@[simp] theorem Mod.setFur_beacons (m : Mod) (c : Nat) (f : Furrow) : (m.setFur c f).beacons = m.beacons := rfl
@[simp] theorem Mod.setFur_bar2Log (m : Mod) (c : Nat) (f : Furrow) : (m.setFur c f).bar2Log = m.bar2Log := rfl
@[simp] theorem Mod.setFur_d3 (m : Mod) (c : Nat) (f : Furrow) : (m.setFur c f).d3 = m.d3 := rfl
@[simp] theorem Mod.setFur_standby (m : Mod) (c : Nat) (f : Furrow) : (m.setFur c f).standby = m.standby := rfl
@[simp] theorem Mod.setFur_cfgSpace (m : Mod) (c : Nat) (f : Furrow) : (m.setFur c f).cfgSpace = m.cfgSpace := rfl
@[simp] theorem Mod.setFur_msixTab (m : Mod) (c : Nat) (f : Furrow) : (m.setFur c f).msixTab = m.msixTab := rfl
@[simp] theorem Mod.setFur_pba (m : Mod) (c : Nat) (f : Furrow) : (m.setFur c f).pba = m.pba := rfl
@[simp] theorem Mod.setFur_aer (m : Mod) (c : Nat) (f : Furrow) : (m.setFur c f).aer = m.aer := rfl
@[simp] theorem Mod.setFur_aerCor (m : Mod) (c : Nat) (f : Furrow) : (m.setFur c f).aerCor = m.aerCor := rfl
@[simp] theorem Mod.setFur_aerCount (m : Mod) (c : Nat) (f : Furrow) : (m.setFur c f).aerCount = m.aerCount := rfl
@[simp] theorem Mod.setFur_aerHeader (m : Mod) (c : Nat) (f : Furrow) : (m.setFur c f).aerHeader = m.aerHeader := rfl
@[simp] theorem Mod.setFur_out (m : Mod) (c : Nat) (f : Furrow) : (m.setFur c f).out = m.out := rfl
@[simp] theorem Mod.setFur_hostQ (m : Mod) (c : Nat) (f : Furrow) : (m.setFur c f).hostQ = m.hostQ := rfl
@[simp] theorem Mod.setFur_doeBusy (m : Mod) (c : Nat) (f : Furrow) : (m.setFur c f).doeBusy = m.doeBusy := rfl
@[simp] theorem Mod.setFur_doeErr (m : Mod) (c : Nat) (f : Furrow) : (m.setFur c f).doeErr = m.doeErr := rfl
@[simp] theorem Mod.setFur_rings (m : Mod) (c : Nat) (f : Furrow) : (m.setFur c f).rings = m.rings := rfl
@[simp] theorem Mod.setFur_tasks (m : Mod) (c : Nat) (f : Furrow) : (m.setFur c f).tasks = m.tasks := rfl
@[simp] theorem Mod.setFur_stirred (m : Mod) (c : Nat) (f : Furrow) : (m.setFur c f).stirred = m.stirred := rfl
@[simp] theorem Mod.setFur_digests (m : Mod) (c : Nat) (f : Furrow) : (m.setFur c f).digests = m.digests := rfl
@[simp] theorem Mod.setFur_keeper (m : Mod) (c : Nat) (f : Furrow) : (m.setFur c f).keeper = m.keeper := rfl
@[simp] theorem Mod.setFur_opTarget (m : Mod) (c : Nat) (f : Furrow) : (m.setFur c f).opTarget = m.opTarget := rfl
@[simp] theorem Mod.setFur_droop (m : Mod) (c : Nat) (f : Furrow) : (m.setFur c f).droop = m.droop := rfl
@[simp] theorem Mod.setFur_cap (m : Mod) (c : Nat) (f : Furrow) : (m.setFur c f).cap = m.cap := rfl
@[simp] theorem Mod.setFur_therm (m : Mod) (c : Nat) (f : Furrow) : (m.setFur c f).therm = m.therm := rfl
@[simp] theorem Mod.setFur_sag (m : Mod) (c : Nat) (f : Furrow) : (m.setFur c f).sag = m.sag := rfl
@[simp] theorem Mod.setFur_overMean (m : Mod) (c : Nat) (f : Furrow) : (m.setFur c f).overMean = m.overMean := rfl
@[simp] theorem Mod.setFur_grantOk (m : Mod) (c : Nat) (f : Furrow) : (m.setFur c f).grantOk = m.grantOk := rfl
@[simp] theorem Mod.setFur_warned (m : Mod) (c : Nat) (f : Furrow) : (m.setFur c f).warned = m.warned := rfl
@[simp] theorem Mod.setFur_debugHalt (m : Mod) (c : Nat) (f : Furrow) : (m.setFur c f).debugHalt = m.debugHalt := rfl

/-! ### Mod.onKeeper -/

@[simp] theorem Mod.onKeeper_mem (m : Mod) (f : Keeper → Keeper) : (m.onKeeper f).mem = m.mem := rfl
@[simp] theorem Mod.onKeeper_bad (m : Mod) (f : Keeper → Keeper) : (m.onKeeper f).bad = m.bad := rfl
@[simp] theorem Mod.onKeeper_ce (m : Mod) (f : Keeper → Keeper) : (m.onKeeper f).ce = m.ce := rfl
@[simp] theorem Mod.onKeeper_pm (m : Mod) (f : Keeper → Keeper) : (m.onKeeper f).pm = m.pm := rfl
@[simp] theorem Mod.onKeeper_regs (m : Mod) (f : Keeper → Keeper) : (m.onKeeper f).regs = m.regs := rfl
@[simp] theorem Mod.onKeeper_frozen (m : Mod) (f : Keeper → Keeper) : (m.onKeeper f).frozen = m.frozen := rfl
@[simp] theorem Mod.onKeeper_cores (m : Mod) (f : Keeper → Keeper) : (m.onKeeper f).cores = m.cores := rfl
@[simp] theorem Mod.onKeeper_wains (m : Mod) (f : Keeper → Keeper) : (m.onKeeper f).wains = m.wains := rfl
@[simp] theorem Mod.onKeeper_net (m : Mod) (f : Keeper → Keeper) : (m.onKeeper f).net = m.net := rfl
@[simp] theorem Mod.onKeeper_nextId (m : Mod) (f : Keeper → Keeper) : (m.onKeeper f).nextId = m.nextId := rfl
@[simp] theorem Mod.onKeeper_walkers (m : Mod) (f : Keeper → Keeper) : (m.onKeeper f).walkers = m.walkers := rfl
@[simp] theorem Mod.onKeeper_fresh (m : Mod) (f : Keeper → Keeper) : (m.onKeeper f).fresh = m.fresh := rfl
@[simp] theorem Mod.onKeeper_incs (m : Mod) (f : Keeper → Keeper) : (m.onKeeper f).incs = m.incs := rfl
@[simp] theorem Mod.onKeeper_chuteReqs (m : Mod) (f : Keeper → Keeper) : (m.onKeeper f).chuteReqs = m.chuteReqs := rfl
@[simp] theorem Mod.onKeeper_rsv (m : Mod) (f : Keeper → Keeper) : (m.onKeeper f).rsv = m.rsv := rfl
@[simp] theorem Mod.onKeeper_arrivals (m : Mod) (f : Keeper → Keeper) : (m.onKeeper f).arrivals = m.arrivals := rfl
@[simp] theorem Mod.onKeeper_flags (m : Mod) (f : Keeper → Keeper) : (m.onKeeper f).flags = m.flags := rfl
@[simp] theorem Mod.onKeeper_held (m : Mod) (f : Keeper → Keeper) : (m.onKeeper f).held = m.held := rfl
@[simp] theorem Mod.onKeeper_dr (m : Mod) (f : Keeper → Keeper) : (m.onKeeper f).dr = m.dr := rfl
@[simp] theorem Mod.onKeeper_poisoned (m : Mod) (f : Keeper → Keeper) : (m.onKeeper f).poisoned = m.poisoned := rfl
@[simp] theorem Mod.onKeeper_granary (m : Mod) (f : Keeper → Keeper) : (m.onKeeper f).granary = m.granary := rfl
@[simp] theorem Mod.onKeeper_bins (m : Mod) (f : Keeper → Keeper) : (m.onKeeper f).bins = m.bins := rfl
@[simp] theorem Mod.onKeeper_badBins (m : Mod) (f : Keeper → Keeper) : (m.onKeeper f).badBins = m.badBins := rfl
@[simp] theorem Mod.onKeeper_accOps (m : Mod) (f : Keeper → Keeper) : (m.onKeeper f).accOps = m.accOps := rfl
@[simp] theorem Mod.onKeeper_accOff (m : Mod) (f : Keeper → Keeper) : (m.onKeeper f).accOff = m.accOff := rfl
@[simp] theorem Mod.onKeeper_accMoved (m : Mod) (f : Keeper → Keeper) : (m.onKeeper f).accMoved = m.accMoved := rfl
@[simp] theorem Mod.onKeeper_deadStacks (m : Mod) (f : Keeper → Keeper) : (m.onKeeper f).deadStacks = m.deadStacks := rfl
@[simp] theorem Mod.onKeeper_inReset (m : Mod) (f : Keeper → Keeper) : (m.onKeeper f).inReset = m.inReset := rfl
@[simp] theorem Mod.onKeeper_ticks (m : Mod) (f : Keeper → Keeper) : (m.onKeeper f).ticks = m.ticks := rfl
@[simp] theorem Mod.onKeeper_unitLpf (m : Mod) (f : Keeper → Keeper) : (m.onKeeper f).unitLpf = m.unitLpf := rfl
@[simp] theorem Mod.onKeeper_intakes (m : Mod) (f : Keeper → Keeper) : (m.onKeeper f).intakes = m.intakes := rfl
@[simp] theorem Mod.onKeeper_secPend (m : Mod) (f : Keeper → Keeper) : (m.onKeeper f).secPend = m.secPend := rfl
@[simp] theorem Mod.onKeeper_timeLatch (m : Mod) (f : Keeper → Keeper) : (m.onKeeper f).timeLatch = m.timeLatch := rfl
@[simp] theorem Mod.onKeeper_frameOut (m : Mod) (f : Keeper → Keeper) : (m.onKeeper f).frameOut = m.frameOut := rfl
@[simp] theorem Mod.onKeeper_lastMask (m : Mod) (f : Keeper → Keeper) : (m.onKeeper f).lastMask = m.lastMask := rfl
@[simp] theorem Mod.onKeeper_bundles (m : Mod) (f : Keeper → Keeper) : (m.onKeeper f).bundles = m.bundles := rfl
@[simp] theorem Mod.onKeeper_beacons (m : Mod) (f : Keeper → Keeper) : (m.onKeeper f).beacons = m.beacons := rfl
@[simp] theorem Mod.onKeeper_bar2Log (m : Mod) (f : Keeper → Keeper) : (m.onKeeper f).bar2Log = m.bar2Log := rfl
@[simp] theorem Mod.onKeeper_d3 (m : Mod) (f : Keeper → Keeper) : (m.onKeeper f).d3 = m.d3 := rfl
@[simp] theorem Mod.onKeeper_standby (m : Mod) (f : Keeper → Keeper) : (m.onKeeper f).standby = m.standby := rfl
@[simp] theorem Mod.onKeeper_cfgSpace (m : Mod) (f : Keeper → Keeper) : (m.onKeeper f).cfgSpace = m.cfgSpace := rfl
@[simp] theorem Mod.onKeeper_msixTab (m : Mod) (f : Keeper → Keeper) : (m.onKeeper f).msixTab = m.msixTab := rfl
@[simp] theorem Mod.onKeeper_pba (m : Mod) (f : Keeper → Keeper) : (m.onKeeper f).pba = m.pba := rfl
@[simp] theorem Mod.onKeeper_aer (m : Mod) (f : Keeper → Keeper) : (m.onKeeper f).aer = m.aer := rfl
@[simp] theorem Mod.onKeeper_aerCor (m : Mod) (f : Keeper → Keeper) : (m.onKeeper f).aerCor = m.aerCor := rfl
@[simp] theorem Mod.onKeeper_aerCount (m : Mod) (f : Keeper → Keeper) : (m.onKeeper f).aerCount = m.aerCount := rfl
@[simp] theorem Mod.onKeeper_aerHeader (m : Mod) (f : Keeper → Keeper) : (m.onKeeper f).aerHeader = m.aerHeader := rfl
@[simp] theorem Mod.onKeeper_out (m : Mod) (f : Keeper → Keeper) : (m.onKeeper f).out = m.out := rfl
@[simp] theorem Mod.onKeeper_hostQ (m : Mod) (f : Keeper → Keeper) : (m.onKeeper f).hostQ = m.hostQ := rfl
@[simp] theorem Mod.onKeeper_doeBusy (m : Mod) (f : Keeper → Keeper) : (m.onKeeper f).doeBusy = m.doeBusy := rfl
@[simp] theorem Mod.onKeeper_doeErr (m : Mod) (f : Keeper → Keeper) : (m.onKeeper f).doeErr = m.doeErr := rfl
@[simp] theorem Mod.onKeeper_rings (m : Mod) (f : Keeper → Keeper) : (m.onKeeper f).rings = m.rings := rfl
@[simp] theorem Mod.onKeeper_tasks (m : Mod) (f : Keeper → Keeper) : (m.onKeeper f).tasks = m.tasks := rfl
@[simp] theorem Mod.onKeeper_stirred (m : Mod) (f : Keeper → Keeper) : (m.onKeeper f).stirred = m.stirred := rfl
@[simp] theorem Mod.onKeeper_furrows (m : Mod) (f : Keeper → Keeper) : (m.onKeeper f).furrows = m.furrows := rfl
@[simp] theorem Mod.onKeeper_digests (m : Mod) (f : Keeper → Keeper) : (m.onKeeper f).digests = m.digests := rfl
@[simp] theorem Mod.onKeeper_opTarget (m : Mod) (f : Keeper → Keeper) : (m.onKeeper f).opTarget = m.opTarget := rfl
@[simp] theorem Mod.onKeeper_droop (m : Mod) (f : Keeper → Keeper) : (m.onKeeper f).droop = m.droop := rfl
@[simp] theorem Mod.onKeeper_cap (m : Mod) (f : Keeper → Keeper) : (m.onKeeper f).cap = m.cap := rfl
@[simp] theorem Mod.onKeeper_therm (m : Mod) (f : Keeper → Keeper) : (m.onKeeper f).therm = m.therm := rfl
@[simp] theorem Mod.onKeeper_sag (m : Mod) (f : Keeper → Keeper) : (m.onKeeper f).sag = m.sag := rfl
@[simp] theorem Mod.onKeeper_overMean (m : Mod) (f : Keeper → Keeper) : (m.onKeeper f).overMean = m.overMean := rfl
@[simp] theorem Mod.onKeeper_grantOk (m : Mod) (f : Keeper → Keeper) : (m.onKeeper f).grantOk = m.grantOk := rfl
@[simp] theorem Mod.onKeeper_warned (m : Mod) (f : Keeper → Keeper) : (m.onKeeper f).warned = m.warned := rfl
@[simp] theorem Mod.onKeeper_debugHalt (m : Mod) (f : Keeper → Keeper) : (m.onKeeper f).debugHalt = m.debugHalt := rfl

/-! ### Mod.setWain -/

@[simp] theorem Mod.setWain_mem (m : Mod) (w : Nat) (x : Wain) : (m.setWain w x).mem = m.mem := rfl
@[simp] theorem Mod.setWain_bad (m : Mod) (w : Nat) (x : Wain) : (m.setWain w x).bad = m.bad := rfl
@[simp] theorem Mod.setWain_ce (m : Mod) (w : Nat) (x : Wain) : (m.setWain w x).ce = m.ce := rfl
@[simp] theorem Mod.setWain_pm (m : Mod) (w : Nat) (x : Wain) : (m.setWain w x).pm = m.pm := rfl
@[simp] theorem Mod.setWain_regs (m : Mod) (w : Nat) (x : Wain) : (m.setWain w x).regs = m.regs := rfl
@[simp] theorem Mod.setWain_frozen (m : Mod) (w : Nat) (x : Wain) : (m.setWain w x).frozen = m.frozen := rfl
@[simp] theorem Mod.setWain_cores (m : Mod) (w : Nat) (x : Wain) : (m.setWain w x).cores = m.cores := rfl
@[simp] theorem Mod.setWain_net (m : Mod) (w : Nat) (x : Wain) : (m.setWain w x).net = m.net := rfl
@[simp] theorem Mod.setWain_nextId (m : Mod) (w : Nat) (x : Wain) : (m.setWain w x).nextId = m.nextId := rfl
@[simp] theorem Mod.setWain_walkers (m : Mod) (w : Nat) (x : Wain) : (m.setWain w x).walkers = m.walkers := rfl
@[simp] theorem Mod.setWain_fresh (m : Mod) (w : Nat) (x : Wain) : (m.setWain w x).fresh = m.fresh := rfl
@[simp] theorem Mod.setWain_incs (m : Mod) (w : Nat) (x : Wain) : (m.setWain w x).incs = m.incs := rfl
@[simp] theorem Mod.setWain_chuteReqs (m : Mod) (w : Nat) (x : Wain) : (m.setWain w x).chuteReqs = m.chuteReqs := rfl
@[simp] theorem Mod.setWain_rsv (m : Mod) (w : Nat) (x : Wain) : (m.setWain w x).rsv = m.rsv := rfl
@[simp] theorem Mod.setWain_arrivals (m : Mod) (w : Nat) (x : Wain) : (m.setWain w x).arrivals = m.arrivals := rfl
@[simp] theorem Mod.setWain_flags (m : Mod) (w : Nat) (x : Wain) : (m.setWain w x).flags = m.flags := rfl
@[simp] theorem Mod.setWain_held (m : Mod) (w : Nat) (x : Wain) : (m.setWain w x).held = m.held := rfl
@[simp] theorem Mod.setWain_dr (m : Mod) (w : Nat) (x : Wain) : (m.setWain w x).dr = m.dr := rfl
@[simp] theorem Mod.setWain_poisoned (m : Mod) (w : Nat) (x : Wain) : (m.setWain w x).poisoned = m.poisoned := rfl
@[simp] theorem Mod.setWain_granary (m : Mod) (w : Nat) (x : Wain) : (m.setWain w x).granary = m.granary := rfl
@[simp] theorem Mod.setWain_bins (m : Mod) (w : Nat) (x : Wain) : (m.setWain w x).bins = m.bins := rfl
@[simp] theorem Mod.setWain_badBins (m : Mod) (w : Nat) (x : Wain) : (m.setWain w x).badBins = m.badBins := rfl
@[simp] theorem Mod.setWain_accOps (m : Mod) (w : Nat) (x : Wain) : (m.setWain w x).accOps = m.accOps := rfl
@[simp] theorem Mod.setWain_accOff (m : Mod) (w : Nat) (x : Wain) : (m.setWain w x).accOff = m.accOff := rfl
@[simp] theorem Mod.setWain_accMoved (m : Mod) (w : Nat) (x : Wain) : (m.setWain w x).accMoved = m.accMoved := rfl
@[simp] theorem Mod.setWain_deadStacks (m : Mod) (w : Nat) (x : Wain) : (m.setWain w x).deadStacks = m.deadStacks := rfl
@[simp] theorem Mod.setWain_inReset (m : Mod) (w : Nat) (x : Wain) : (m.setWain w x).inReset = m.inReset := rfl
@[simp] theorem Mod.setWain_ticks (m : Mod) (w : Nat) (x : Wain) : (m.setWain w x).ticks = m.ticks := rfl
@[simp] theorem Mod.setWain_unitLpf (m : Mod) (w : Nat) (x : Wain) : (m.setWain w x).unitLpf = m.unitLpf := rfl
@[simp] theorem Mod.setWain_intakes (m : Mod) (w : Nat) (x : Wain) : (m.setWain w x).intakes = m.intakes := rfl
@[simp] theorem Mod.setWain_secPend (m : Mod) (w : Nat) (x : Wain) : (m.setWain w x).secPend = m.secPend := rfl
@[simp] theorem Mod.setWain_timeLatch (m : Mod) (w : Nat) (x : Wain) : (m.setWain w x).timeLatch = m.timeLatch := rfl
@[simp] theorem Mod.setWain_frameOut (m : Mod) (w : Nat) (x : Wain) : (m.setWain w x).frameOut = m.frameOut := rfl
@[simp] theorem Mod.setWain_lastMask (m : Mod) (w : Nat) (x : Wain) : (m.setWain w x).lastMask = m.lastMask := rfl
@[simp] theorem Mod.setWain_bundles (m : Mod) (w : Nat) (x : Wain) : (m.setWain w x).bundles = m.bundles := rfl
@[simp] theorem Mod.setWain_beacons (m : Mod) (w : Nat) (x : Wain) : (m.setWain w x).beacons = m.beacons := rfl
@[simp] theorem Mod.setWain_bar2Log (m : Mod) (w : Nat) (x : Wain) : (m.setWain w x).bar2Log = m.bar2Log := rfl
@[simp] theorem Mod.setWain_d3 (m : Mod) (w : Nat) (x : Wain) : (m.setWain w x).d3 = m.d3 := rfl
@[simp] theorem Mod.setWain_standby (m : Mod) (w : Nat) (x : Wain) : (m.setWain w x).standby = m.standby := rfl
@[simp] theorem Mod.setWain_cfgSpace (m : Mod) (w : Nat) (x : Wain) : (m.setWain w x).cfgSpace = m.cfgSpace := rfl
@[simp] theorem Mod.setWain_msixTab (m : Mod) (w : Nat) (x : Wain) : (m.setWain w x).msixTab = m.msixTab := rfl
@[simp] theorem Mod.setWain_pba (m : Mod) (w : Nat) (x : Wain) : (m.setWain w x).pba = m.pba := rfl
@[simp] theorem Mod.setWain_aer (m : Mod) (w : Nat) (x : Wain) : (m.setWain w x).aer = m.aer := rfl
@[simp] theorem Mod.setWain_aerCor (m : Mod) (w : Nat) (x : Wain) : (m.setWain w x).aerCor = m.aerCor := rfl
@[simp] theorem Mod.setWain_aerCount (m : Mod) (w : Nat) (x : Wain) : (m.setWain w x).aerCount = m.aerCount := rfl
@[simp] theorem Mod.setWain_aerHeader (m : Mod) (w : Nat) (x : Wain) : (m.setWain w x).aerHeader = m.aerHeader := rfl
@[simp] theorem Mod.setWain_out (m : Mod) (w : Nat) (x : Wain) : (m.setWain w x).out = m.out := rfl
@[simp] theorem Mod.setWain_hostQ (m : Mod) (w : Nat) (x : Wain) : (m.setWain w x).hostQ = m.hostQ := rfl
@[simp] theorem Mod.setWain_doeBusy (m : Mod) (w : Nat) (x : Wain) : (m.setWain w x).doeBusy = m.doeBusy := rfl
@[simp] theorem Mod.setWain_doeErr (m : Mod) (w : Nat) (x : Wain) : (m.setWain w x).doeErr = m.doeErr := rfl
@[simp] theorem Mod.setWain_rings (m : Mod) (w : Nat) (x : Wain) : (m.setWain w x).rings = m.rings := rfl
@[simp] theorem Mod.setWain_tasks (m : Mod) (w : Nat) (x : Wain) : (m.setWain w x).tasks = m.tasks := rfl
@[simp] theorem Mod.setWain_stirred (m : Mod) (w : Nat) (x : Wain) : (m.setWain w x).stirred = m.stirred := rfl
@[simp] theorem Mod.setWain_furrows (m : Mod) (w : Nat) (x : Wain) : (m.setWain w x).furrows = m.furrows := rfl
@[simp] theorem Mod.setWain_digests (m : Mod) (w : Nat) (x : Wain) : (m.setWain w x).digests = m.digests := rfl
@[simp] theorem Mod.setWain_keeper (m : Mod) (w : Nat) (x : Wain) : (m.setWain w x).keeper = m.keeper := rfl
@[simp] theorem Mod.setWain_opTarget (m : Mod) (w : Nat) (x : Wain) : (m.setWain w x).opTarget = m.opTarget := rfl
@[simp] theorem Mod.setWain_droop (m : Mod) (w : Nat) (x : Wain) : (m.setWain w x).droop = m.droop := rfl
@[simp] theorem Mod.setWain_cap (m : Mod) (w : Nat) (x : Wain) : (m.setWain w x).cap = m.cap := rfl
@[simp] theorem Mod.setWain_therm (m : Mod) (w : Nat) (x : Wain) : (m.setWain w x).therm = m.therm := rfl
@[simp] theorem Mod.setWain_sag (m : Mod) (w : Nat) (x : Wain) : (m.setWain w x).sag = m.sag := rfl
@[simp] theorem Mod.setWain_overMean (m : Mod) (w : Nat) (x : Wain) : (m.setWain w x).overMean = m.overMean := rfl
@[simp] theorem Mod.setWain_grantOk (m : Mod) (w : Nat) (x : Wain) : (m.setWain w x).grantOk = m.grantOk := rfl
@[simp] theorem Mod.setWain_warned (m : Mod) (w : Nat) (x : Wain) : (m.setWain w x).warned = m.warned := rfl
@[simp] theorem Mod.setWain_debugHalt (m : Mod) (w : Nat) (x : Wain) : (m.setWain w x).debugHalt = m.debugHalt := rfl

/-! ### State -/

@[simp] theorem State.mod_pending (s : State) (m : Mod) : ({ s with mod := m } : State).pending = s.pending := rfl
@[simp] theorem State.mod_aon (s : State) (m : Mod) : ({ s with mod := m } : State).aon = s.aon := rfl
@[simp] theorem State.mod_mod (s : State) (m : Mod) : ({ s with mod := m } : State).mod = m := rfl
@[simp] theorem State.aon_mod (s : State) (a : AlwaysOn) : ({ s with aon := a } : State).mod = s.mod := rfl
@[simp] theorem State.aon_aon (s : State) (a : AlwaysOn) : ({ s with aon := a } : State).aon = a := rfl

end Sys2Proof.Machine
end

