-- ==== Sys2Proof/Laws/Registers.lean ====
section
/-! SUPPORT. Page registers: what a write leaves in every register, what recording an error and raising a cause leave, and what a command
that is an admitted access answers. -/

namespace Sys2Proof.Machine

/-! ### Stored bits -/

/-- A register after a write of the register with the same key. -/
theorem Mod.reg_setReg_same (m : Mod) (die page off v : Nat) : (m.setReg die page off v).reg die page off = v % 2 ^ 64 := by
  simp [Mod.reg, Mod.setReg]

/-- A write leaves every register with another key. -/
theorem Mod.reg_setReg_ne (m : Mod) {die page off die' page' off' : Nat} (v : Nat) (h : regKey die' page' off' ≠ regKey die page off) :
    (m.setReg die page off v).reg die' page' off' = m.reg die' page' off' := by
  simp only [Mod.reg, Mod.setReg, SMap.get_put_other _ _ _ _ h]

/-- Registers of one page at different aligned offsets have different keys. -/
theorem regKey_off {die page off off' : Nat} (h : off / 8 ≠ off' / 8) : regKey die page off ≠ regKey die page off' := by
  simp only [regKey]; omega

/-- Registers of different pages of the register space have different keys. -/
theorem regKey_page {die page off die' page' off' : Nat} (hp : page < 8192) (hp' : page' < 8192) (ho : off < 4096) (ho' : off' < 4096)
    (h : die ≠ die' ∨ page ≠ page') : regKey die page off ≠ regKey die' page' off' := by
  simp only [regKey]; omega

theorem Mod.reg_lt (m : Mod) (die page off : Nat) : m.reg die page off < 2 ^ 64 := BitVec.isLt _

theorem bits_lt (v lo w : Nat) : bits v lo w < 2 ^ w := Nat.mod_lt _ (Nat.two_pow_pos w)

/-! ### Causes and errors -/

/-- Counting events changes registers and nothing else. -/
theorem Mod.perf_regs (m : Mod) (die page ev inst n : Nat) : ∃ r, m.perf die page ev inst n = { m with regs := r } := by
  have h : ∀ (l : List Nat) (f : Mod → Nat → Mod), (∀ x k, ∃ r, f x k = { x with regs := r }) → ∀ y : Mod, ∃ r, l.foldl f y = { y with regs := r } := by
    intro l f hf
    induction l with
    | nil => exact fun y => ⟨y.regs, rfl⟩
    | cons k t ih =>
      intro y
      obtain ⟨r, e⟩ := hf y k
      obtain ⟨r2, e2⟩ := ih (f y k)
      exact ⟨r2, by rw [List.foldl_cons, e2, e]⟩
  unfold Mod.perf
  split
  · exact ⟨m.regs, rfl⟩
  · refine h _ _ (fun x k => ?_) m
    dsimp only
    split
    · unfold Mod.perfAdd
      dsimp only
      split
      · exact ⟨_, rfl⟩
      · exact ⟨_, rfl⟩
    · exact ⟨x.regs, rfl⟩

/-- A TLP that leaves the host port changes registers and what has left the module, and nothing else. -/
theorem Mod.tlp_regs (m : Mod) (o : Out) : ∃ r, m.tlp o = { m with regs := r, out := m.out ++ [o] } := by
  obtain ⟨r, e⟩ := Mod.perf_regs (({ m with out := m.out ++ [o] } : Mod).addReg 4 2079 0x148 1) 4 (diePerfPage 4) 0x89 0 1
  exact ⟨r, e⟩

theorem Mod.raiseVector_frame (m : Mod) (v : Nat) :
    (m.raiseVector v).mem = m.mem ∧ (m.raiseVector v).cores = m.cores ∧ (m.raiseVector v).net = m.net ∧ (m.raiseVector v).pm = m.pm ∧
      (m.raiseVector v).wains = m.wains ∧ (m.raiseVector v).furrows = m.furrows ∧ (m.raiseVector v).keeper = m.keeper ∧ (m.raiseVector v).dr = m.dr := by
  unfold Mod.raiseVector Mod.sendVector
  split
  · exact ⟨rfl, rfl, rfl, rfl, rfl, rfl, rfl, rfl⟩
  · obtain ⟨r, e⟩ := Mod.tlp_regs m (Out.msix v (SMap.get 0 m.msixTab (3 * v)).toNat (SMap.get 0 m.msixTab (3 * v + 1)).toNat)
    rw [e]
    exact ⟨rfl, rfl, rfl, rfl, rfl, rfl, rfl, rfl⟩

theorem Mod.vectorEdge_frame (m : Mod) (before die page : Nat) :
    let t := m.vectorEdge before die page
    t.mem = m.mem ∧ t.cores = m.cores ∧ t.net = m.net ∧ t.pm = m.pm ∧ t.wains = m.wains ∧ t.furrows = m.furrows ∧ t.keeper = m.keeper ∧ t.dr = m.dr := by
  unfold Mod.vectorEdge
  split
  · exact ⟨rfl, rfl, rfl, rfl, rfl, rfl, rfl, rfl⟩
  · split
    · exact ⟨rfl, rfl, rfl, rfl, rfl, rfl, rfl, rfl⟩
    · exact Mod.raiseVector_frame m _

/-- Raising a cause changes registers, and through MSI-X what leaves the module, and nothing else of these. -/
theorem Mod.irq_frame (m : Mod) (die page bit : Nat) :
    let t := m.irq die page bit
    t.mem = m.mem ∧ t.cores = m.cores ∧ t.net = m.net ∧ t.pm = m.pm ∧ t.wains = m.wains ∧ t.furrows = m.furrows ∧ t.keeper = m.keeper ∧ t.dr = m.dr := by
  have h := Mod.vectorEdge_frame (m.orReg die page 0x020 (2 ^ bit)) (m.irqBits die page) die page
  simp only [Mod.orReg_mem, Mod.orReg_cores, Mod.orReg_net, Mod.orReg_pm, Mod.orReg_wains, Mod.orReg_furrows, Mod.orReg_keeper, Mod.orReg_dr] at h
  unfold Mod.irq
  exact h

/-- The error record of a page, without the interrupt that it may raise. -/
theorem Mod.record_frame (m : Mod) (die page a b c d : Nat) (p : Prop) [Decidable p] :
    let t := if p then ((m.setReg die page 0x038 a).setReg die page 0x040 b).setReg die page 0x048 c else m.setReg die page 0x038 d
    t.mem = m.mem ∧ t.cores = m.cores ∧ t.net = m.net ∧ t.pm = m.pm ∧ t.wains = m.wains ∧ t.furrows = m.furrows ∧ t.keeper = m.keeper ∧ t.dr = m.dr := by
  by_cases h : p <;> simp [h]

/-- Recording an error likewise. -/
theorem Mod.err_frame (m : Mod) (die page bit q detail addr : Nat) :
    let t := m.err die page bit q detail addr
    t.mem = m.mem ∧ t.cores = m.cores ∧ t.net = m.net ∧ t.pm = m.pm ∧ t.wains = m.wains ∧ t.furrows = m.furrows ∧ t.keeper = m.keeper ∧ t.dr = m.dr := by
  have h := Mod.record_frame m die page (m.reg die page 0x038 ||| 2 ^ bit) (bit * 2 ^ 48 + q % 65536 * 2 ^ 32 + detail % 2 ^ 32) (addr % 2 ^ 44)
    (m.reg die page 0x038 ||| 2 ^ bit ||| 4) (m.reg die page 0x038 % 4 = 0 ∧ m.reg die page 0x038 / 8 = 0)
  unfold Mod.err
  simp only
  generalize (if m.reg die page 0x038 % 4 = 0 ∧ m.reg die page 0x038 / 8 = 0 then _ else _ : Mod) = m1 at h ⊢
  obtain ⟨h1, h2, h3, h4, h5, h6, h7, h8⟩ := h
  rw [← h1, ← h2, ← h3, ← h4, ← h5, ← h6, ← h7, ← h8]
  split
  · split
    · exact Mod.irq_frame m1 die page _
    · exact ⟨rfl, rfl, rfl, rfl, rfl, rfl, rfl, rfl⟩
  · exact ⟨rfl, rfl, rfl, rfl, rfl, rfl, rfl, rfl⟩

theorem Mod.disturb_mem (m : Mod) (die page : Nat) : (m.disturb die page).mem = m.mem := by
  unfold Mod.disturb
  split <;> rfl

/-- A digest walk that goes on changes its own record and its registers. -/
theorem Mod.digestStep_mem (m : Mod) (die : Nat) : (m.digestStep die).mem = m.mem := by
  unfold Mod.digestStep
  split <;> rfl

/-- A write of a register under the common rules leaves memory. -/
theorem Mod.commonWrite_mem (m : Mod) (q die page off we wv : Nat) : (m.commonWrite q die page off we wv).mem = m.mem := by
  have h : ∀ (p r : Bool) (x y : Mod), x.mem = m.mem → y.mem = m.mem →
      (if r then (if p then x else y).err die page 1 q 0 (regMpa die page off) else (if p then x else y)).mem = m.mem := by
    intro p r x y hx hy
    have h2 : (if p then x else y).mem = m.mem := by cases p <;> assumption
    cases r
    · exact h2
    · exact (Mod.err_frame _ _ _ _ _ _ _).1.trans h2
  exact h _ _ _ _ ((Mod.disturb_mem _ _ _).trans (Mod.digestStep_mem m die)) rfl

/-! ### Register commands -/

/-- Decoding the MPA of a register gives the register. -/
theorem decodeMpa_regMpa {die page off : Nat} (hd : die < 6) (hp : page < 8192) (ho : off < 4096) :
    decodeMpa (regMpa die page off) = .reg die page off := by
  have h1 : ¬ regMpa die page off < 0x8000000000 := by simp only [regMpa]; omega
  have h2 : ¬ (0x40000000000 ≤ regMpa die page off ∧ regMpa die page off < 0x40100000000) := by simp only [regMpa]; omega
  have h3 : 0x50000000000 ≤ regMpa die page off ∧ regMpa die page off < 0x5000C000000 := by simp only [regMpa]; omega
  simp only [decodeMpa, h1, h2, h3, ↓reduceIte, and_self]
  simp only [regMpa, Target.reg.injEq]
  omega

/-- A command that is an admitted write of a register passes its test and writes the register, all 64 bits of it. -/
theorem regRow_admits {ok : RegTest} {a : RegAcc} {s : State} {die page off : Nat} (h : s.admits a die page off = true)
    (ht : ok s die page off (2 ^ 64 - 1) a.v.toNat = true) :
    regRow true ok a s = .next (regWrite { test := a.test, dead := a.dead } a.q die page off (2 ^ 64 - 1) a.v.toNat s) := by
  simp only [State.admits, State.up, accessOf, Bool.and_eq_true, Bool.not_eq_true', decide_eq_true_eq, Option.isNone_iff_eq_none] at h
  obtain ⟨⟨⟨⟨⟨hp, hdue⟩, ⟨⟨⟨⟨⟨⟨⟨hid, hq⟩, hm⟩, hs⟩, hd⟩, hpg⟩, ho⟩, ho8⟩⟩, hr⟩, -⟩, hsys⟩ := h
  have hdec := decodeMpa_regMpa hd hpg ho
  have hoff : off / 8 * 8 = off := by omega
  have hv : a.v.toNat % 2 ^ (8 * 8) = a.v.toNat := Nat.mod_eq_of_lt a.v.isLt
  have h4 : ¬ off % 8 = 4 := by omega
  simp only [regRow, hid, Option.isNone_none, hq, Bool.not_true, Bool.and_false, Bool.false_eq_true, ↓reduceIte, hp, hdue, Bool.or_self, hm, hdec, hs, h4,
    Nat.mul_one, hv, hoff, regAccess, hr, hsys]
  norm_num at ht ⊢
  simp [ht]

end Sys2Proof.Machine
end

