-- ==== Sys2Proof/Laws/Hbm.lean ====
section
/-! SUPPORT. What a read of HBM answers whether the Granary holds the granule or not: passing through the Granary changes only the Granary,
the counters of GRANARY and PERF pages and the number of open values used, and a read of clean HBM behind BW returns the bytes of memory. -/

namespace Sys2Proof.Machine

/-! ### What passing through the Granary changes -/

/-- A line without poison and without errors. -/
def GLine.clean (g : GLine) : Prop := g.poison = 0 ∧ g.bad = 0 ∧ g.ce = 0

/-- Every line of the Granaries is clean. -/
def Mod.gClean (m : Mod) : Prop := ∀ e ∈ m.granary, ∀ g ∈ e.2, g.clean

/-- HBM behind BW is clean and served by BW alone: no word in error, no dead stack, no poison, no SPREAD entry in BW's table, BW not in DR. -/
def Mod.hbmClean (m : Mod) : Prop :=
  m.bad = [] ∧ m.ce = [] ∧ m.deadStacks = [] ∧ m.poisoned = [] ∧ m.dr.contains 4 = false ∧ (∀ g, g < 256 → m.spread 4 g = false) ∧ m.gClean

/-- The pages whose counters an access to HBM moves. -/
def hbmPage (page : Nat) : Prop := page = granaryPage ∨ page = diePerfPage 4

/-- `t` is `m` but for the Granary, the counters of the GRANARY and Barn PERF pages, and the number of open values used; the Granary is as clean. -/
def Mod.recounts (t m : Mod) : Prop :=
  (∃ r f g, t = { m with regs := r, fresh := f, granary := g }) ∧
    (∀ die page off, page < 8192 → off < 4096 → ¬ hbmPage page → t.reg die page off = m.reg die page off) ∧ (m.gClean → t.gClean)

theorem Mod.recounts_self (m : Mod) : m.recounts m := ⟨⟨m.regs, m.fresh, m.granary, rfl⟩, fun _ _ _ _ _ _ => rfl, fun h => h⟩

theorem Mod.recounts_trans {t u m : Mod} (h : t.recounts u) (g : u.recounts m) : t.recounts m := by
  obtain ⟨⟨r, f, x, rfl⟩, h2, h3⟩ := h
  obtain ⟨⟨r', f', x', rfl⟩, g2, g3⟩ := g
  exact ⟨⟨r, f, x, rfl⟩, fun d p o hp ho hg => (h2 d p o hp ho hg).trans (g2 d p o hp ho hg), fun c => h3 (g3 c)⟩

theorem Mod.recounts_hbmClean {t m : Mod} (h : t.recounts m) (c : m.hbmClean) : t.hbmClean := by
  obtain ⟨⟨r, f, g, rfl⟩, hr, hg⟩ := h
  obtain ⟨h1, h2, h3, h4, h5, h6, h7⟩ := c
  refine ⟨h1, h2, h3, h4, h5, fun x hx => ?_, hg h7⟩
  have h := h6 x hx
  unfold Mod.spread Mod.fld at h ⊢
  rw [hr 4 placePage (0x200 + x / 8 * 8) (by decide) (by omega) (by unfold hbmPage; decide)]
  exact h

/-- Adding to a counter of a GRANARY page. -/
theorem Mod.recounts_addReg (m : Mod) (b o n : Nat) (h : o < 4096) : (m.addReg (4 + b) granaryPage o n).recounts m := by
  refine ⟨⟨_, m.fresh, m.granary, rfl⟩, fun d p off hp ho hg => ?_, fun c => c⟩
  exact Mod.reg_setReg_ne m _ (regKey_page hp (by decide) ho h (Or.inr (fun e => hg (Or.inl e))))

theorem Mod.recounts_free (m : Mod) : m.free.2.recounts m := ⟨⟨m.regs, _, m.granary, rfl⟩, fun _ _ _ _ _ _ => rfl, fun c => c⟩

/-- Counting an event changes registers of its own PERF page. -/
theorem Mod.perfAdd_reg (m : Mod) (die page k n : Nat) (hk : k < 8) (hpg : page < 8192) {d p o : Nat} (hp : p < 8192) (ho : o < 4096) (hne : p ≠ page) :
    (m.perfAdd die page k n).reg d p o = m.reg d p o := by
  have h (x : Mod) (off v : Nat) (hoff : off < 4096) : (x.setReg die page off v).reg d p o = x.reg d p o :=
    Mod.reg_setReg_ne x v (regKey_page hp hpg ho hoff (Or.inr hne))
  unfold Mod.perfAdd Mod.orReg
  dsimp only
  split
  · rw [h _ _ _ (by omega), h _ _ _ (by omega)]
  · rw [h _ _ _ (by omega)]

theorem Mod.perf_reg (m : Mod) (die page ev inst n : Nat) (hpg : page < 8192) {d p o : Nat} (hp : p < 8192) (ho : o < 4096) (hne : p ≠ page) :
    (m.perf die page ev inst n).reg d p o = m.reg d p o := by
  have h : ∀ (l : List Nat) (f : Mod → Nat → Mod), (∀ x k, k ∈ l → (f x k).reg d p o = x.reg d p o) → ∀ y : Mod, (l.foldl f y).reg d p o = y.reg d p o := by
    intro l f
    induction l with
    | nil => exact fun _ _ => rfl
    | cons k t ih =>
      intro hf y
      rw [List.foldl_cons, ih (fun x j hj => hf x j (List.mem_cons_of_mem _ hj)), hf y k (by simp)]
  unfold Mod.perf
  split
  · rfl
  · refine h _ _ (fun x k hk => ?_) m
    dsimp only
    split
    · exact Mod.perfAdd_reg x die page k n (List.mem_range.mp hk) hpg hp ho hne
    · rfl

theorem Mod.recounts_dieEv (m : Mod) (b ev inst n : Nat) : (m.dieEv (4 + b) ev inst n).recounts m := by
  have e : diePerfPage (4 + b) = diePerfPage 4 := by unfold diePerfPage; rw [if_neg (by omega), if_neg (by omega)]
  refine ⟨?_, fun d p o hp ho hg => ?_, ?_⟩
  · obtain ⟨r, h⟩ := Mod.perf_regs m (4 + b) (diePerfPage (4 + b)) ev inst n
    exact ⟨r, m.fresh, m.granary, h⟩
  · exact Mod.perf_reg m _ _ _ _ _ (by rw [e]; decide) hp ho (fun h => hg (Or.inr (by rw [h, e])))
  · obtain ⟨r, h⟩ := Mod.perf_regs m (4 + b) (diePerfPage (4 + b)) ev inst n
    unfold Mod.dieEv
    rw [h]
    exact fun c => c

/-! ### Lines -/

theorem SMap.get_mem {α : Type} (d : α) : ∀ (l : SMap α) (k : Nat), SMap.get d l k = d ∨ (k, SMap.get d l k) ∈ l := by
  intro l k
  induction l with
  | nil => exact Or.inl rfl
  | cons e t ih =>
    obtain ⟨a, v⟩ := e
    unfold SMap.get
    split
    · rename_i h; subst h; exact Or.inr (by simp)
    · exact ih.imp id (fun h => List.mem_cons_of_mem _ h)

/-- The lines of a set of a clean Granary. -/
theorem Mod.gLines_clean {m : Mod} (c : m.gClean) (set : Nat) : ∀ g ∈ m.gLines set, g.clean := by
  intro g hg
  rcases SMap.get_mem [] m.granary set with h | h
  · unfold Mod.gLines at hg; rw [h] at hg; cases hg
  · exact c _ h g hg

/-- Replacing a set's lines by clean ones. -/
theorem Mod.recounts_setGLines (m : Mod) (set : Nat) (ls : List GLine) (h : m.gClean → ∀ g ∈ ls, g.clean) : (m.setGLines set ls).recounts m := by
  refine ⟨⟨m.regs, m.fresh, _, rfl⟩, fun _ _ _ _ _ _ => rfl, fun c e he g hg => ?_⟩
  have hmem : e = (set, ls) ∨ e ∈ m.granary := by
    unfold Mod.setGLines SMap.put at he
    dsimp only at he
    split at he
    · exact Or.inr (List.mem_filter.mp he).1
    · exact (SMap.mem_insert he).imp id (fun h => (List.mem_filter.mp h).1)
  rcases hmem with rfl | h1
  · exact h c g hg
  · exact c e h1 g hg

/-- The line that holds a granule of a clean Granary. -/
theorem Mod.gLine_clean {m : Mod} (c : m.gClean) {barn l : Nat} {x : GLine} (h : m.gLine barn l = some x) : x.clean :=
  Mod.gLines_clean c _ x (List.mem_of_find?_eq_some h)

theorem Mod.gHit_clean {m : Mod} (c : m.gClean) {barn l : Nat} {x : GLine} (h : m.gHit barn l = some x) : x.clean :=
  Mod.gLine_clean c (Option.filter_eq_some_iff.mp h).1

theorem Mod.gPoison_clean {m : Mod} (c : m.hbmClean) (barn l : Nat) : m.gPoison barn l = false := by
  unfold Mod.gPoison
  split
  · rename_i x h
    rw [(Mod.gHit_clean c.2.2.2.2.2.2 h).1]
    simp [bits]
  · rw [c.2.2.2.1]; rfl

/-- Putting a clean line in place of one of the same tag. -/
theorem Mod.recounts_putGLine (m : Mod) (barn l : Nat) (x : GLine) (h : x.clean) : (m.putGLine barn l x).recounts m := by
  refine Mod.recounts_setGLines m _ _ (fun c g hg => ?_)
  obtain ⟨y, hy, rfl⟩ := List.mem_map.mp hg
  split
  · exact h
  · exact Mod.gLines_clean c _ y hy

/-! ### Accesses to clean HBM -/

theorem Mod.writeHbm_clean {m : Mod} (c : m.hbmClean) (b l : Nat) : (m.writeHbm b l false).recounts m := by
  obtain ⟨h1, h2, h3, h4, h5, h6, h7⟩ := c
  have e : m.writeHbm b l false = m.dieEv (4 + b) 0x81 (l / 1024 % 4) 1 := by
    unfold Mod.writeHbm Mod.poisonHbm
    dsimp only
    rw [h1, h2, h4]
    simp only [List.filter_nil, Bool.false_eq_true, ↓reduceIte]
    congr 1
    cases m
    simp_all
  rw [e]
  exact Mod.recounts_dieEv m b _ _ _

theorem Mod.gWriteBack_clean {m : Mod} (c : m.hbmClean) (b set : Nat) {x : GLine} (h : x.clean) : (m.gWriteBack b set x).recounts m := by
  have step : ∀ (y : Mod) (hh : Nat), y.hbmClean →
      (if bits x.dirty hh 1 = 1 then
        ((if decide (bits x.bad (8 * hh) 8 ≠ 0) then y.free.2.granaryUe y.free.1 b (x.tag * 2 ^ 24 + set % 2 ^ 17 * 128 + hh * 64) else y).writeHbm b
          (x.tag * 2 ^ 24 + set % 2 ^ 17 * 128 + hh * 64) (decide (bits x.bad (8 * hh) 8 ≠ 0) || bits x.poison hh 1 == 1))
      else y).recounts y := by
    intro y hh hy
    have e1 : decide (bits x.bad (8 * hh) 8 ≠ 0) = false := by rw [h.2.1]; simp [bits]
    have e2 : (bits x.poison hh 1 == 1) = false := by rw [h.1]; simp [bits]
    rw [e1, e2]
    split
    · exact Mod.writeHbm_clean hy b _
    · exact Mod.recounts_self y
  unfold Mod.gWriteBack
  split
  · exact Mod.recounts_self m
  · have r0 := step m 0 c
    have r1 := Mod.recounts_trans (step _ 1 (Mod.recounts_hbmClean r0 c)) r0
    exact Mod.recounts_trans (Mod.recounts_dieEv _ b _ _ _) (Mod.recounts_trans (Mod.recounts_addReg _ b 0x150 1 (by decide)) r1)

theorem Mod.gWriteBacks_clean (b set : Nat) : ∀ (l : List GLine) {m : Mod}, m.hbmClean → (∀ g ∈ l, g.clean) →
    (l.foldl (fun (y : Mod) g => y.gWriteBack b set g) m).recounts m := by
  intro l
  induction l with
  | nil => exact fun _ _ => Mod.recounts_self _
  | cons g t ih =>
    intro m c h
    have r := Mod.gWriteBack_clean c b set (h g (by simp))
    exact Mod.recounts_trans (ih (Mod.recounts_hbmClean r c) (fun x hx => h x (List.mem_cons_of_mem _ hx))) r

theorem setBits_zero (lo w : Nat) : setBits 0 lo w 0 = 0 := by simp [setBits, bits]

theorem Mod.gPlace_clean {m : Mod} (c : m.hbmClean) (b l : Nat) : (m.gPlace b l).recounts m := by
  unfold Mod.gPlace
  dsimp only
  rw [c.2.2.2.1]
  split
  · rename_i x hx
    have g := Mod.gLine_clean c.2.2.2.2.2.2 hx
    exact Mod.recounts_putGLine m b l _ ⟨by simp [g.1, b2n, setBits_zero], by simp [g.2.1, setBits_zero], by simp [g.2.2, setBits_zero]⟩
  · have lc := Mod.gLines_clean c.2.2.2.2.2.2 (gSet b l)
    have cf := Mod.recounts_hbmClean (Mod.recounts_free m) c
    refine Mod.recounts_trans (Mod.recounts_setGLines _ _ _ ?_) (Mod.recounts_trans (Mod.gWriteBacks_clean b (gSet b l) _ cf ?_) (Mod.recounts_free m))
    · intro _ g hg
      rcases List.mem_cons.mp hg with rfl | hg
      · exact ⟨by simp [b2n, setBits_zero], by simp [setBits_zero], by simp [setBits_zero]⟩
      · exact lc g (List.mem_filter.mp hg).1
    · exact fun g hg => lc g (List.mem_filter.mp hg).1

theorem Mod.gScan_clean {m : Mod} (c : m.hbmClean) (q b l : Nat) : m.gScan q b l = m := by
  unfold Mod.gScan
  split
  · rfl
  · rename_i x h
    have g := Mod.gHit_clean c.2.2.2.2.2.2 h
    simp [g.2.1, g.2.2, bits, popc]

theorem Mod.gFetch_clean {m : Mod} (c : m.hbmClean) (q b l mpa : Nat) : (m.gFetch q b l mpa).recounts m := by
  have r := Mod.recounts_dieEv m b 0x80 (l / 1024 % 4) 1
  have c1 := Mod.recounts_hbmClean r c
  have e : (m.dieEv (4 + b) 0x80 (l / 1024 % 4) 1).stackCorrect b l = m.dieEv (4 + b) 0x80 (l / 1024 % 4) 1 := by
    unfold Mod.stackCorrect
    simp [c1.2.1]
  unfold Mod.gFetch
  dsimp only
  rw [e, if_pos (by unfold Mod.wordsOk; rw [c1.1]; rfl)]
  exact r

/-- Passing through the Granary changes only the Granary and counters. -/
theorem Mod.gTouch_clean {m : Mod} (c : m.hbmClean) (q b l mpa : Nat) (whole : Bool) : (m.gTouch q b l mpa whole).recounts m := by
  have e : (if whole then m else m.gScan q b l) = m := by rw [Mod.gScan_clean c]; simp
  unfold Mod.gTouch
  dsimp only
  rw [e]
  split
  · exact Mod.recounts_trans (Mod.recounts_dieEv _ b _ _ _) (Mod.recounts_addReg m b 0x140 1 (by decide))
  · have r1 := Mod.recounts_trans (Mod.recounts_dieEv (m.addReg (4 + b) granaryPage 0x148 1) b 0x83 0 1) (Mod.recounts_addReg m b 0x148 1 (by decide))
    have c1 := Mod.recounts_hbmClean r1 c
    have r2 : (if whole then (m.addReg (4 + b) granaryPage 0x148 1).dieEv (4 + b) 0x83 0 1
        else ((m.addReg (4 + b) granaryPage 0x148 1).dieEv (4 + b) 0x83 0 1).gFetch q b l mpa).recounts m := by
      split
      · exact r1
      · exact Mod.recounts_trans (Mod.gFetch_clean c1 q b l mpa) r1
    generalize (if whole then _ else _ : Mod) = m2 at r2 ⊢
    split
    · exact r2
    · exact Mod.recounts_trans (Mod.gPlace_clean (Mod.recounts_hbmClean r2 c) b l) r2

/-- An address below 256 GiB is BW's own. -/
theorem Mod.homeBarn_clean {m : Mod} (c : m.hbmClean) {a : Nat} (h : a < 2 ^ 38) : m.homeBarn 4 a = 0 := by
  unfold Mod.homeBarn
  rw [c.2.2.2.2.2.1 (a / 2 ^ 30 % 512) (by omega)]
  simp only [Bool.false_eq_true, ↓reduceIte]
  omega

/-- A read of clean HBM at BW. -/
theorem Mod.barnRead_clean {m : Mod} (c : m.hbmClean) (q : Nat) {mpa len : Nat} (h : mpa < 2 ^ 38) :
    ∃ t : Mod, m.barnRead q 0 mpa len true = (.data (m.rd mpa len), t) ∧ t.recounts m := by
  have r := Mod.gTouch_clean c q 0 (mpa % 2 ^ 38) mpa false
  have c1 := Mod.recounts_hbmClean r c
  refine ⟨_, ?_, r⟩
  unfold Mod.barnRead
  rw [if_neg (by simp)]
  dsimp only
  rw [c.2.2.1, if_neg (by simp), Mod.gPoison_clean c1, if_neg (by simp)]
  obtain ⟨⟨_, _, _, e⟩, -, -⟩ := r
  simp only [Mod.rd, hbmKey, Nat.mod_eq_of_lt h, Nat.zero_mul, Nat.zero_add] at e ⊢
  rw [e]

/-- A far read that BW's firmware or the Keeper makes of clean HBM behind BW. -/
theorem fetchFar_clean {m : Mod} (c : m.hbmClean) (a : AlwaysOn) {mpa len : Nat} (h : mpa < 2 ^ 38) :
    ∃ t : Mod, fetchFar a m 0xF04 mpa len = (.data (m.rd mpa len), t) ∧ t.recounts m := by
  have hd : decodeMpa mpa = .hbm mpa := by unfold decodeMpa; rw [if_pos (by omega)]
  have hh : m.homeBarn 4 mpa = 0 := Mod.homeBarn_clean c h
  have hr : m.routeCut 4 (m.homeDie 4 mpa) mpa = false := by
    have e : m.homeDie 4 mpa = 4 := by unfold Mod.homeDie; rw [hd]; show 4 + m.homeBarn (tableOf 4) mpa = 4; rw [show tableOf 4 = 4 from rfl, hh]
    rw [e]; unfold Mod.routeCut; rw [c.2.2.2.2.1]; rfl
  obtain ⟨t, e, r⟩ := Mod.barnRead_clean c 0xF04 (len := len) h
  refine ⟨t, ?_, r⟩
  unfold fetchFar
  rw [hd, hr, if_neg (by simp), if_neg (by simp)]
  show m.barnRead 0xF04 (m.homeBarn 4 mpa) mpa len (m.homeBarn (4 + m.homeBarn 4 mpa) mpa == m.homeBarn 4 mpa) = _
  rw [hh, show 4 + 0 = 4 from rfl, hh, ← e]
  rfl

/-- The bytes that a read of `n` bytes, granule by granule, returns. -/
def farBytes (m : Mod) : Nat → Nat → Nat → List Nat
  | 0, _, _ => []
  | fuel + 1, mpa, n =>
    if n = 0 then [] else leBytes (Nat.min n (64 - mpa % 64)) (m.rd mpa (Nat.min n (64 - mpa % 64))) ++
      farBytes m fuel (mpa + Nat.min n (64 - mpa % 64)) (n - Nat.min n (64 - mpa % 64))

theorem farBytes_recounts {t m : Mod} (h : t.recounts m) : ∀ fuel mpa n, farBytes t fuel mpa n = farBytes m fuel mpa n := by
  obtain ⟨⟨r, f, g, rfl⟩, -, -⟩ := h
  intro fuel
  induction fuel with
  | zero => intro _ _; rfl
  | succ k ih => intro mpa n; simp only [farBytes, ih, Mod.rd]

/-- A read of clean HBM behind BW returns its bytes and leaves everything but the Granary and its counters. -/
theorem readFar_clean (a : AlwaysOn) : ∀ fuel mpa n (m : Mod), m.hbmClean → mpa + n ≤ 2 ^ 38 →
    ∃ t : Mod, readFar a fuel mpa n m = (some (farBytes m fuel mpa n), t) ∧ t.recounts m := by
  intro fuel
  induction fuel with
  | zero => intro mpa n m _ _; exact ⟨m, rfl, m.recounts_self⟩
  | succ k ih =>
    intro mpa n m c h
    unfold readFar farBytes
    by_cases hn : n = 0
    · rw [if_pos hn, if_pos hn]; exact ⟨m, rfl, m.recounts_self⟩
    · rw [if_neg hn, if_neg hn]
      dsimp only
      have hk : Nat.min n (64 - mpa % 64) ≤ n := Nat.min_le_left _ _
      obtain ⟨u, eu, hu⟩ := fetchFar_clean c a (mpa := mpa) (len := Nat.min n (64 - mpa % 64)) (by omega)
      rw [eu]
      obtain ⟨t, e, ht⟩ := ih (mpa + Nat.min n (64 - mpa % 64)) (n - Nat.min n (64 - mpa % 64)) u (Mod.recounts_hbmClean hu c) (by omega)
      refine ⟨t, ?_, Mod.recounts_trans ht hu⟩
      dsimp only
      rw [e, farBytes_recounts hu]

/-- The same for a number of `n` bytes. -/
theorem readNum_clean (a : AlwaysOn) (mpa n : Nat) (m : Mod) (c : m.hbmClean) (h : mpa + n ≤ 2 ^ 38) :
    ∃ t : Mod, readNum a mpa n m = (some (leNat (farBytes m (n / 64 + 2) mpa n)), t) ∧ t.recounts m := by
  obtain ⟨t, e, ht⟩ := readFar_clean a (n / 64 + 2) mpa n m c h
  exact ⟨t, by unfold readNum; rw [e], ht⟩

/-- Every byte that an image's components need lies below 256 GiB. -/
def compsLow (base : Nat) (cs : List Comp) : Prop := ∀ c ∈ cs, base + c.off + c.len ≤ 2 ^ 38

/-- The bytes of an image's components, from clean HBM. -/
theorem readComps_clean (a : AlwaysOn) (base : Nat) : ∀ (cs : List Comp) (m : Mod), m.hbmClean → compsLow base cs →
    ∃ t : Mod, readComps a base cs m = (some (cs.map (fun c => farBytes m (c.len / 64 + 2) (base + c.off) c.len)), t) ∧ t.recounts m := by
  intro cs
  induction cs with
  | nil => intro m _ _; exact ⟨m, rfl, m.recounts_self⟩
  | cons c l ih =>
    intro m h hl
    obtain ⟨t, e, ht⟩ := readFar_clean a (c.len / 64 + 2) (base + c.off) c.len m h (hl c (by simp))
    obtain ⟨u, e', hu⟩ := ih t (Mod.recounts_hbmClean ht h) (fun x hx => hl x (List.mem_cons_of_mem _ hx))
    refine ⟨u, ?_, Mod.recounts_trans hu ht⟩
    unfold readComps
    rw [e]
    dsimp only
    rw [e']
    simp only [farBytes_recounts ht, List.map_cons]

/-- The check of an image staged in clean HBM, from its bytes. -/
theorem checkStaged_clean (s : State) (mpa len : Nat) (h : s.mod.hbmClean) (hm : mpa + 4096 ≤ 2 ^ 38)
    (hc : compsLow mpa (compsOf (farBytes s.mod 66 mpa 4096))) :
    (checkStaged s mpa len).1 =
      (let b := farBytes s.mod 66 mpa 4096
       if s.aon.manifestReason b ≠ 0 then s.aon.manifestReason b
       else if leField b 0x10 8 ≠ len then 0x04
       else compsReason (compsOf b) ((compsOf b).map (fun c => farBytes s.mod (c.len / 64 + 2) (mpa + c.off) c.len))) := by
  obtain ⟨t, e, ht⟩ := readFar_clean s.aon 66 mpa 4096 s.mod h hm
  obtain ⟨u, e', -⟩ := readComps_clean s.aon mpa _ t (Mod.recounts_hbmClean ht h) hc
  have hr : readHbm s mpa 4096 = (some (farBytes s.mod 66 mpa 4096), t) := e
  unfold checkStaged
  rw [hr]
  dsimp only
  split
  · rfl
  · split
    · rfl
    · rw [e']
      simp only [farBytes_recounts ht]

/-! ### Bytes placed in memory -/

/-- The entries of a memory that holds a list of bytes from an address, in canonical form. -/
def cells : Nat → List Nat → SMap Byte
  | _, [] => []
  | a, b :: t => if b % 256 = 0 then cells (a + 1) t else (a, BitVec.ofNat 8 b) :: cells (a + 1) t

theorem cells_low : ∀ (l : List Nat) (a x : Nat), x < a → SMap.get 0 (cells a l) x = 0 := by
  intro l
  induction l with
  | nil => intro _ _ _; rfl
  | cons b t ih =>
    intro a x h
    unfold cells
    split
    · exact ih _ _ (by omega)
    · unfold SMap.get; rw [if_neg (by omega)]; exact ih _ _ (by omega)

theorem cells_get : ∀ (l : List Nat) (a i : Nat), (SMap.get 0 (cells a l) (a + i)).toNat = l.getD i 0 % 256 := by
  intro l
  induction l with
  | nil => intro _ _; rfl
  | cons b t ih =>
    intro a i
    unfold cells
    cases i with
    | zero =>
      split
      · rename_i h; rw [cells_low t (a + 1) (a + 0) (by omega)]; simpa using h.symm
      · unfold SMap.get; rw [if_pos (by omega)]; simp
    | succ j =>
      have h := ih (a + 1) j
      rw [show a + 1 + j = a + (j + 1) by omega] at h
      split
      · simpa using h
      · unfold SMap.get; rw [if_neg (by omega)]; simpa using h

/-- A read of bytes so placed. -/
theorem cells_rd (l : List Nat) (a : Nat) : ∀ n o, o + n ≤ l.length →
    leBytes n (rdBytes (cells a l) (a + o) n) = ((l.drop o).take n).map (fun b => b % 256) := by
  intro n
  induction n with
  | zero => intro o _; simp [leBytes]
  | succ k ih =>
    intro o h
    have e := cells_get l a o
    have hd : l.drop o = l.getD o 0 :: l.drop (o + 1) := by
      rw [List.drop_eq_getElem_cons (by omega)]
      simp [List.getD, List.getElem?_eq_getElem (show o < l.length by omega)]
    rw [hd, List.take_succ_cons, List.map_cons, ← ih (o + 1) (by omega)]
    simp only [rdBytes, leBytes, e]
    rw [show a + o + 1 = a + (o + 1) by omega]
    have hlt : l.getD o 0 % 256 < 256 := Nat.mod_lt _ (by decide)
    rw [Nat.add_mul_div_left _ _ (by decide), Nat.div_eq_of_lt hlt, Nat.zero_add, Nat.add_mul_mod_self_left, Nat.mod_mod]

theorem farBytes_cells (m : Mod) (l : List Nat) (a : Nat) (hm : m.mem = cells a l) : ∀ fuel n o, o + n ≤ l.length → (n = 0 ∨ n + (a + o) % 64 ≤ 64 * fuel) →
    farBytes m fuel (a + o) n = ((l.drop o).take n).map (fun b => b % 256) := by
  intro fuel
  induction fuel with
  | zero => intro n o h hf; have : n = 0 := by omega
            subst this; simp [farBytes]
  | succ k ih =>
    intro n o h hf
    unfold farBytes
    split
    · rename_i h0; subst h0; simp
    · rename_i h0
      generalize hj : Nat.min n (64 - (a + o) % 64) = j
      have j1 : j ≤ n := by rw [← hj]; exact Nat.min_le_left _ _
      have j2 : j = n ∨ j = 64 - (a + o) % 64 := by rw [← hj]; exact (Nat.le_total n (64 - (a + o) % 64)).elim (fun h => Or.inl (Nat.min_eq_left h)) (fun h => Or.inr (Nat.min_eq_right h))
      unfold Mod.rd
      rw [hm, cells_rd l a j o (by omega), show a + o + j = a + (o + j) by omega, ih (n - j) (o + j) (by omega) (by omega),
        ← List.map_append, ← List.drop_drop]
      congr 1
      conv_rhs => rw [show n = j + (n - j) by omega, List.take_add]

end Sys2Proof.Machine
end

