-- ==== Sys2Proof/Laws/Issue.lean ====
section
/-! SUPPORT. What issuing an instruction can do: one lemma for an instruction that executes its own effect, and one for an encoding
that is illegal. The statements about instructions follow from these and the instruction's meaning. -/

namespace Sys2Proof.Machine

/-- The module after the answer `r` of an instruction of `len` parcels that issued on `c`. -/
def Mod.answers (m : Mod) (c len : Nat) (r : Res) : Mod :=
  let seq := (m.at c).pc + BitVec.ofNat 16 len
  match r with
  | .ok m1 => m1.ends c seq seq
  | .jump m1 a => m1.ends c seq a
  | .branch m1 t l =>
    m1.retires c (fun k1 =>
      match l with
      | none => k1.retireBranch seq t none 0 []
      | some r => (k1.setG r ((m.due c).linkAddr c seq)).retireBranch seq t (some r) (k1.gr r) (k1.liveLoads r))
  | .stay m1 => m1
  | .trap m1 cause sub addr => m1.onCore c (fun k1 => k1.raise cause sub addr false)

/-- The segments of an instruction are executable exactly when no parcel of it raises NX. -/
theorem Mod.nxParcel_none {m : Mod} {c len : Nat} {pc : PAddr}
    (h : (List.range len).all (fun i => bits (m.seg c) ((pc.toNat + i) % 65536 / 4096) 1 == 1) = true) : m.nxParcel c len pc = none := by
  simp only [Mod.nxParcel, List.find?_eq_none, List.mem_map, List.mem_range, forall_exists_index, and_imp, List.all_eq_true, beq_iff_eq] at *
  rintro a i hi rfl
  simp [h i hi]

/-- An instruction that is ready and legal issues: it answers what its body answers. -/
theorem issue_ready {m : Mod} {c len : Nat} {ctl last : Bool} {rs : List Nat} (h : m.ready c len ctl last rs = true) (body : Mod → Core → Res) :
    issue c len [] ctl last rs body m = m.answers c len (body (m.due c) (m.at c)) := by
  simp only [Mod.ready, Bool.and_eq_true, Bool.not_eq_true'] at h
  obtain ⟨⟨⟨⟨⟨⟨⟨⟨-, hi⟩, hh⟩, hd⟩, hq⟩, hs⟩, hc⟩, hl⟩, hz⟩ := h
  have hn := Mod.nxParcel_none (m := m.due c) (c := c) (len := len) (pc := (m.at c).pc) hs
  simp only [Mod.at] at *
  simp only [Mod.due] at *
  simp only [issue, issueIf, hi, hh, hd, hq, hn, hc, hl, hz, lowest, Bool.and_self, Bool.not_true, Bool.or_self, Bool.false_eq_true, ↓reduceIte,
    List.append_nil]
  cases body (m.onCore c Core.commitDue) ((m.onCore c Core.commitDue).core c) with
  | branch _ _ l => cases l <;> simp only [Mod.answers, Mod.at, Mod.due]
  | _ => simp only [Mod.answers, Mod.at, Mod.due, Mod.ends]

/-- An instruction that is ready but whose encoding meets the ILLEGAL SUBs `x :: xs` raises the lowest of them. -/
theorem issue_illegal {m : Mod} {c len : Nat} {ctl last : Bool} {rs : List Nat} (h : m.ready c len ctl last rs = true) (x : Nat) (xs : List Nat) (n : Nat)
    (hx : lowest (x :: xs) = some n) (body : Mod → Core → Res) :
    issue c len (x :: xs) ctl last rs body m = (m.due c).setCore c ((m.at c).raise 2 n 0 false) := by
  simp only [Mod.ready, Bool.and_eq_true, Bool.not_eq_true'] at h
  obtain ⟨⟨⟨⟨⟨⟨⟨⟨-, hi⟩, hh⟩, hd⟩, hq⟩, hs⟩, hc⟩, hl⟩, -⟩ := h
  have hn := Mod.nxParcel_none (m := m.due c) (c := c) (len := len) (pc := (m.at c).pc) hs
  simp only [Mod.at] at *
  simp only [Mod.due] at *
  simp only [issue, issueIf, hi, hh, hd, hq, hn, hc, hl, hx, Bool.and_self, Bool.not_true, Bool.or_self, Bool.false_eq_true, ↓reduceIte, List.append_nil]

/-- A ready instruction's core or steward exists. -/
theorem Mod.ready_cpu {m : Mod} {c len : Nat} {ctl last : Bool} {rs : List Nat} (h : m.ready c len ctl last rs = true) : isCpu c = true := by
  simp only [Mod.ready, Bool.and_eq_true] at h
  exact h.1.1.1.1.1.1.1.1

/-- A command of a core or steward that issues ready and legal. -/
theorem onCpu_ready {s : State} {c len : Nat} {ctl last : Bool} {rs : List Nat} (h : s.mod.ready c len ctl last rs = true) (body : Mod → Core → Res) :
    onCpu c s (issue c len [] ctl last rs body) = .next { s with mod := s.mod.answers c len (body (s.mod.due c) (s.mod.at c)) } := by
  simp only [onCpu, Mod.ready_cpu h, ↓reduceIte, issue_ready h]

/-- The same for a body that changes only its own core. -/
theorem onCpu_sets {s : State} {c len : Nat} {ctl last : Bool} {rs : List Nat} (h : s.mod.ready c len ctl last rs = true) (f : Core → Core) :
    onCpu c s (issue c len [] ctl last rs (fun m k => .ok (m.setCore c (f k)))) = .next (s.sets c len f) := by
  rw [onCpu_ready h]; rfl

/-- A command that issues ready but illegal. -/
theorem onCpu_illegal {s : State} {c len : Nat} {ctl last : Bool} {rs : List Nat} (h : s.mod.ready c len ctl last rs = true) (x : Nat) (xs : List Nat) (n : Nat)
    (hx : lowest (x :: xs) = some n) (body : Mod → Core → Res) :
    onCpu c s (issue c len (x :: xs) ctl last rs body) = .next (s.traps c 2 n 0) := by
  simp only [onCpu, Mod.ready_cpu h, ↓reduceIte, issue_illegal h x xs n hx, State.traps]

end Sys2Proof.Machine
end

