-- ==== Sys2Proof/Laws/Memory.lean ====
section
/-! SUPPORT. Memory: every operation keeps the canonical form, a read after a write to the same bytes gives what was written, and a
write leaves every other byte. -/

namespace Sys2Proof.Machine

theorem reset_memory_wf : Memory.wf State.reset.mod.mem = true := by decide

theorem Mod.wr_wf {m : Mod} (k n v : Nat) (h : Memory.wf m.mem = true) : Memory.wf (m.wr k n v).mem = true := wf_wrBytes n m.mem k v h

theorem Mod.wrMask_wf {m : Mod} (k n mask v : Nat) (h : Memory.wf m.mem = true) : Memory.wf (m.wrMask k n mask v).mem = true :=
  wf_wrMasked (maskBits n mask) m.mem k v h

theorem Mod.sweepMem_wf {m : Mod} (lo hi : Nat) (h : Memory.wf m.mem = true) : Memory.wf (m.sweepMem lo hi).mem = true :=
  SMap.wf_dropRange 0 m.mem lo hi h

/-- Correcting single-bit errors leaves the bytes, which hold the corrected data. -/
theorem Mod.scrub_mem (m : Mod) (key n : Nat) : (m.scrub key n).mem = m.mem := by
  unfold Mod.scrub
  dsimp only
  split <;> rfl

theorem Mod.loftWord_wf {m : Mod} (key mask data : Nat) (h : Memory.wf m.mem = true) : Memory.wf (m.loftWord key mask data).1.mem = true := by
  unfold Mod.loftWord
  split
  · exact h
  · split
    · exact Mod.wr_wf _ _ _ h
    · split
      · exact h
      · exact Mod.wrMask_wf _ _ _ _ (by rw [Mod.scrub_mem]; exact h)

/-- A masked write of several words keeps the form. -/
theorem Mod.loftWrite_wf {m : Mod} (key n mask data : Nat) (h : Memory.wf m.mem = true) : Memory.wf (m.loftWrite key n mask data).1.mem = true := by
  unfold Mod.loftWrite
  suffices hs : ∀ (l : List Nat) (r : Mod × List Nat), Memory.wf r.1.mem = true → Memory.wf (l.foldl (fun r i =>
      let x := r.1.loftWord (key / 8 * 8 + 8 * i) (bits (mask % 2 ^ n * 2 ^ (key % 8)) (8 * i) 8) (bits (data * 2 ^ (8 * (key % 8))) (64 * i) 64)
      (x.1, match x.2 with | some b => r.2 ++ [b] | none => r.2)) r).1.mem = true from hs _ (m, []) h
  intro l
  induction l with
  | nil => exact fun r hr => hr
  | cons i t ih => exact fun r hr => ih _ (Mod.loftWord_wf _ _ _ hr)

/-- The bytes of a write read back. -/
theorem get_wrBytes (n : Nat) : ∀ (m : SMap Byte) (a v i : Nat), i < n → SMap.get 0 (wrBytes m a n v) (a + i) = BitVec.ofNat 8 (v / 256 ^ i) := by
  induction n with
  | zero => intro m a v i h; omega
  | succ n ih =>
    intro m a v i h
    cases i with
    | zero =>
      unfold wrBytes
      rw [get_wrBytes_ne n _ _ _ _ (by omega), Nat.add_zero, SMap.get_put_same]
      simp
    | succ j =>
      unfold wrBytes
      have := ih (SMap.put 0 m a (BitVec.ofNat 8 v)) (a + 1) (v / 256) j (by omega)
      rw [show a + (j + 1) = a + 1 + j by omega, this, Nat.div_div_eq_div_mul, show 256 ^ (j + 1) = 256 * 256 ^ j by rw [Nat.pow_succ, Nat.mul_comm]]

/-- The number read from bytes just written. -/
theorem rdBytes_wrBytes (n : Nat) : ∀ (m : SMap Byte) (a v : Nat), rdBytes (wrBytes m a n v) a n = v % 256 ^ n := by
  have hr : ∀ (n : Nat) (m : SMap Byte) (a v : Nat), (∀ i, i < n → SMap.get 0 m (a + i) = BitVec.ofNat 8 (v / 256 ^ i)) → rdBytes m a n = v % 256 ^ n := by
    intro n
    induction n with
    | zero => intro m a v _; simp [rdBytes, Nat.mod_one]
    | succ n ih =>
      intro m a v h
      have h0 := h 0 (by omega)
      have ht := ih m (a + 1) (v / 256) (fun i hi => by
        have := h (i + 1) (by omega)
        rwa [show a + 1 + i = a + (i + 1) by omega, Nat.div_div_eq_div_mul, show 256 * 256 ^ i = 256 ^ (i + 1) by rw [Nat.pow_succ, Nat.mul_comm]])
      simp only [Nat.add_zero, Nat.pow_zero, Nat.div_one] at h0
      have hp : 256 ^ (n + 1) = 256 * 256 ^ n := by rw [Nat.pow_succ, Nat.mul_comm]
      rw [rdBytes, h0, ht, BitVec.toNat_ofNat, hp, Nat.mod_mul]
  exact fun m a v => hr n _ a v (fun i hi => get_wrBytes n m a v i hi)

theorem Mod.rd_wr (m : Mod) (k n v : Nat) : (m.wr k n v).rd k n = v % 256 ^ n := rdBytes_wrBytes n m.mem k v

end Sys2Proof.Machine
end

