-- ==== Sys2Proof/Tests/Slice0.lean ====
section
/-! SUPPORT. Tests: ill-formed commands that the check refuses, and for each statement a concrete state and operands that meet its
hypotheses, with what the command then does. Expected values are worked out from the spec by hand. -/

namespace Sys2Proof.Tests

open Sys2Proof Sys2Proof.Machine

set_option Elab.async false

/-- A module that is up. -/
def up : State := { State.reset with aon := { State.reset.aon with poDue := false } }

/-- The module with another content. -/
def withMod (f : Mod → Mod) : State := { up with mod := f up.mod }

/-- Core `c` runs as `k`, every segment executable. -/
def core (c : Nat) (k : Core) : State :=
  withMod (fun m => (m.setReg (c / 256) (corePage c 0) 0x110 0xFFFF).setCore c { k with running := true })

/-- The steward of die `d` runs as `k`. -/
def stw (d : Nat) (k : Core) : State := withMod (fun m => m.setCore (0x3F0 + d) { k with running := true, seg := 0xFFFF })

/-- A core at level 1 with g1 = x and g2 = y. -/
def gs (x y : Word) : Core := (({} : Core).setG 1 x).setG 2 y

/-- A command's next state has a property. -/
def ok (a : Ans) (p : State → Bool) : Bool := match a with | .next t => p t | _ => false

/-- A system-class field. -/
def sys (a b c : Nat) (imm : Nat) : SysF := { a := BitVec.ofNat 4 a, b := BitVec.ofNat 4 b, c := BitVec.ofNat 4 c, imm := BitVec.ofNat _ imm }

/-- A write by the host of the register at `off`. -/
def acc (die page off : Nat) (v : Word) : RegAcc := { id := none, q := hostCode, mpa := regMpa die page off, size := 8, v := v, test := 0, dead := 0 }

/-- The module with a page enabled. -/
def page (die p : Nat) (s : State) : State := { s with mod := s.mod.setReg die p 0x010 1 }

/-! ### Ill-formed commands -/

theorem test_wf_core : (Instr.add 0x0F0 1 2).wf = false ∧ (Instr.add 0x00B 1 2).wf = true := by decide
theorem test_wf_requester : (Instr.lock { acc 0 0 0x010 0 with q := 0x0CC }).wf = false := by decide
theorem test_wf_perf : (Instr.perfCounterWrap 0 0 0).wf = false ∧ (Instr.perfCounterWrap 0 7 0).wf = true := by decide
theorem test_wf_die : (Instr.digestWalkDone 6).wf = false ∧ (Instr.digestWalkDone 5).wf = true := by decide

/-- A command answers exactly a state. -/
def gives (a : Ans) (t : State) : Bool := match a with | .next u => decide (u = t) | _ => false

/-! ### Scalar instructions -/

theorem test_idle_step : ok (step up) (fun t => t.aon.now == 15 && decide (t.mod = up.mod)) = true := by decide
theorem test_idle_off : ok (step { up with aon := { up.aon with powered := false } }) (fun t => decide (t = { up with aon := { up.aon with powered := false } })) = true := by
  decide

/-- g1 = 2^64 - 1, g2 = 2: ADD wraps to 1. -/
theorem test_add : (core 5 (gs (-1) 2)).mod.ready 5 1 false false [1, 2] = true ∧
    ok (exec (.add 5 1 2) (core 5 (gs (-1) 2))) (fun t => (t.mod.core 5).gr 1 == 1 && (t.mod.core 5).pc == 1) = true := by decide
theorem test_sar : ok (exec (.sar 5 1 2) (core 5 (gs (BitVec.ofInt 64 (-8)) 65))) (fun t => (t.mod.core 5).gr 1 == BitVec.ofInt 64 (-4)) = true := by decide
theorem test_movk : ok (exec (.movk 5 1 0x1234) (core 5 (gs 0xABCD 0))) (fun t => (t.mod.core 5).gr 1 == 0xABCD1234) = true := by decide
theorem test_mtp_step : ok (exec (.mtp 5 9 2) (core 5 (gs 0 7))) (fun t => (t.mod.core 5).sr 1 == 7) = true := by decide

theorem test_ill : (core 5 (gs 0 0)).mod.ready 5 1 false false [] = true ∧
    ok (exec (.ill 5 0 0) (core 5 (gs 0 0))) (fun t => (t.mod.core 5).trap.any (fun x => x.cause == 2 && x.sub == 0)) = true := by decide
theorem test_alu3_reserved : ok (exec (.alu3 5 1 2 3 17) (core 5 (gs 0 0))) (fun t => (t.mod.core 5).trap.any (fun x => x.cause == 2 && x.sub == 0)) = true := by
  decide
theorem test_shift_immediate : ok (exec (.shli 5 1 2 64) (core 5 (gs 0 0))) (fun t => (t.mod.core 5).trap.any (fun x => x.cause == 2 && x.sub == 1)) = true := by
  decide

/-- -3 × 2^63 unsigned operands: the product is followed by its write. -/
theorem test_mulu : ok (exec (.mulu 5 1 2) (core 5 (gs 3 0x8000000000000000))) (fun t => ok (exec (.muldivResult 5) t) (fun u =>
    (u.mod.core 5).pl == 0x8000000000000000 && (u.mod.core 5).ph == 1)) = true := by decide
theorem test_div_zero : (core 5 (gs 7 0)).mod.ready 5 1 false false [1, 2] = true ∧ ((core 5 (gs 7 0)).mod.at 5).md = [] ∧
    ok (exec (.div 5 1 2) (core 5 (gs 7 0))) (fun t => ok (exec (.muldivResult 5) t) (fun u =>
      (u.mod.core 5).pl == 0xFFFFFFFFFFFFFFFF && (u.mod.core 5).ph == 7)) = true := by decide
theorem test_div_least : ok (exec (.div 5 1 2) (core 5 (gs 0x8000000000000000 0xFFFFFFFFFFFFFFFF))) (fun t => ok (exec (.muldivResult 5) t) (fun u =>
      (u.mod.core 5).pl == 0x8000000000000000 && (u.mod.core 5).ph == 0)) = true := by decide
theorem test_mtpl : ((core 5 (gs 9 0)).mod.at 5).md = [] ∧ ok (exec (.mtpl 5 0 1) (core 5 (gs 9 0))) (fun t => (t.mod.core 5).pl == 9) = true := by decide

theorem test_beq : (core 5 (gs 4 4)).mod.ready 5 2 true true [1, 2] = true ∧
    ok (exec (.beq 5 1 2 (BitVec.ofInt _ (-2))) (core 5 { gs 4 4 with pc := 0x10 })) (fun t =>
      (t.mod.core 5).pc == 0x12 && (t.mod.core 5).branch.any (fun b => b.target == some 0x0E)) = true := by decide
theorem test_loop : (core 5 (gs 4 0)).mod.ready 5 2 true false [1] = true ∧
    ok (exec (.loop 5 1 0 1 3) (core 5 (gs 4 0))) (fun t => SMap.get 0 (t.mod.core 5).lps 1 == 2 && SMap.get 0 (t.mod.core 5).lpe 1 == 3 &&
      SMap.get 0 (t.mod.core 5).lpc 1 == 4) = true := by decide
theorem test_loop_short : ok (exec (.loop 5 1 0 1 2) (core 5 (gs 4 0))) (fun t =>
    (t.mod.core 5).trap.any (fun x => x.cause == 2 && x.sub == 4) && decide ((t.mod.core 5).lpc = [])) = true := by decide
theorem test_loopi_zero : ok (exec (.loopi 5 2 0 9) (core 5 (gs 4 0))) (fun t => (t.mod.core 5).pc == 9 && SMap.get 0 (t.mod.core 5).lpc 2 == 0) = true := by
  decide
/-- Two levels end at parcel 4: the higher counts first. -/
theorem test_retire_loop : let k : Core := { lps := [(0, 1), (3, 2)], lpe := [(0, 4), (3, 4)], lpc := [(0, 5), (3, 2)] }
    (k.retire 4 4).pc = 2 ∧ (k.retire 4 4).lpc = [(0, 5), (3, 1)] := by decide

/-- A halfword load, sign extended, of 0x80FF at Loft 0x102. -/
def loads : State := { core 5 (gs 0x100 0) with mod := ((core 5 (gs 0x100 0)).mod.wr (loftKey 5 + 0x102) 2 0x80FF) }

theorem test_load : loads.mod.ready 5 2 false false [1] = true ∧ (loads.mod.at 5).localOk 5 0x102 2 false = true ∧ loads.mod.wordsOk (loftKey 5 + 0x102) 2 = true ∧
    ok (exec (.ldFormM 5 3 1 1 1) loads) (fun t => (t.mod.core 5).loads.any (fun l => l.dest == 3 && l.val == some 0xFFFFFFFFFFFF80FF)) = true := by decide
theorem test_load_far : let s := stw 0 (gs 0x100000000100 0)
    s.mod.ready 0x3F0 2 false false [1] = true ∧ (s.mod.at 0x3F0).rtBlocks 0x3F0 true 0x100 8 false = false ∧ (s.mod.at 0x3F0).wcbHolds 0x100 8 = false ∧
    ok (exec (.ldFormM 0x3F0 3 1 3 0) s) (fun t => t.mod.net.any (fun r => r.mpa == 0x100 && r.len == 8 && r.op == .read)) = true := by decide
theorem test_store : let s := core 5 (gs 0x100 0x1122334455667788)
    (s.mod.at 5).localOk 5 0x104 4 true = true ∧ s.mod.wordsOk (loftKey 5 + 0x104) 4 = true ∧
    ok (exec (.stFormM 5 2 1 2 1) s) (fun t => t.mod.rd (loftKey 5 + 0x100) 8 == 0x5566778800000000) = true := by decide
theorem test_misaligned : ok (exec (.ldFormM 5 3 1 3 0) (core 5 (gs 0x104 0))) (fun t => (t.mod.core 5).trap.any (fun x => x.cause == 4 && x.addr == 0x104)) = true := by
  decide
theorem test_kernel_loft : let k := gs 0x2FFC 0
    ok (exec (.ldFormM 5 3 1 3 0) (core 5 { k with kloft := 0x3000, bank0 := { cs := { le := true, level := false, exl := false, ie := false } } }))
      (fun t => (t.mod.core 5).trap.any (fun x => x.cause == 3 && x.sub == 1 && x.addr == 0x3000)) = true := by decide

/-- A core with one load in flight, and its data back. -/
def loadBack (x : Resp) : State :=
  let s := core 5 { gs 0 0 with loads := [{ id := 7, dest := 4, size := 1, sx := true, age := 3, ea := 0x500000, val := none }] }
  { s with mod := { s.mod with net := [{ id := 9, use := .load 5 7, q := 5, die := 0, mpa := 0x100, len := 2, op := .read, sent := true, resp := some x }] } }

theorem test_load_return : ok (exec (.loadDataReturn 5 9) (loadBack (.data 0x8001))) (fun t =>
    (t.mod.core 5).gr 4 == 0xFFFFFFFFFFFF8001 && decide ((t.mod.core 5).loads = []) && decide (t.mod.net = [])) = true := by decide
theorem test_load_poison : ok (exec (.loadDataReturn 5 9) (loadBack .poison)) (fun t => (t.mod.core 5).reports.any (fun x => x.cause == 8 && x.sub == 0)) = true := by
  decide
theorem test_store_error : let s := withMod (fun m => { m with net := [{ id := 9, use := .store 5 [{ sub := 1, ea := 0x500000 }], q := 5, die := 0, mpa := 0x100, len := 8, op := .write 255 0, sent := true, resp := some .err }] })
    ok (exec (.writeAcknowledge 5 9) s) (fun t => decide ((t.mod.core 5).reports = [{ cause := 7, sub := 1, addr := 0x500000 }])) = true := by decide

/-! ### Special registers, exceptions and gates -/

def task (k : Core) : Core := { k with bank0 := { cs := { le := true, level := false, exl := false, ie := true } } }

theorem test_mfs_cs : ok (exec (.mfs 5 (sys 3 0 0 0)) (core 5 (gs 0 0))) (fun t => (t.mod.core 5).gr 3 == 0xC) = true := by decide
theorem test_mfs_privilege : srValue (task {}) 0x41 = none ∨ ok (exec (.mfs 5 (sys 3 0 0 0x41)) (core 5 (task {}))) (fun t =>
    (t.mod.core 5).trap.any (fun x => x.cause == 3 && x.sub == 0)) = true := by decide
theorem test_mts_unassigned : ok (exec (.mts 5 (sys 1 0 0 0x140)) (core 5 {})) (fun t => (t.mod.core 5).trap.any (fun x => x.cause == 2 && x.sub == 0)) = true := by
  decide
theorem test_mts_cs : (core 5 (gs 3 0)).mod.ready 5 3 false false [1] = true ∧
    ok (exec (.mtsCs 5 (sys 1 0 0 0)) (core 5 (gs 0xB 0))) (fun t => decide ((t.mod.core 5).csq.length = 1)) = true := by decide
theorem test_cs_commit : let x : Cs := { le := false, level := true, exl := false, ie := true }
    ok (exec (.csWriteCommit 5) (core 5 { csq := [(x, 0)] })) (fun t => decide ((t.mod.core 5).cs = x)) = true := by decide
theorem test_mts_cs_task : ok (exec (.mtsCs 5 (sys 1 0 0 0)) (core 5 (task {}))) (fun t => (t.mod.core 5).trap.any (fun x => x.cause == 3 && x.sub == 0)) = true := by
  decide
theorem test_pmseg_steward : ok (exec (.mtsPmseg 0x3F1 (sys 1 0 0 0x40)) (stw 1 (gs 0x10001 0))) (fun t => (t.mod.core 0x3F1).seg == 0x10001) = true := by decide
theorem test_pmseg_core : ok (exec (.mtsPmseg 5 (sys 1 0 0 0x40)) (core 5 (gs 0x10001 0))) (fun t => t.mod.reg 0 (corePage 5 0) 0x110 == 0x10001) = true := by decide

/-- One parcel from Loft 0x10 to parcel 0x2000, in a segment neither executable nor locked. -/
def pmldCore : State :=
  withMod (fun m => ((m.setReg 0 (corePage 5 0) 0x110 1).wr (loftKey 5 + 0x10) 2 0xFFFF).setCore 5 ({ (gs 0x10 0x2000).setG 3 1 with running := true }))
theorem test_pmld : pmldCore.mod.ready 5 3 true false [1, 2, 3] = true ∧ pmldCore.mod.bad = [] ∧
    ok (exec (.pmld 5 (sys 1 2 3 0)) pmldCore) (fun t => t.mod.parcel 5 0x2000 == 0x3FFF) = true := by decide
theorem test_notice : let s := stw 4 { notices := [5], noticeLost := true }
    s.mod.ready 0x3F4 3 false false [] = true ∧
    ok (exec (.noticeRead 0x3F4 (sys 3 0 0 0x72)) s) (fun t => (t.mod.core 0x3F4).gr 3 == 0x4000000000000005 && decide ((t.mod.core 0x3F4).notices = [])) = true := by
  decide
theorem test_notice_none : ok (exec (.noticeRead 0x3F4 (sys 3 0 0 0x72)) (stw 4 {})) (fun t => (t.mod.core 0x3F4).gr 3 == 0) = true := by decide

def fault (b : Nat) (exl : Bool) : State :=
  core 5 { trap := some { cause := 4, sub := 0, addr := 0x104, epc := 0x20, bd := true, rs := false }, vec := 0x800, bank := b
           bank1 := { cs := { le := false, level := true, exl := exl, ie := false } } }
/-- Parcel 0x3E00 at the PC: the reserved class. -/
def unassigned : State := let s := core 5 {}; { s with mod := s.mod.setParcel 5 0 0x3E00 }
theorem test_fetch_fault : unassigned.mod.ready 5 (parcelsOf (unassigned.mod.parcelAt 5 0)) false false [] = true ∧ unassigned.mod.insnAt 5 = none ∧
    ok (exec (.faultEntry 5 (some (1, 0))) unassigned) (fun t => (t.mod.core 5).bank == 1 && bits ((t.mod.core 5).bank1.ecs.toNat) 0 8 == 2) = true := by decide
theorem test_fault_entry : ((fault 0 false).mod.core 5).undoBranch.settled = true ∧ ((fault 0 false).mod.core 5).routine = none ∧
    ok (exec (.faultEntry 5 none) (fault 0 false)) (fun t => let k := t.mod.core 5
      k.pc == 0x800 && k.bank == 1 && k.bank1.epc == 0x20 && k.bank1.ecs == BitVec.ofNat 64 (0x104 * 65536 + 0x8000 + 0x800 + 0x200 + 4)) = true := by decide
theorem test_fault_bank2 : ok (exec (.faultEntry 5 none) (fault 1 true)) (fun t => (t.mod.core 5).pc == 0xF000 && (t.mod.core 5).bank == 2) = true := by decide
theorem test_fault_halt : ok (exec (.faultEntry 5 none) (fault 2 true)) (fun t => (t.mod.core 5).halted && !(t.mod.core 5).running) = true := by decide
/-- CORE page cause 0, enabled, pends at bit 0 of INTP. -/
def pend : State := let s := core 5 { vec := 0x800, bank0 := { cs := { le := true, level := true, exl := false, ie := true } } }
  { s with mod := (s.mod.setReg 0 (corePage 5 0) 0x020 1).setReg 0 (corePage 5 0) 0x028 1 }
theorem test_interrupt : pend.mod.interruptible 5 = true ∧ ok (exec (.interruptEntry 5) pend) (fun t => (t.mod.core 5).pc == 0x800 &&
    bits (t.mod.core 5).bank1.ecs.toNat 0 6 == 0x20) = true := by decide
theorem test_report : let s := core 5 { vec := 0x800, reports := [{ cause := 7, sub := 1, addr := 0x30 }, { cause := 8, sub := 0, addr := 0 }] }
    (s.mod.at 5).settled = true ∧ ok (exec (.reportEntry 5) s) (fun t => (t.mod.core 5).bank == 1 &&
      decide ((t.mod.core 5).reports = [{ cause := 8, sub := 0, addr := 0, deferred := true }])) = true := by decide
/-- ECS names bank 0 at bank 1: the return goes to bank 0. -/
theorem test_eret : let s := core 5 { bank := 1, bank1 := { cs := { le := false, level := true, exl := true, ie := false }, epc := 0x44, ecs := 0xC20 } }
    s.mod.ready 5 3 true true [] = true ∧ (s.mod.at 5).settled = true ∧
    ok (exec (.eret 5 (sys 0 0 0 0)) s) (fun t => (t.mod.core 5).bank == 0 && (t.mod.core 5).pc == 0x44) = true := by decide
theorem test_eret_same : let s := core 5 { bank := 1, bank1 := { cs := { le := false, level := true, exl := true, ie := false }, epc := 0x44, ecs := 0x1C20 } }
    ok (exec (.eret 5 (sys 0 0 0 0)) s) (fun t => (t.mod.core 5).bank == 1 && (t.mod.core 5).pc == 0x44 && !(t.mod.core 5).cs.exl && (t.mod.core 5).cs.ie) = true := by decide
theorem test_eret_bank0 : ok (exec (.eret 5 (sys 0 0 0 0)) (core 5 {})) (fun t => (t.mod.core 5).trap.any (fun x => x.cause == 2 && x.sub == 5)) = true := by decide

/-- Gate 3 of a table at 0x3F0000: valid, entry 0x900, level 1, one plain argument; task stack pointer 0x8000, kernel stack 0x3E0000. -/
def gate : State :=
  let s := core 5 { task (((gs 1 2).setG 3 3).setG 15 0x8000) with kloft := 0x3E0000, gateBase := 0x3F0000, pc := 0x50 }
  { s with mod := (s.mod.wr (loftKey 5 + 0x3F0030) 8 (2 ^ 63 + 2 ^ 30 + 2 ^ 16 + 0x900)).wr (loftKey 5 + 0x3F0038) 8 0x3E8000 }
theorem test_syscall : gate.mod.ready 5 3 true true [1, 2, 3, 4, 5, 6, 15] = true ∧
    ok (exec (.syscall 5 (sys 0 0 0 3)) gate) (fun t => let k := t.mod.core 5
      k.pc == 0x900 && k.cs.level && k.gr 15 == 0x3E7FF0 && k.gr 1 == 1 && k.gr 2 == 0 && t.mod.rd (loftKey 5 + 0x3E7FF0) 8 == 0x8000 &&
        t.mod.rd (loftKey 5 + 0x3E7FF8) 8 == 0x53) = true := by decide
theorem test_gret : ok (exec (.syscall 5 (sys 0 0 0 3)) gate) (fun t => ok (exec (.gret 5 (sys 0 0 0 0)) t) (fun u => let k := u.mod.core 5
    k.pc == 0x53 && !k.cs.level && k.gr 15 == 0x8000)) = true := by decide
theorem test_gret_forged : let s := core 5 (task (({} : Core).setG 15 0x100))
    ok (exec (.gret 5 (sys 0 0 0 0)) { s with mod := s.mod.wr (loftKey 5 + 0x108) 8 0x10000 }) (fun t => (t.mod.core 5).trap.any (fun x => x.cause == 3 && x.sub == 3)) = true := by
  decide

/-! ### Core control, translation, buffers, fences, counters and stook lines -/

theorem test_idle : (core 5 {}).mod.ready 5 3 false false [] = true ∧ ((core 5 {}).mod.at 5).settled = true ∧
    ok (exec (.idle 5 (sys 0 0 0 0)) (core 5 {})) (fun t => (t.mod.core 5).idle && (t.mod.core 5).pc == 3) = true := by decide +kernel
theorem test_idle_task : ok (exec (.idle 5 (sys 0 0 0 0)) (core 5 (task {}))) (fun t => (t.mod.core 5).trap.any (fun x => x.cause == 3 && x.sub == 5)) = true := by
  decide +kernel
theorem test_idle_wake : let s : State := { pend with mod := pend.mod.onCore 5 (fun k => { k with idle := true }) }
    s.mod.pendingIrq 5 ≠ 0 ∧ ok (exec (.idleWake 5) s) (fun t => !(t.mod.core 5).idle) = true := by decide +kernel
theorem test_wdkick : let s := core 5 {}
    s.mod.ready 5 3 false false [1] = true ∧
    ok (exec (.wdkick 5 (sys 1 0 0 0x55)) { s with mod := { s.mod with warned := [5, 6] } }) (fun t => decide (t.mod.warned = [6])) = true := by decide +kernel
theorem test_core_stop : let s := core 5 { stopReq := true, pc := 9 }
    (s.mod.at 5).quietBoundary = true ∧ ok (exec (.coreStop 5) s) (fun t => !(t.mod.core 5).running && (t.mod.core 5).pc == 9) = true := by decide +kernel

/-- A walk for page 1 of address space 2 with its context table at 0x10000. -/
def walk0 : Walk :=
  { asid := 2, va := 0x401000, cbase := 0x10000, sub := 1, store := true, task := false, running := false, result := none, noFill := false }
def walking (w : Walk) : State := let s := core 5 { walk := some w }; { s with mod := { s.mod with walkers := [5] } }
/-- The walk first reads the context table's entry 2. -/
theorem test_walk : (walking walk0).mod.walkServed 5 = true ∧ ok (exec (.translationWalk 5) (walking walk0)) (fun t =>
    (t.mod.core 5).walk.any (fun w => w.running && w.result.isNone && w.level == 0) && t.mod.net.any (fun r => r.mpa == 0x10010 && r.len == 8)) = true := by
  decide +kernel
/-- The entry of level 0 leads to the level-1 table at 0x5000; VA[47:39] is 0. -/
theorem test_walk_next : let s := walking { walk0 with running := true, addr := 0x10010 }
    ok (exec (.translationWalk 5) { s with mod := { s.mod with net := [{ id := 4, use := .fetch (walkKey 5), q := reqCode 5, die := 0, mpa := 0x10010, len := 8, op := .read, sent := true, resp := some (.data 0x5001) }] } })
      (fun t => (t.mod.core 5).walk.any (fun w => w.level == 1 && w.addr == 0x5000) && t.mod.net.all (fun r => r.mpa == 0x5000)) = true := by decide +kernel
theorem test_walk_beyond : ok (exec (.translationWalk 5) (walking { walk0 with cbase := 0x8000000000 })) (fun t =>
    (t.mod.core 5).walk.any (fun w => decide (w.result = some (.inr (0, 4))))) = true := by decide +kernel
def entry1 : TlbEntry := { asid := 2, big := false, vpage := 0x401, ppage := 0x77, w := true, t := true, nc := false }
def entry2 : TlbEntry := { entry1 with asid := 3 }
theorem test_walk_fill : ok (exec (.walkComplete 5) (core 5 { tlb := [entry2, entry1], walk := some { walk0 with running := true, result := some (.inl entry1) } }))
    (fun t => decide ((t.mod.core 5).tlb = [entry1, entry2]) && (t.mod.core 5).walk.isNone) = true := by decide +kernel
theorem test_walk_fault : ok (exec (.walkComplete 5) (core 5 { walk := some { walk0 with running := true, result := some (.inr (1, 3)) } }))
    (fun t => (t.mod.core 5).tfinfo == 0x213 && (t.mod.core 5).trap.any (fun x => x.cause == 5 && x.sub == 1 && x.addr == 0x401000)) = true := by decide +kernel
/-- TLBINV of one address space keeps the entries of the others. -/
theorem test_tlbinv : let s := core 5 { (gs (2 * 2 ^ 2 + 1) 0) with tlb := [entry2, entry1] }
    s.mod.ready 5 3 false false [1] = true ∧ ((s.mod.due 5).drainWcb 5).writesOut 5 = false ∧
    ok (exec (.tlbinv 5 (sys 1 0 0 0x44)) s) (fun t => decide ((t.mod.core 5).tlb =
      [entry2, entry1].filter (fun e => !tlbSelected (2 * 2 ^ 2 + 1) e))) = true := by decide +kernel

def line0 : WcbLine := { line := 0x20, mask := 0xFF, data := 0x1122334455667788, marks0 := [{ sub := 1, ea := 0x1000 }], marks1 := [] }
theorem test_wcb_writeout : ok (exec (.wcbWriteout 5 0x20) (core 5 { wcb := [line0] })) (fun t => (t.mod.core 5).wcb.isEmpty &&
    decide (t.mod.net.length = 1) && t.mod.net.any (fun r => r.mpa == 0x1000 && decide (r.op = .write 0xFF 0x1122334455667788))) = true := by decide +kernel
def half (i h v : Nat) : Req :=
  { id := i, use := .fill 5 0x20 h, q := 5, die := 0, mpa := 0x1000 + 64 * h, len := 64, op := .read, sent := false, resp := some (.data v) }
theorem test_crib_fill : let s := core 5 { fills := [{ line := 0x20, alloc := true, mask := 1, bytes := 0xEE }] }
    ok (exec (.cribFill 5 0x20) { s with mod := { s.mod with net := [half 1 0 0xAABB, half 2 1 0xCC] } }) (fun t => t.mod.net.isEmpty &&
      decide ((t.mod.core 5).crib = [{ line := 0x20, data := 0xAAEE + 0xCC * 2 ^ 512 }])) = true := by decide +kernel
/-- An entry whose owner has finished goes, with the lines that its far writes touched. -/
theorem test_range_release :
    let s := core 5 { crib := [{ line := 0x20, data := 0 }, { line := 0x21, data := 0 }], rt := [{ owner := .wain 0 1, far := true, lo := 0x40, hi := 0x41, write := true }] }
    s.mod.rtLive 5 (.wain 0 1) = false ∧
    ok (exec (.rangeEntryRelease 5 0) s) (fun t => (t.mod.core 5).rt.isEmpty && decide ((t.mod.core 5).crib = [{ line := 0x21, data := 0 }])) = true := by decide +kernel

theorem test_fence : let s := core 5 { crib := [{ line := 0x21, data := 0 }] }
    s.mod.ready 5 3 false false [] = true ∧
    ok (exec (.fence 5 (sys 0 0 0 7)) s) (fun t => (t.mod.core 5).crib.isEmpty && (t.mod.core 5).pc == 3) = true := by decide +kernel
theorem test_fence_rel : ok (exec (.fenceRel 5 1) (core 5 { wcb := [line0] })) (fun t => (t.mod.core 5).hold.any (fun h => decide (h.kind = .fence)) &&
    (t.mod.core 5).pc == 0) = true := by decide +kernel
theorem test_fence_acq : ok (exec (.fenceAcq 5 0) (core 5 { crib := [{ line := 0x21, data := 0 }] })) (fun t =>
    decide ((t.mod.core 5).crib.length = 1) && (t.mod.core 5).pc == 3) = true := by decide +kernel
theorem test_fence_illegal : ok (exec (.fenceAcq 5 3) (core 5 {})) (fun t => (t.mod.core 5).trap.any (fun x => x.cause == 2 && x.sub == 0)) = true := by decide +kernel

/-- SC_3 of core 5 by its short number. -/
theorem test_sig : let s := core 5 (gs 10 0)
    sigForm 5 (sys 1 0 0 3) false = true ∧ s.mod.incAllowed ((cntOf (scRef 5 3)).getD ⟨0, 0, 0, 0, 0⟩) 5 = true ∧
    ok (exec (.sig 5 (sys 1 0 0 3)) s) (fun t => decide (t.mod.incs.map (fun x => (x.ref, x.amount, x.q, x.sig)) = [(scRef 5 3, 10, 5, some 5)]) &&
      ok (exec (.counterIncrement 0) t) (fun u => u.mod.reg 0 (corePage 5 6) 0x218 == 10 && (u.mod.core 5).pc == 3)) = true := by decide +kernel
/-- An increment that no SIG sent saturates. -/
theorem test_increment : let s := withMod (fun m => { m.setReg 0 2310 0x200 (2 ^ 64 - 2) with incs := [{ ref := dcRef 0 0, amount := 5, q := 0xF00, sig := none }] })
    ok (exec (.counterIncrement 0) s) (fun t => t.mod.reg 0 2310 0x200 == 2 ^ 64 - 1 && t.mod.incs.isEmpty && t.mod.fld 0 2310 0x038 8 1 == 1) = true := by decide +kernel
/-- A core may not increment the counter of a neighbour that another partition owns. -/
theorem test_sig_refused : let s := core 5 (gs 10 (BitVec.ofNat 64 (scRef 6 3)))
    let t := { s with mod := s.mod.setReg 0 2309 0x200 0x1000000 }
    ok (exec (.sig 5 (sys 1 2 0 0x10000)) t) (fun u => (u.mod.core 5).reports.any (fun x => x.cause == 7 && x.sub == 1) && u.mod.incs.isEmpty) = true := by
  decide +kernel
theorem test_wait_met : let s := core 5 (gs 7 0)
    let t := { s with mod := s.mod.setReg 0 (corePage 5 6) 0x218 9 }
    sigForm 5 (sys 1 0 4 0x8003) true = true ∧ t.mod.ready 5 3 false false [1] = true ∧
    ok (exec (.wait 5 (sys 1 0 4 0x8003)) t) (fun u => (u.mod.core 5).gr 4 == 9 && (u.mod.core 5).pc == 3) = true := by decide +kernel
theorem test_wait_held : ok (exec (.wait 5 (sys 1 0 4 0x8003)) (core 5 (gs 7 0))) (fun t => (t.mod.core 5).pc == 0 &&
    ok (exec (.waitComplete 5) { t with mod := t.mod.setReg 0 (corePage 5 6) 0x218 8 }) (fun u => (u.mod.core 5).gr 4 == 8 && (u.mod.core 5).pc == 3)) = true := by
  decide +kernel

/-- ST_2 of die 0 with cores 5 and 6. -/
def stook (flags : BitVec 256) : State :=
  let s := core 5 (gs 0 0)
  { s with mod := { s.mod.setReg 0 2313 0x140 0x60 with flags := [(2, flags)] } }
theorem test_stook_arrive : stookForm (sys 0 0 4 2) false = true ∧ (stook 0x40).mod.stookDenied 5 2 = false ∧
    ok (exec (.stookArrive 5 (sys 0 0 4 2)) (stook 0x40)) (fun t => (t.mod.core 5).pc == 0 &&
      ok (exec (.stookArrival 0) t) (fun u => (u.mod.core 5).gr 4 == 0 && u.mod.stookGen 0 2 == 1 && u.mod.stookFlags 0 2 == 0 && (u.mod.core 5).pc == 3)) = true := by
  decide +kernel
theorem test_stook_first : ok (exec (.stookArrive 5 (sys 0 0 4 2)) (stook 0)) (fun t => ok (exec (.stookArrival 0) t) (fun u =>
    u.mod.stookGen 0 2 == 0 && u.mod.stookFlags 0 2 == 0x20)) = true := by decide +kernel
theorem test_stook_waitg : ok (exec (.stookWaitg 5 (sys 1 0 0 0x20002)) (stook 0)) (fun t => t.mod.core 5 |>.trap.isSome) = true := by decide +kernel
theorem test_stook_waitg_held : stookForm (sys 1 0 0 2) true = true ∧
    ok (exec (.stookWaitg 5 (sys 1 0 0 2)) (stook 0)) (fun t => (t.mod.core 5).hold.any (fun h => decide (h.kind = .waitg)) &&
      ok (exec (.stookWaitgComplete 5) { t with mod := t.mod.setReg 0 2313 0x288 4 }) (fun u => (u.mod.core 5).hold.isNone && (u.mod.core 5).pc == 3)) = true := by
  decide +kernel
theorem test_stook_waitg_through : let s : State := { stook 0 with mod := (stook 0).mod.setReg 0 2313 0x288 4 }
    ok (exec (.stookWaitg 5 (sys 1 0 0 2)) s) (fun t => (t.mod.core 5).pc == 3) = true := by decide +kernel

/-! ### The stall watch and the chutes -/

/-- Core 5 of group 0 waits; the other cores of its die are stopped. -/
def stalled (held : Nat) : State :=
  let s := page 0 2314 (core 5 { hold := some { kind := .recv, sent := true, obj := 3, target := 0, scope := 1, dest := none, words := [], mpa := 0 }, pc := 0x40 })
  { s with mod := (s.mod.setReg 0 2314 0x100 0xFFFF).setReg 0 2314 0x108 held, aon := { s.aon with time := 7 * 2 ^ 32 } }
theorem test_stall : (stalled 0).mod.groupQuiet 0 0 = true ∧ (stalled 0).mod.enabled 0 2314 = true ∧
    ok (exec (.stallDetected 0 0) (stalled 0)) (fun t => t.mod.reg 0 2314 0x108 == 1 && t.mod.reg 0 2314 0x020 == 1 && t.mod.reg 0 2314 0x118 == 7 &&
      t.mod.reg 0 2314 0x450 == 4 * 2 ^ 60 + 0x40 * 2 ^ 32 + 3) = true := by decide +kernel
theorem test_stall_again : ok (exec (.stallDetected 0 0) (stalled 2)) (fun t => t.mod.reg 0 2314 0x108 == 3 && t.mod.reg 0 2314 0x118 == 0) = true := by decide +kernel
theorem test_stall_module : let s := page 4 2074 (stalled 0)
    let u : State := { s with mod := s.mod.setReg 4 2074 0x200 1 }
    u.mod.moduleGroups 0 = [(0, 0)] ∧
    ok (exec (.stallDetected 4 0) u) (fun t => t.mod.reg 4 2074 0x108 == 1 && t.mod.reg 4 2074 0x020 == 2 && t.mod.reg 0 2314 0x118 == 7) = true := by decide +kernel

/-- Destination, words, TRY and answer of the requests on their way. -/
def asked (m : Mod) : List (Nat × List Nat × Bool × Option Nat) := m.chuteReqs.map (fun r => (r.dest, r.words, r.try_, r.resp))
/-- CH_2 of core 6: 16 words at Loft 0x1000, HEAD and TAKE 4, TAIL `t`. -/
def ring (t : Nat) (s : State) : State :=
  let p := corePage 6 5
  page 0 p { s with mod := (((s.mod.setReg 0 p 0x140 (0x1000 * 2 ^ 16 + 4 * 2 ^ 8 + 1)).setReg 0 p 0x148 4).setReg 0 p 0x150 4).setReg 0 p 0x158 t }
def req (try_ : Bool) (ws : List Nat) : ChuteReq := { q := 5, wain := none, core := some 5, dest := 6 * 65536 + 2, words := ws, try_ := try_, resp := none, tag := 0 }
def asks (t : Nat) (r : ChuteReq) : State := let s := ring t (core 5 {}); { s with mod := { s.mod with chuteReqs := [r] } }

theorem test_send : let s := core 5 (gs 0x40 (6 * 65536 + 2))
    let u : State := { s with mod := s.mod.wr (loftKey 5 + 0x40) 16 0xABCD }
    sendSpec (.send 5 (sys 1 2 0 0)) = some (5, sys 1 2 0 0, false) ∧ u.mod.ready 5 3 false false [1, 2] = true ∧ ((u.mod.due 5).drainWcb 5).releaseDone 5 1 = true ∧
    ok (exec (.send 5 (sys 1 2 0 0)) u) (fun t => decide (asked t.mod = [(6 * 65536 + 2, [0xABCD], false, none)]) && t.mod.chuteReqs.all (fun r => r.tag == 0 && r.path.lane == 1) && (t.mod.core 5).pc == 0) = true := by decide +kernel
theorem test_trysend : ok (exec (.trysend 5 (sys 1 2 7 1)) (core 5 (gs 0x40 (6 * 65536 + 2)))) (fun t => decide (asked t.mod = [(6 * 65536 + 2, [0, 0], true, none)]) &&
    (t.mod.core 5).hold.any (fun h => h.dest == some 7)) = true := by decide +kernel
theorem test_send_privilege : ok (exec (.send 5 (sys 1 2 0 0)) (core 5 (task { gs 0x40 (6 * 65536 + 2) with kloft := 0x48 }))) (fun t =>
    (t.mod.core 5).trap.any (fun x => x.cause == 3 && x.sub == 1 && x.addr == 0x48)) = true := by decide +kernel
/-- A two-word message at count 8. -/
theorem test_chute_accept : (asks 8 (req false [3 * 2 ^ 80 + 0xFFFF00, 9])).mod.chuteRefuses 6 2 5 0 = false ∧
    ok (exec (.chuteRequest 6 2) (asks 8 (req false [3 * 2 ^ 80 + 0xFFFF00, 9]))) (fun t => t.mod.chuteReqs.all (fun r => r.resp == some 1) &&
      t.mod.chuteReg 6 2 3 == 10 && t.mod.rd (loftKey 6 + 0x1080) 16 == 3 * 2 ^ 80 + 5 * 2 ^ 16 + 2 * 2 ^ 8 && t.mod.rd (loftKey 6 + 0x1090) 16 == 9) = true := by
  decide +kernel
/-- At count 15 a message of two words wraps behind a pad word of one. -/
theorem test_chute_pad : ok (exec (.chuteRequest 6 2) (asks 15 (req false [0, 9]))) (fun t => t.mod.chuteReg 6 2 3 == 18 &&
    t.mod.rd (loftKey 6 + 0x10F0) 16 == 5 * 2 ^ 16 + 2 ^ 8 + 2 ^ 7 && t.mod.rd (loftKey 6 + 0x1010) 16 == 9) = true := by decide +kernel
theorem test_chute_full : ok (exec (.chuteRequest 6 2) (asks 20 (req false [0]))) (fun t => t.mod.chuteReqs.all (fun r => r.resp == some 0) &&
    SMap.get 0 t.mod.rsv 50 == holderCode 5 none) = true := by decide +kernel
theorem test_chute_full_try : ok (exec (.chuteRequest 6 2) (asks 20 (req true [0]))) (fun t => t.mod.chuteReqs.all (fun r => r.resp == some 0) &&
    SMap.get 0 t.mod.rsv 50 == 0) = true := by decide +kernel
theorem test_chute_denied : let s := core 5 {}
    let u : State := { s with mod := { s.mod with chuteReqs := [req false [0]] } }
    u.mod.chuteRefuses 6 2 5 0 = true ∧ ok (exec (.chuteRequest 6 2) u) (fun t => t.mod.chuteReqs.all (fun r => r.resp == some 2) &&
      t.mod.reg 0 (corePage 6 5) 0x038 == 0x100) = true := by decide +kernel
theorem test_reservation : ok (exec (.reservationTimeout 6 2) (withMod (fun m => { m with rsv := [(49, 7), (50, 8)] }))) (fun t => decide (t.mod.rsv = [(49, 7)])) = true := by
  decide +kernel

def held (try_ : Bool) (resp : Nat) : State :=
  let s := core 5 { hold := some { kind := if try_ then .trysend else .send, sent := true, obj := 6 * 65536 + 2, target := 0, scope := 0
                                   dest := if try_ then some 7 else none, words := [0], mpa := chuteMpa 6 2 } }
  { s with mod := { s.mod with chuteReqs := [{ req try_ [0] with resp := some resp }] } }
theorem test_send_done : (held false 1).mod.chuteCut 0 (6 * 65536 + 2) = false ∧
    ok (exec (.chuteResponse 5) (held false 1)) (fun t => t.mod.chuteReqs.isEmpty && (t.mod.core 5).pc == 3 && (t.mod.core 5).reports.isEmpty) = true := by decide +kernel
theorem test_send_refused : ok (exec (.chuteResponse 5) (held false 2)) (fun t => (t.mod.core 5).pc == 3 &&
    (t.mod.core 5).reports.any (fun r => r.cause == 7 && r.sub == 1 && r.addr == chuteMpa 6 2 % 2 ^ 48)) = true := by decide +kernel
theorem test_trysend_done : ok (exec (.chuteResponse 5) (held true 0)) (fun t => (t.mod.core 5).gr 7 == 0 && (t.mod.core 5).pc == 3) = true ∧
    ok (exec (.chuteResponse 5) (held true 2)) (fun t => (t.mod.core 5).gr 7 == 2) = true := by decide +kernel
theorem test_send_waits : ok (exec (.chuteResponse 5) (held false 0)) (fun t => (t.mod.core 5).pc == 0 && t.mod.chuteReqs.all (fun r => r.resp == some 9) &&
    ok (exec (.sendRetry 5) t) (fun u => u.mod.chuteReqs.all (fun r => r.resp.isNone))) = true := by decide +kernel

/-- Core 6 with a two-word message at count 4 of CH_2. -/
def waiting (t : Nat) : State :=
  let s := ring t (core 6 { crib := [{ line := 1, data := 0 }] })
  { s with mod := s.mod.wr (loftKey 6 + 0x1040) 16 0x200 }
theorem test_recv : recvSpec (.recv 6 (sys 0 0 3 2)) = some (6, sys 0 0 3 2, false) ∧ (waiting 6).mod.ready 6 3 false false [] = true ∧
    ok (exec (.recv 6 (sys 0 0 3 2)) (waiting 6)) (fun t => (t.mod.core 6).gr 3 == 0x0002000000001040 && t.mod.chuteReg 6 2 2 == 6 && (t.mod.core 6).crib.isEmpty) = true := by
  decide +kernel
theorem test_recv_try : ok (exec (.recvTry 6 (sys 0 0 3 2)) (waiting 4)) (fun t => (t.mod.core 6).gr 3 == 0 && (t.mod.core 6).pc == 3) = true := by decide +kernel
theorem test_recv_held : ok (exec (.recv 6 (sys 0 0 3 2)) (waiting 4)) (fun t => (t.mod.core 6).pc == 0 &&
    ok (exec (.recvComplete 6) { t with mod := t.mod.setChuteReg 6 2 3 6 }) (fun u => (u.mod.core 6).gr 3 == 0x0002000000001040 && (u.mod.core 6).pc == 3)) = true := by
  decide +kernel
theorem test_recv_free : let s := waiting 6
    ok (exec (.recvFree 6 (sys 0 0 0 2)) { s with mod := s.mod.setChuteReg 6 2 2 6 }) (fun t => t.mod.chuteReg 6 2 1 == 6 && t.mod.chuteReg 6 2 2 == 6) = true := by
  decide +kernel

/-! ### The vector unit -/

/-- v1 and v2 hold the same element in each of their first two lanes; q1 names lane 0 alone. -/
def vec (a b : Nat) : Core := { v := [(1, BitVec.ofNat 2048 (a + a * 2 ^ 32)), (2, BitVec.ofNat 2048 (b + b * 2 ^ 32))], q := [(1, 1)] }
/-- Type `ty`, predicate field `pred`, destination v3, sources v1 and v2. -/
def vf (ty pred z : Nat) (aux : BitVec 8) : VFields := { ty := BitVec.ofNat 3 ty, pred := BitVec.ofNat 4 pred, z := BitVec.ofNat 1 z, vd := 3, va := 1, vb := 2, aux := aux }
def vres (i : Instr) (k : Core) (p : Core → Bool) : Bool := ok (exec i (core 5 k)) (fun t => p (t.mod.core 5) && (t.mod.core 5).pc == 3)

theorem test_vadd : (core 5 (vec 0xFFFFFFFF 2)).mod.ready 5 3 false false [] = true ∧ (elemSpec (.vadd 5 (vf 0 0 0 0))).isSome = true ∧
    vres (.vadd 5 (vf 0 0 0 0)) (vec 0xFFFFFFFF 2) (fun k => k.elem 3 32 0 == 1 && k.elem 3 32 1 == 1 && k.elem 3 32 2 == 0) = true := by decide +kernel
/-- 1.0 + 1.0 = 2.0 in F32, in lane 0 alone; the other lanes keep what they held. -/
theorem test_vadd_f32 : vres (.vadd 5 (vf 2 9 0 0)) { vec 0x3F800000 0x3F800000 with v := (vec 0x3F800000 0x3F800000).v ++ [(3, BitVec.ofNat 2048 (7 * 2 ^ 32))] }
    (fun k => k.elem 3 32 0 == 0x40000000 && k.elem 3 32 1 == 7) = true := by decide +kernel
theorem test_vmul_z : vres (.vmul 5 (vf 0 9 1 0)) { vec 6 7 with v := (vec 6 7).v ++ [(3, BitVec.ofNat 2048 (7 * 2 ^ 32))] } (fun k => k.elem 3 32 0 == 42 && k.elem 3 32 1 == 0) = true := by
  decide +kernel
theorem test_vsar : vres (.vsar 5 (vf 0 0 0 0)) (vec 0x80000000 4) (fun k => k.elem 3 32 0 == 0xF8000000) = true := by decide +kernel
theorem test_vfma : vres (.vfma 5 (vf 0 0 0 4)) { vec 6 7 with v := (vec 6 7).v ++ [(4, 1)] } (fun k => k.elem 3 32 0 == 43 && k.elem 3 32 1 == 42) = true := by decide +kernel
theorem test_vand : (vectorSpec (.vand 5 (vf 0 0 0 0))).any (fun o => o.fm.fits o.f && o.ok) = true ∧
    vres (.vand 5 (vf 0 0 0 0)) (vec 0xF0F0 0xFF00) (fun k => k.elem 3 32 0 == 0xF000) = true := by decide +kernel
theorem test_vrot : vres (.vrot 5 { vf 0 0 0 1 with vb := 0 }) (vec 5 0) (fun k => k.elem 3 32 0 == 5 && k.elem 3 32 1 == 0 && k.elem 3 32 63 == 5) = true := by decide +kernel
theorem test_vcmp : vres (.vcmp 5 { vf 0 9 0 0 with vd := 2 }) (vec 5 5) (fun k => SMap.get 0 k.q 2 == (if cmpElem 0 0 5 5 then 1 else 0)) = true := by decide +kernel
theorem test_vred : vres (.vred 5 { vf 0 9 0 0 with vb := 0 }) (vec 5 0) (fun k => k.gr 3 == 5) = true := by decide +kernel
theorem test_steward_vector : ok (exec (.vadd 0x3F1 (vf 0 0 0 0)) (stw 1 {})) (fun t => (t.mod.core 0x3F1).trap.any (fun x => x.cause == 2 && x.sub == 0)) = true := by
  decide +kernel
theorem test_predicate_lane : (vec 0 0).on (vf 0 9 0 0) 0 = true ∧ (vec 0 0).on (vf 0 9 0 0) 1 = false ∧ (vec 0 0).on (vf 0 0 0 0) 63 = true := by decide +kernel

/-- p1 = 0x100. -/
def vmem : Core := { vec 7 8 with p := [(1, 0x100)] }
theorem test_vld : (vecMemSpec (.vld 5 { vf 0 0 0 0 with vb := 0 })).any (fun o => o.fm.fits o.f && o.ea vmem 1 == 0x104) = true ∧
    (let s := core 5 vmem
     ok (exec (.vld 5 { vf 0 0 0 0 with vb := 0 }) { s with mod := s.mod.wr (loftKey 5 + 0x104) 4 0xBEEF })
       (fun t => (t.mod.core 5).vloads.any (fun x => x.dest == 3 && x.data == BitVec.ofNat 2048 (0xBEEF * 2 ^ 32))) = true) := by decide +kernel
theorem test_vst : let f : VFields := { vf 0 9 0 0 with vd := 1, vb := 0 }
    let s := core 5 vmem
    ok (exec (.vst 5 f) { s with mod := s.mod.wr (loftKey 5 + 0x104) 4 0xBEEF })
      (fun t => t.mod.rd (loftKey 5 + 0x100) 4 == 7 && t.mod.rd (loftKey 5 + 0x104) 4 == 0xBEEF) = true := by decide +kernel
/-- Lanes 0 and 1 of a scatter name one address: the higher lane's value stays. -/
theorem test_vscat : let f : VFields := { vf 0 0 0 0 with vd := 4 }
    vres (.vscat 5 f) { vmem with v := [(4, BitVec.ofNat 2048 (0xAA + 0xBB * 2 ^ 32))] } (fun _ => true) = true ∧
    ok (exec (.vscat 5 { f with pred := 9 }) (core 5 { vmem with v := [(4, BitVec.ofNat 2048 (0xAA + 0xBB * 2 ^ 32))], q := [(1, 3)] })) (fun t => t.mod.rd (loftKey 5 + 0x100) 4 == 0xBB) = true := by
  decide +kernel
theorem test_vld_alignment : ok (exec (.vld 5 { vf 0 0 0 0 with vb := 0 }) (core 5 { vmem with p := [(1, 0x102)] }))
    (fun t => (t.mod.core 5).trap.any (fun x => x.cause == 4 && x.sub == 1 && x.addr == 0x102)) = true := by decide +kernel

/-! ### Tile registers and the array -/

theorem test_vtrd : let f : VFields := { vf 0 0 0 0 with va := 2, vb := 0 }
    vres (.vtrd 5 f) { tiles := [(128, BitVec.ofNat 1024 (9 * 2 ^ 32)), (129, 5)] } (fun k => k.elem 3 32 1 == 9 && k.elem 3 32 32 == 5) = true ∧
    ok (exec (.vtrd 5 f) (core 5 { tag := [(2, 0x20)] })) (fun t => (t.mod.core 5).trap.any (fun x => x.cause == 10 && x.sub == 2)) = true := by decide +kernel
theorem test_vtwr : let f : VFields := { vf 0 0 0 0 with vd := 1, va := 2, vb := 0 }
    vres (.vtwr 5 f) (vec 9 0) (fun k => SMap.get 0 k.tiles 128 == BitVec.ofNat 1024 (9 + 9 * 2 ^ 32) && SMap.get 0 k.tiles 129 == 0) = true := by decide +kernel
theorem test_vard : let f : VFields := { vf 0 0 0 4 with va := 2, vb := 0 }
    vres (.vard 5 f) { acc := [(2 * 4096 + 64 + 3, 77)] } (fun k => k.elem 3 32 3 == 77) = true := by decide +kernel
theorem test_vawr : let f : VFields := { vf 0 0 0 4 with vd := 1, va := 2, vb := 0 }
    vres (.vawr 5 f) (vec 9 0) (fun k => k.accElem 2 65 == 9 && k.accElem 2 66 == 0) = true := by decide +kernel

/-- A G64 tile of format 1 (F16) from Loft: base g1, stride g2. -/
def tf : TileF := { src := 0, idx := 2, geo := 0, tfmt := 1, mfmt := 1, tr := 0, rm := 0, ns := 0, csel := 0, a := 1, b := 2, c := 0, e := 0, ext := 0, sstride := 0, low := 0 }
def tcore : State := let s := core 5 (gs 0x1000 0x100); { s with mod := s.mod.wr (loftKey 5 + 0x1001) 1 0x5A }
theorem test_tld_ready : tileFmt 1 = true ∧ codeMx 1 = false ∧ tcore.mod.ready 5 6 false false (tileRegs tf) = true ∧ (tcore.mod.at 5).tldOwn 5 tf ∧
    (tcore.mod.at 5).tileBusy 2 = false ∧ (tcore.mod.at 5).tagPartial 2 = false ∧ (tcore.mod.at 5).loads = [] := by
  unfold Core.tldOwn; decide +kernel
/-- One row moves and the command stays at issue. -/
theorem test_tld_row : ok (exec (.tld 5 tf 1) tcore) (fun t => let k := t.mod.core 5
      k.tagPartial 2 && k.hold.any (fun h => h.target == 0x201) && k.pc == 0 && k.tileRaw 2 0 1 0 0 == 0x5A00 && k.tileRaw 2 0 1 0 1 == 0) = true := by decide +kernel
theorem test_tld_alignment : ok (exec (.tld 5 tf 256) (core 5 (gs 0x1002 0x100))) (fun t => (t.mod.core 5).trap.any (fun x => x.cause == 4 && x.sub == 2 && x.addr == 0x1002)) = true := by
  decide +kernel
theorem test_tst_ready : let s := core 5 { gs 0x1000 0x100 with tag := [(2, 3)] }
    let f := { tf with tfmt := 3, mfmt := 3 }
    codeBits 3 = 8 ∧ tileFmt 3 = true ∧ codeMx 3 = false ∧ s.mod.ready 5 6 false false (tileRegs f) = true ∧ (s.mod.at 5).tldOwn 5 f ∧
      geoK 0 3 ≤ 0x100 ∧ (s.mod.at 5).tagOf 2 = 3 := by
  unfold Core.tldOwn; decide +kernel

/-- Accumulator 3 from tiles 0 and 1, both F16. -/
def mulF : TmulF := { acc := 3, ta := 0, tb := 1, shape := 0, fa := 1, fb := 1, zero := 1, ksel := 0, low := 0 }
theorem test_tmul : pairOk 1 1 = true ∧ (core 5 {}).mod.ready 5 6 false false [] = true ∧
    ok (exec (.tmul 5 mulF) (core 5 { tag := [(0, BitVec.ofNat 8 (geoA 0 * 64 + 1)), (1, BitVec.ofNat 8 (geoB 0 * 64 + 1))] })) (fun t =>
      (t.mod.core 5).tmuls.length == 1 && (t.mod.core 5).pc == 6) = true := by decide +kernel
theorem test_tmul_tag : ok (exec (.tmul 5 mulF) (core 5 { tag := [(0, 0xC1)] })) (fun t => (t.mod.core 5).trap.any (fun x => x.cause == 9 && x.sub == 0)) = true := by
  decide +kernel
/-- One K block of ones: the sum of 32 products is 32. -/
theorem test_tmul_element : addBlock true 5 ((List.range 32).map (fun _ => (FV.num false 1 0, FV.num false 1 0))) = 37 := by decide +kernel
theorem test_tmul_complete : let x : Tmul := { acc := 3, ta := 0, tb := 1, shape := 0, fa := 1, fb := 1, zero := true, ksel := false }
    (core 5 { tmuls := [x] }).mod.core 5 = { ({} : Core) with running := true, seg := ((core 5 {}).mod.core 5).seg, tmuls := [x] } ∧ isCpu 5 = true := by decide +kernel

def svf : SaveF := { amask := 1, tmask := 1, prog := 0, a := 1, low := 0 }
theorem test_tsave_ready : let s := core 5 (gs 0x1000 0)
    s.mod.ready 5 6 false false [1] = true ∧ (s.mod.at 5).saveOk 5 0x1000 svf := by unfold Core.saveOk; decide +kernel
/-- With nothing but the program selected, TLDPOS goes to 0x5_1088. -/
theorem test_tsave : ok (exec (.tsave 5 { svf with amask := 0, tmask := 0, prog := 1 }) (core 5 { gs 0x1000 0 with tldpos := 0x205 })) (fun t =>
      t.mod.rd (loftKey 5 + 0x1000 + 0x51088) 8 == 0x205 && (t.mod.core 5).pc == 6) = true := by decide +kernel
theorem test_trestore : let s := core 5 (gs 0x1000 0)
    ok (exec (.trestore 5 { svf with amask := 0, tmask := 2 }) { s with mod := s.mod.wr (loftKey 5 + 0x1000 + 0x51081) 1 0x41 }) (fun t => (t.mod.core 5).tagOf 1 == 0x41) = true := by
  decide +kernel

/-! ### The Thresher -/

/-- The Thresher page of core 5 enabled, with descriptors 0 to 2 at 0x1000, 0x8000 and 0x3000, all with stride 0x100. -/
def thresh (s : State) : State :=
  { s with mod := (page 0 (corePage 5 1) s).mod.setReg 0 (corePage 5 1) 0x200 0x1000 |>.setReg 0 (corePage 5 1) 0x208 0x100 |>.setReg 0 (corePage 5 1) 0x220 0x8000
    |>.setReg 0 (corePage 5 1) 0x228 0x100 |>.setReg 0 (corePage 5 1) 0x240 0x3000 |>.setReg 0 (corePage 5 1) 0x248 0x100 }
/-- One by one, K = 64, F16 by F16 into F32, order 0. -/
def mf : MatxF := { shape := 0, fa := 1, fb := 1, fc := 0, order := 0, acc := 0, ta := 0, tb := 0, epi := 0, mda := 0, mdb := 1, mdc := 2, episel := 0, m := 1, n := 1, k := 64 }
theorem test_matx : let s := thresh (core 5 {})
    matxIllegal (matxWord mf) = false ∧ s.mod.ready 5 6 false false [] = true ∧
    matxCheck (s.mod.at 5) ((s.mod.due 5).capture 5 (matxWord mf) 0 true) false = none ∧ (s.mod.due 5).enabled 0 (corePage 5 1) = true ∧
    ok (exec (.matx 5 mf) s) (fun t => let k := t.mod.core 5; k.mxq.length == 1 && k.rt.length == 3 && k.pc == 6) = true := by decide +kernel
theorem test_matx_fault : let s := { thresh (core 5 {}) with mod := (thresh (core 5 {})).mod.setReg 0 (corePage 5 1) 0x248 2 }
    ok (exec (.matx 5 mf) s) (fun t => (t.mod.core 5).trap.any (fun x => x.cause == 4 && x.sub == 2 && x.addr == 0x3000) && (t.mod.core 5).mxq.isEmpty) = true := by decide +kernel

/-- The entry of that command. -/
def mx : Matx := (thresh (core 5 {})).mod.capture 5 (matxWord mf) 0 true
def mxOn (f : Matx → Matx) (k : Core) : State := thresh (core 5 { k with mxq := [f mx] })
theorem test_walk_begin : ((mxOn id {}).mod.core 5).mayBegin 5 [] mx = true ∧ mx.walk = false ∧ mx.prod.empty = false ∧ mx.s = 0 ∧ mx.prod.order = 0 ∧
    ok (exec (.matxWalkBegin 5) (mxOn id {})) (fun t => (t.mod.core 5).mxq.all (fun y => y.walk && y.s == 16 && y.br == 4 && y.bc == 4 && y.slot 7 == 7)) = true ∧
    ok (exec (.matxWalkBegin 5) (mxOn id { accpin := 0xFFFF })) (fun t =>
      (t.mod.core 5).mxq.all (fun y => y.dropped) && bits (t.mod.reg 0 (corePage 5 1) 0x038) 8 1 == 1) = true := by decide +kernel
def wk (y : Matx) : Matx := { y with walk := true, s := 16, br := 4, bc := 4, accmap := 0xFEDCBA9876543210, step := 1 }
theorem test_matx_step : let x := wk mx
    x.prod.order < 3 ∧ x.prod.steps = 2 ∧ x.prod.nkb = 2 ∧ x.step % x.prod.nkb ≠ 0 ∧ (mxOn wk {}).mod.bad = [] := by decide +kernel
theorem test_writeout : let f : Matx → Matx := fun y => { wk y with step := 2 }
    let x := f mx
    x.prod.nkb ≠ 0 ∧ x.wtile < x.step / x.prod.nkb ∧ x.prod.tilesN = 1 ∧ x.slot 0 = 0 ∧ x.tileAt 0 = (0, 0) ∧ x.prod.int = false ∧
    ok (exec (.matxWriteout 5) (mxOn f { acc := [(0, 0x3F800000)] })) (fun t =>
      t.mod.rd (loftKey 5 + 0x3000) 4 == 0x3F800000 && (t.mod.core 5).mxq.all (fun y => y.row == 1 && y.wtile == 0)) = true ∧
    ok (exec (.matxWriteout 5) (mxOn (fun y => { f y with row := 63 }) {})) (fun t => (t.mod.core 5).mxq.all (fun y => y.row == 0 && y.wtile == 1)) = true := by
  decide +kernel
theorem test_completion : let f : Matx → Matx := fun y => { wk y with step := 2, wtile := 1 }
    (f mx).allOut = true ∧ (f mx).done / 32 % 4 = 0 ∧
    ok (exec (.matxCompletion 5) (mxOn f { rt := [{ owner := .matx mx.id, far := false, lo := 0x3000, hi := 0x3003, write := true }] })) (fun t =>
      (t.mod.core 5).mxq.isEmpty && (t.mod.core 5).rt.isEmpty && t.mod.reg 0 (corePage 5 1) 0x150 == 1) = true := by decide +kernel
theorem test_tyield_empty : (thresh (core 5 {})).mod.ready 5 3 false false [] = true ∧
    ok (exec (.tyield 5 (sys 0 0 0 0)) (thresh (core 5 {}))) (fun t => bits (t.mod.reg 0 (corePage 5 1) 0x100) 4 1 == 1) = true := by decide +kernel
theorem test_tyield : let x := wk mx
    x.step < 2 ^ 32 ∧ x.word < 2 ^ 84 ∧
    ok (exec (.tyield 5 (sys 0 0 0 1)) (mxOn wk {})) (fun t => (t.mod.core 5).mxq.isEmpty && bits (t.mod.reg 0 (corePage 5 1) 0x188) 63 1 == 1 &&
      bits (t.mod.reg 0 (corePage 5 1) 0x188) 56 5 == 16 && bits (t.mod.reg 0 (corePage 5 1) 0x190) 0 32 == 1) = true := by decide +kernel
/-- What TYIELD left is brought back. -/
def yielded : State := match exec (.tyield 5 (sys 0 0 0 0)) (mxOn wk {}) with | .next t => t | _ => up
theorem test_tyield_r : yielded.mod.ready 5 3 false false [] = true ∧
    (match (yielded.mod.due 5).tprogEntry 5 0 with
      | some x => x.word == mx.word && !matxIllegal x.word && decide (matxCheck (yielded.mod.at 5) x (x.s != 0) = none)
      | none => false) = true ∧
    (yielded.mod.due 5).tprogEntry 5 1 = none ∧ (yielded.mod.due 5).tprogEntry 5 2 = none ∧ (yielded.mod.due 5).tprogEntry 5 3 = none ∧
    ok (exec (.tyieldR 5 (sys 0 0 0 0)) yielded) (fun t => (t.mod.core 5).mxq.all (fun y => y.word == mx.word && y.step == 1 && y.s == 16) &&
      (t.mod.core 5).mxq.length == 1 && bits (t.mod.reg 0 (corePage 5 1) 0x188) 63 1 == 0) = true := by decide +kernel

/-! ### Register pages -/

/-- Another value in a register. -/
def setr (die p off v : Nat) (s : State) : State := { s with mod := s.mod.setReg die p off v }
/-- A read of a register by core 5, in flight. -/
def rdOf (die p off : Nat) (s : State) : State :=
  { s with mod := { s.mod with net := [{ id := 9, use := .load 5 1, q := 5, die := 0, mpa := regMpa die p off, len := 8, op := .read, sent := true, resp := none }] } }
def rdAcc : RegAcc := { id := some 9, q := 5, mpa := 0, size := 8, v := 0, test := 0, dead := 0 }
def answer (x : Resp) (t : State) : Bool := t.mod.net.all (fun r => decide (r.resp = some x))

/-- Each access class: a field of 4 bits at bit 4 that holds 0101, all enabled, 0011 written. -/
def bitsOf (k : Acc) : Nat := (({ off := 0, lo := 4, width := 4, acc := k, cls := .v } : Fld).write false 0x50 0xFF 0x30).1
theorem test_field_write : bitsOf .rw = 3 ∧ bitsOf .w1c = 4 ∧ bitsOf .w1s = 7 ∧ bitsOf .ro = 5 ∧ bitsOf .rwl = 3 ∧ bitsOf .w1z = 0 := by decide
theorem test_field_locked : (({ off := 0, lo := 4, width := 4, acc := .rwl, cls := .c } : Fld).write true 0x50 0xFF 0x30) = (5, true) := by decide
theorem test_page_id : let s := rdOf 1 (stewardPage 1) 0 up
    s.up = true ∧ (s.mod.findReq 9).any (fun r => r.resp.isNone && !s.mod.mustFollow r && r.mpa == regMpa 1 (stewardPage 1) 0) = true ∧
    s.mod.regRefused 5 1 (stewardPage 1) 0 8 = none ∧ s.mod.isFrozen 1 (stewardPage 1) = false ∧
    ok (exec (.registerWrite false rdAcc) s) (answer (.data (idWord 1 (stewardPage 1) % 2 ^ 64))) = true := by decide +kernel
theorem test_irq_enable : up.admits (acc 1 (stewardPage 1) 0x028 7) 1 (stewardPage 1) 0x028 = true ∧
    ok (exec (.registerWrite true (acc 1 (stewardPage 1) 0x028 7)) up) (fun t => t.mod.reg 1 (stewardPage 1) 0x028 == 7) = true := by decide +kernel
theorem test_read_clear : up.admits (acc 1 (pwrPage 1) 0x120 0) 1 (pwrPage 1) 0x120 = true ∧
    ok (exec (.registerReadClear (acc 1 (pwrPage 1) 0x120 0)) (setr 1 (pwrPage 1) 0x120 0x12345678 up)) (fun t => t.mod.reg 1 (pwrPage 1) 0x120 == 0x5678) = true := by
  decide +kernel

/-- Page 8191 of die 3 is assigned to nothing: a core's access is recorded in the steward's page, the host's in the host port's. -/
theorem test_unassigned : blockAt 3 8191 = none ∧ accessOf { acc 3 8191 0x100 0 with q := 5 } 3 8191 0x100 = true ∧
    Mod.regRefused up.mod 5 3 8191 0x100 8 = some (3, stewardPage 3, 0) ∧ Mod.regRefused up.mod hostCode 3 8191 0x100 8 = some (4, hostportPage, 8) ∧
    ok (exec (.registerWrite true { acc 3 8191 0x100 0 with q := 5 }) up) (fun t => t.mod.reg 3 (stewardPage 3) 0x038 == 1 &&
      t.mod.reg 3 (stewardPage 3) 0x048 == regMpa 3 8191 0x100) = true := by decide +kernel
theorem test_misaligned_register : Mod.regRefused up.mod 5 0 (stewardPage 0) 0x104 8 = some (0, stewardPage 0, 0) ∧
    (blockAt 0 (stewardPage 0)).isSome = true ∧ Mod.regRefused up.mod 5 0 (stewardPage 0) 0x104 4 = none := by decide +kernel
theorem test_error_record : let t := up.mod.err 0 2309 9 0xF00 7 0x1000
    t.reg 0 2309 0x038 = 0x200 ∧ t.reg 0 2309 0x040 = 9 * 2 ^ 48 + 0xF00 * 2 ^ 32 + 7 ∧ (t.err 0 2309 10 1 8 0).reg 0 2309 0x038 = 0x604 ∧
    (t.err 0 2309 10 1 8 0).reg 0 2309 0x048 = 0x1000 := by decide +kernel

theorem test_lock : up.admits (acc 0 2309 0x010 5) 0 2309 0x010 = true ∧
    ok (exec (.lock (acc 0 2309 0x010 5)) up) (fun t => t.mod.locked 0 2309 &&
      ok (exec (.registerWrite true (acc 0 2309 0x010 0)) t) (fun u => u.mod.enabled 0 2309 && u.mod.reg 0 2309 0x038 == 2)) = true := by decide +kernel
theorem test_freeze : up.mod.isFrozen 0 2309 = false ∧
    ok (exec (.freeze (acc 0 2309 0x010 3)) (setr 0 2309 0x020 5 up)) (fun t => t.mod.isFrozen 0 2309) = true := by decide +kernel
theorem test_irq_test : up.admits (acc 0 2309 0x030 3) 0 2309 0x030 = true ∧
    ok (exec (.irqTest (acc 0 2309 0x030 3)) (setr 0 2309 0x020 4 up)) (fun t => t.mod.reg 0 2309 0x020 == 7) = true := by decide +kernel
theorem test_cfg_epoch : let s := setr 0 2309 0x058 5 up
    s.admits (acc 0 2309 0x058 6) 0 2309 0x058 = true ∧ ok (exec (.cfgEpochWrite (acc 0 2309 0x058 6)) s) (fun t => t.mod.reg 0 2309 0x058 == 6) = true ∧
    ok (exec (.cfgEpochWrite (acc 0 2309 0x058 4)) s) (fun t => t.mod.reg 0 2309 0x058 == 5 && t.mod.reg 0 2309 0x038 == 8) = true := by decide +kernel

/-- The PERF page of core 0, enabled and counting, its counter 2 at work with its cause enabled. -/
def perf : State := setr 0 7 0x150 0x300 (setr 0 7 0x100 1 (setr 0 7 0x180 4 (page 0 7 up)))
theorem test_perf_clear : blockAt 0 7 = some (.perf, 0) ∧ perf.admits (acc 0 7 0x100 3) 0 7 0x100 = true ∧
    ok (exec (.perfClear (acc 0 7 0x100 3)) (setr 0 7 0x150 0x301 perf)) (fun t => t.mod.reg 0 7 0x180 == 0) = true := by decide +kernel
theorem test_perf_snap : (setr 0 7 0x150 0 perf).mod.perfCounts 0 7 0 = false ∧
    ok (exec (.perfSnap (acc 0 7 0x100 5)) (setr 0 7 0x150 0 perf)) (fun t => t.mod.reg 0 7 0x1C0 == 4 && t.mod.reg 0 7 0x180 == 4) = true := by decide +kernel
theorem test_perf_wrap : perf.mod.perfCounts 0 7 2 = true ∧ perf.mod.fld 0 7 0x150 9 1 = 1 ∧
    ok (exec (.perfCounterWrap 0 7 2) perf) (fun t => t.mod.reg 0 7 0x190 == 0 && t.mod.reg 0 7 0x020 == 4) = true ∧
    ok (exec (.perfCounterWrap 0 7 2) (setr 0 7 0x150 0x100 perf)) (fun t => t.mod.reg 0 7 0x020 == 0) = true := by decide +kernel

/-- The Keeper in RUN with module epoch 5. -/
def keeper (f : Keeper → Keeper) : State := { setr 4 keeperPage 0x400 5 (setr 4 keeperPage 0x100 1 up) with
  mod := { (setr 4 keeperPage 0x400 5 (setr 4 keeperPage 0x100 1 up)).mod with keeper := f up.mod.keeper } }
def report5 (d : Nat) : Report0 := { epoch := 5, digest := d, disturbed := false, ahead := false }
theorem test_digest_go : let s := page 0 2318 up
    s.admits (acc 0 2318 0x100 0x100000005) 0 2318 0x100 = true ∧ s.mod.enabled 0 2318 = true ∧ s.mod.fld 0 2318 0x108 0 1 = 0 := by decide +kernel
/-- A walk that has visited every page, its records none. -/
def walked : State := setr 0 2318 0x108 1 { up with mod := { up.mod with digests := [(0, { epoch := 5, next := 8192, dirty := true })] } }
theorem none_left : (diePages 0).filter (fun p => decide (8192 ≤ p)) = [] := by simp [diePages, List.filter_eq_nil_iff]; omega
theorem test_walk_done : ok (exec (.digestWalkDone 0) walked) (fun t => t.mod.fld 0 2318 0x108 0 3 == 2 &&
    decide (t.mod.keeper.inbox.map (fun x => (x.1, x.2.epoch, x.2.dirty, x.2.disturbed)) = [(0, 5, true, false)])) = true := by
  have h : (diePages 0).filter (fun p => decide ((walked.mod.walkOn 0).next ≤ p)) = [] := by
    rw [show (walked.mod.walkOn 0).next = 8192 by decide +kernel]; exact none_left
  show ok (execDigestWalkDone 0 walked) _ = true
  unfold execDigestWalkDone Mod.digestRest
  rw [h]
  decide +kernel
theorem test_report_agrees : let s := keeper (fun k => { k with inbox := [(0, report5 0x77)] })
    ok (exec .keeperDigestReport (setr 4 keeperPage 0x440 0x77 s)) (fun t => t.mod.kp 0x410 0 4 == 1 && t.mod.keeper.inbox.isEmpty) = true ∧
    (keeper (fun k => { k with inbox := [(0, report5 0x77)] })).mod.kState = 1 ∧
    ok (exec .keeperDigestReport s) (fun t => t.mod.kp 0x410 0 4 == 2) = true ∧
    ok (exec .keeperDigestReport (setr 4 keeperPage 0x400 4 s)) (fun t => t.mod.kp 0x410 0 4 == 4) = true := by decide +kernel
theorem test_stale : (keeper id).mod.kp 0x410 8 4 = 0 ∧ SMap.get none (keeper id).mod.keeper.reports 2 = none ∧
    ok (exec (.configStale 2) (keeper id)) (fun t => t.mod.kp 0x410 8 4 == 3 && bits (t.mod.reg 4 keeperPage 0x020) 2 1 == 1) = true := by decide +kernel
theorem test_reset_notice : ok (exec .keeperResetNotice (setr 4 keeperPage 0x410 0x111 (keeper (fun k => { k with notices := [1], reports := [(1, some (report5 1))] }))))
    (fun t => t.mod.keeper.notices.isEmpty && t.mod.kp 0x410 4 4 == 0 && (SMap.get none t.mod.keeper.reports 1).isNone) = true := by decide +kernel
theorem test_epoch_raise : (keeper id).admits (acc 4 keeperPage 0x400 6) 4 keeperPage 0x400 = true ∧
    ok (exec (.keeperCfgEpochWrite (acc 4 keeperPage 0x400 6)) (setr 4 keeperPage 0x410 0x111111 (keeper id))) (fun t => t.mod.kp 0x400 0 32 == 6 && t.mod.kp 0x410 0 24 == 0) = true ∧
    ok (exec (.keeperCfgEpochWrite (acc 4 keeperPage 0x400 8)) (keeper id)) (fun t => t.mod.kp 0x400 0 32 == 5 && bits (t.mod.reg 4 keeperPage 0x038) 3 1 == 1) = true := by
  decide +kernel

/-! ### Core control from the CORE page -/

def runAt : RegAcc := acc 0 (corePage 5 0) 0x100 0x12340001
theorem test_core_start : let s := { page 0 (corePage 5 0) up with mod := (page 0 (corePage 5 0) up).mod.setCore 5 { gs 7 0 with bank := 2, halted := false } }
    s.admits runAt 0 (corePage 5 0) 0x100 = true ∧ (s.mod.fur 5).stream = false ∧ s.mod.parked 5 = false ∧ s.mod.retired 5 = false ∧
    ok (exec (.coreRunStart runAt) s) (fun t => let k := t.mod.core 5; k.running && k.bank == 0 && k.pc == 0x1234 && k.gr 1 == 7 && k.cs.level && !k.cs.ie) = true := by
  decide +kernel
theorem test_core_run_stop : let s := setr 0 (corePage 5 0) 0x100 1 (page 0 (corePage 5 0) (core 5 {}))
    ok (exec (.coreRunStop { runAt with v := 0 }) s) (fun t => (t.mod.core 5).stopReq && (t.mod.core 5).running) = true := by decide +kernel
/-- Segment 1 is locked against writes: the last parcel of the four makes the whole write fail. -/
theorem test_pm_data : up.admits (acc 0 (corePage 5 0) 0x120 0) 0 (corePage 5 0) 0x120 = true ∧
    (let s := setr 0 (corePage 5 0) 0x118 0xFFD up
     ok (exec (.corePmDataWrite (acc 0 (corePage 5 0) 0x120 (1 + 2 * 2 ^ 14 + 3 * 2 ^ 28 + 4 * 2 ^ 42))) s) (fun t => t.mod.parcel 5 0xFFD == 1 && t.mod.parcel 5 0x1000 == 4 &&
       t.mod.reg 0 (corePage 5 0) 0x118 == 0x1001) = true ∧
     ok (exec (.corePmDataWrite (acc 0 (corePage 5 0) 0x120 1)) (setr 0 (corePage 5 0) 0x110 0x20000 s)) (fun t => decide (t.mod.pm = up.mod.pm) &&
       bits (t.mod.reg 0 (corePage 5 0) 0x038) 8 1 == 1) = true) := by decide +kernel
theorem test_pm_read : let s := rdOf 0 (corePage 5 0) 0x120 { up with mod := { up.mod with pm := [(5 * 65536, 7), (5 * 65536 + 3, 9)] } }
    (s.mod.findReq 9).any (fun r => r.resp.isNone && !s.mod.mustFollow r) = true ∧ s.mod.regRefused 5 0 (corePage 5 0) 0x120 8 = none ∧
    ok (exec (.corePmDataRead rdAcc) s) (fun t => answer (.data (7 + 9 * 2 ^ 42)) t && t.mod.reg 0 (corePage 5 0) 0x118 == 4) = true := by decide +kernel

/-! ### Wains -/

/-- Wain 10 (W0 of core 5) with a program at Loft 0x100, in `st`, at the kernel level. -/
def wn (st : Nat) (x : Wain → Wain) (s : State) : State :=
  let t := page 0 42 s
  { t with mod := (t.mod.setReg 0 42 0x110 (8 + st)).setWain 10 (x { start := 2 ^ 44 + 0x100, next := 2 ^ 44 + 0x100 }) }
/-- That Wain, running with an instruction fetched. -/
def at_ (v : Nat) (s : State) : State := setr 0 42 0x118 (2 ^ 44 + 0x100) (wn 1 (fun x => { x with instr := some v }) s)
def wst (t : State) : Nat := t.mod.wainState 10

theorem test_wgo : let v : Word := BitVec.ofNat 64 (2 ^ 44 + 0x100)
    let s := page 0 42 (core 5 (gs v (2 ^ 63)))
    s.mod.ready 5 3 false false [1] = true ∧ s.mod.enabled 0 42 = true ∧ s.mod.wainBusy 10 = false ∧ s.mod.coreSweep 5 = false ∧ wainCore 10 = some 5 ∧
    ok (exec (.wgoStart 5 (sys 1 0 0 0)) s) (fun t => wst t == 1 && (t.mod.wain 10).next == 2 ^ 44 + 0x100 && t.mod.wreg 10 0x118 == 0) = true ∧
    ok (exec (.wgoStart 5 (sys 1 0 0 0)) (page 0 42 (core 5 (gs (v + 8) 0)))) (fun t => wst t == 6 && t.mod.wreg 10 0x038 == 0x200) = true := by decide +kernel
theorem test_wgo_stop : ok (exec (.wgoStop 5 (sys 2 0 0 0)) (wn 1 id (core 5 (gs 0 0x8000000000000000)))) (fun t => wst t == 5 && (t.mod.core 5).pc == 3) = true := by decide +kernel
theorem test_wain_go : let s := setr 0 42 0x108 (2 ^ 44 + 0x40) (page 0 42 up)
    s.admits (acc 0 42 0x100 1) 0 42 0x100 = true ∧ wainDie 10 = 0 ∧ wainPage 10 = 42 ∧
    ok (exec (.wainGo (acc 0 42 0x100 1)) s) (fun t => wst t == 1 && (t.mod.wain 10).start == 2 ^ 44 + 0x40) = true := by decide +kernel
theorem test_wain_stop : (wn 1 id up).mod.wainBusy 10 = true ∧ (wn 1 id up).mod.wainOut 10 = false ∧
    ok (exec (.wainStop (acc 0 42 0x100 2)) (wn 1 id up)) (fun t => wst t == 5) = true := by decide +kernel

theorem test_wain_fetch : let s := wn 1 id up
    isL (2 ^ 44 + 0x100) = true ∧ wainIllegal 0 = false ∧
    ok (exec (.wainFetch 10) s) (fun t => (t.mod.wain 10).instr == some 0 && t.mod.wreg 10 0x118 == 2 ^ 44 + 0x100) = true ∧
    ok (exec (.wainFetch 10) { s with mod := s.mod.wr (loftKey 5 + 0x11F) 1 0x60 }) (fun t => wst t == 6 && t.mod.wreg 10 0x038 == 0x100 && t.mod.wreg 10 0x020 == 2) = true := by
  decide +kernel
theorem test_wain_end : ok (exec (.wainEnd 10) (at_ (2 ^ 251) up)) (fun t => wst t == 7 && t.mod.wreg 10 0x020 == 1) = true ∧
    (at_ (2 ^ 251) up).mod.wainOut 10 = false ∧ ok (exec (.wainEnd 10) (at_ 0 up)) (fun t => wst t == 7 && t.mod.wreg 10 0x020 == 0) = true := by decide +kernel
def wwrite (x : Resp) : State := let s := wn 1 id up
  { s with mod := { s.mod with net := [{ id := 9, use := .wain 10 0x20, q := 5, die := 0, mpa := 0x5000, len := 4, op := .write 15 1, sent := true, resp := some x }] } }
theorem test_wain_ack : ok (exec (.wainWriteAck 10 9) (wwrite .ok)) (fun t => t.mod.net.isEmpty && wst t == 1) = true ∧
    ok (exec (.wainWriteAck 10 9) (wwrite .err)) (fun t => t.mod.net.isEmpty && (t.mod.wain 10).err == [(13, 0x5000, 0x20)]) = true := by decide +kernel

/-- Eight bytes of own Loft from 0x200 to 0x300, one row. -/
def mv : Nat := 2 ^ 252 + (2 ^ 44 + 0x200) * 2 ^ 207 + (2 ^ 44 + 0x300) * 2 ^ 162 + 8 * 2 ^ 144 + 2 ^ 128 + 2 ^ 112
theorem test_wain_move : let s := at_ mv up
    (moveOf mv).len = 8 ∧ (moveOf mv).n1 = 1 ∧ (moveOf mv).n2 = 1 ∧ (s.mod.core 5).rt = [] ∧ s.mod.net = [] ∧
    (let t := (moveGroups (planeOf 0) (moveOf mv) []).foldl (moveGroup 10 (planeOf 0)) (s.mod.wr (loftKey 5 + 0x200) 8 0x1122334455667788)
     t.rd (loftKey 5 + 0x300) 8 = 0x1122334455667788 ∧ t.wreg 10 0x140 = 8) := by decide +kernel

/-- Two instructions, three times. -/
def lp (n : Nat) : Nat := 2 * 2 ^ 252 + n * 2 ^ 218 + 2 * 2 ^ 210
theorem test_wain_loop : (at_ (lp 3) up).mod.wainPcIdx 10 = 0 ∧
    ok (exec (.wainLoop 10) (at_ (lp 3) up)) (fun t => (t.mod.wain 10).loops.map (fun l => (l.body, l.count, l.iter)) == [(2, 3, 0)] && (t.mod.wain 10).next == 2 ^ 44 + 0x120) = true ∧
    ok (exec (.wainLoop 10) (at_ (lp 0) up)) (fun t => (t.mod.wain 10).loops.isEmpty && (t.mod.wain 10).next == 2 ^ 44 + 0x160) = true := by decide +kernel
theorem test_wain_loop_end : let l : WainLoop := { at_ := 0, body := 2, count := 2, iter := 0, sstep := 0, dstep := 0 }
    let m := (wn 1 (fun x => { x with loops := [l] }) up).mod
    (((m.wainNext 10 2).wain 10).next = 2 ^ 44 + 0x120 ∧ ((m.wainNext 10 2).wain 10).loops = [{ l with iter := 1 }]) ∧
    (let m := (wn 1 (fun x => { x with loops := [{ l with iter := 1 }] }) up).mod
     ((m.wainNext 10 2).wain 10).next = 2 ^ 44 + 0x160 ∧ ((m.wainNext 10 2).wain 10).loops = []) := by decide +kernel
theorem test_wain_plane : ok (exec (.wainPlane 10) (at_ (5 * 2 ^ 252) up)) (fun t => (t.mod.wain 10).plane == some (5 * 2 ^ 252) && wst t == 1) = true := by decide +kernel

/-- WAIT for, and SIGNAL to, die counter 0 of die 0. -/
def wt (n : Nat) : Nat := 3 * 2 ^ 252 + dcRef 0 0 * 2 ^ 208 + n * 2 ^ 144
def dc (v : Nat) (s : State) : State := setr 0 2310 0x200 v s
theorem test_wain_wait : (cntOf (dcRef 0 0)).any (fun x => (at_ (wt 4) up).mod.wainMayWait 10 x && !(at_ (wt 4) up).mod.routeCut 0 x.die x.mpa) = true ∧
    ok (exec (.wainWaitCounter 10) (dc 4 (at_ (wt 4) up))) (fun t => wst t == 1 && (t.mod.wain 10).instr.isNone) = true ∧
    ok (exec (.wainWaitCounter 10) (dc 3 (at_ (wt 4) up))) (fun t => wst t == 2) = true ∧
    (match wainWait (dc 4 (wn 2 (fun x => { x with instr := some (wt 4) }) up)).mod 10 (wt 4) with | .met => true | _ => false) = true := by decide +kernel
/-- Frame 7, line 3. -/
def cadAt : Nat := 3 * 2 ^ 252 + 2 ^ 251 + 7 * 2 ^ 208 + 3 * 2 ^ 192
def atFrame (line : Nat) (s : State) : State := { setr 0 2308 0x150 line (setr 0 2308 0x148 7 s) with
  mod := { (setr 0 2308 0x150 line (setr 0 2308 0x148 7 s)).mod with unitLpf := [(0, 16)] } }
theorem test_wain_cadence : (atFrame 3 (at_ cadAt up)).mod.cadPos 0 = some (7, 3) ∧
    ok (exec (.wainWaitCadence 10) (atFrame 3 (at_ cadAt up))) (fun t => wst t == 1 && (t.mod.wain 10).instr.isNone) = true ∧
    ok (exec (.wainWaitCadence 10) (atFrame 2 (at_ cadAt up))) (fun t => wst t == 3) = true := by decide +kernel
def sgn : Nat := 4 * 2 ^ 252 + dcRef 0 0 * 2 ^ 208 + 5 * 2 ^ 176
theorem test_wain_signal : (cntOf (dcRef 0 0)).any (fun x => (at_ sgn up).mod.incAllowed x 5 && !(at_ sgn up).mod.cntGone x) = true ∧ wainReq 10 = 5 ∧
    ok (exec (.wainSignalCounter 10) (dc (2 ^ 64 - 3) (at_ sgn up))) (fun t => wst t == 1 && t.mod.incs.any (fun x => x.wain == some (10, 0)) &&
      ok (exec (.counterIncrement 0) t) (fun u => u.mod.reg 0 2310 0x200 == 2 ^ 64 - 1)) = true := by decide +kernel
/-- One word of own Loft at 0x400 to chute 2 of core 6. -/
def smsg : Nat := 4 * 2 ^ 252 + 2 ^ 251 + (6 * 65536 + 2) * 2 ^ 208 + (2 ^ 44 + 0x400) * 2 ^ 160
theorem test_wain_message : let s := ring 8 (at_ smsg up)
    destOf (6 * 65536 + 2) = some (6, 2) ∧ isStw 6 = false ∧ s.mod.routeCut 0 0 (chuteMpa 6 2) = false ∧ s.mod.chuteRefuses 6 2 5 0 = false ∧ s.mod.chuteFree 6 2 = 12 ∧
    s.mod.chuteReg 6 2 3 % s.mod.chuteSize 6 2 + 1 ≤ s.mod.chuteSize 6 2 ∧
    ok (exec (.wainSignalMessage 10) s) (fun t => wst t == 1 && (t.mod.wain 10).sent && ok (exec (.chuteRequest 6 2) t) (fun u => u.mod.chuteReg 6 2 3 == 9 &&
      ok (exec (.wainSignalMessage 10) u) (fun v => wst v == 1 && (v.mod.wain 10).instr.isNone && v.mod.chuteReqs.isEmpty))) = true := by decide +kernel
theorem test_wain_message_full : (ring 20 (at_ smsg up)).mod.chuteFree 6 2 = 0 ∧
    ok (exec (.wainSignalMessage 10) (ring 20 (at_ smsg up))) (fun t => ok (exec (.chuteRequest 6 2) t) (fun u => ok (exec (.wainSignalMessage 10) u) (fun v =>
      wst v == 4 && (v.mod.wain 10).words == [0] && ok (exec (.wainSignalRetry 10) v) (fun w => w.mod.chuteReqs.length == 1 && wst w == 4)))) = true := by decide +kernel

/-! ### Furrows -/

/-- Core 5 in stream mode with a furrow block, local queues 0x14 and 0x15 enabled as control queues, and rule 0 as given. -/
def fu (f : Furrow → Furrow) (s : State) : State :=
  { setr 0 44 0x2A0 3 (setr 0 44 0x2A8 3 (page 0 44 s)) with mod := (setr 0 44 0x2A0 3 (setr 0 44 0x2A8 3 (page 0 44 s))).mod.setFur 5 (f { stream := true }) }
def rule0 (w : Nat) (s : State) : State :=
  { s with mod := { s.mod with pm := (List.range 8).foldl (fun m i => SMap.put 0 m (5 * 65536 + 0xEF80 + i) (BitVec.ofNat 14 (w / 2 ^ (14 * (7 - i))))) s.mod.pm } }
/-- A valid rule: operation, inputs, outputs, input selectors, output selectors, output kinds, body. -/
def rw (op nin nout i0 i1 i2 o0 o1 okind body : Nat) : Nat :=
  2 ^ 111 + op * 2 ^ 106 + nin * 2 ^ 103 + nout * 2 ^ 101 + i0 * 2 ^ 95 + i1 * 2 ^ 89 + i2 * 2 ^ 83 + o0 * 2 ^ 71 + o1 * 2 ^ 65 + okind * 2 ^ 63 + body
def ct (v : Nat) : Token := { ctl := true, tag := 3, len := 0, data := v }

/-- A ROUTINE of one input and no output, entered at 0xE000. -/
def routine0 : State := rule0 (rw 2 1 0 0x14 0 0 0 0 0 (0xE000 * 2 ^ 41)) (fu (fun f => { f with queues := [(0x14, [ct 9, ct 8])] }) up)
theorem test_dispatch : routine0.mod.pickRule 5 = some 0 ∧ routine0.mod.ruleReady 5 0 = true ∧ ((routine0.mod.rule 5 0).takes (routine0.mod.fur 5)) = some [0x14] ∧
    ok (exec (.ruleDispatch 5) routine0) (fun t => (t.mod.core 5).pc == 0xE000 && (t.mod.core 5).routine.isSome && t.mod.furReg 5 0x130 == 1 &&
      SMap.get [] (t.mod.fur 5).queues 0x14 == [ct 8] && (t.mod.fur 5).firings.map (fun x => (x.rule, x.routine)) == [(0, true)]) = true := by decide +kernel
theorem test_no_rule : (fu id up).mod.pickRule 5 = none := by decide +kernel
/-- Steering with two inputs, the control token on 0x14. -/
def steer0 (op : Nat) : State := rule0 (rw op 2 1 0x14 0x15 0x15 0x16 0 0 0) (setr 0 44 0x2B0 3 (fu (fun f => { f with queues := [(0x14, [ct 1]), (0x15, [ct 5])] }) up))

def ready1 (o : Nat) : State := fu (fun f => { f with firings := [{ rule := 0, outs := [(o, some (ct 4))], routine := false }] }) up
theorem test_output : isLocal 0x14 = true ∧ isEj 0x31 = true ∧ isLane 0x24 = true ∧ laneTarget 5 0x24 = some (6, 12) ∧
    ok (exec (.firingOutput 5 0) (ready1 0x14)) (fun t => let f := t.mod.fur 5; f.firings.isEmpty && f.arriving == [(0x14, ct 4)]) = true ∧
    ok (exec (.firingOutput 5 0) (ready1 0x31)) (fun t => let f := t.mod.fur 5; f.firings.isEmpty && f.ejecting == [(1, ct 4)]) = true ∧
    (let s := { ready1 0x24 with mod := (ready1 0x24).mod.setFur 6 { stream := true } }
     ok (exec (.firingOutput 5 0) s) (fun t => (t.mod.fur 5).firings.isEmpty && (t.mod.fur 6).arriving == [(12, ct 4)]) = true) := by decide +kernel

def arr (f : Furrow → Furrow) : State := fu (fun x => f { x with arriving := [(0x14, ct 7)] }) up
theorem test_arrival : (arr id).mod.inEn 5 0x14 = true ∧ (arr id).mod.inCtl 5 0x14 = true ∧
    ok (exec (.tokenArrival 5 0x14) (arr id)) (fun t => SMap.get [] (t.mod.fur 5).queues 0x14 == [ct 7]) = true ∧
    ok (exec (.tokenArrival 5 0x14) (arr (fun f => { f with sink := true }))) (fun t => t.mod.furReg 5 0x128 == 1 && (t.mod.fur 5).arriving.isEmpty) = true ∧
    ok (exec (.tokenArrival 5 0x14) (setr 0 44 0x2A0 1 (arr id))) (fun t => (t.mod.fur 5).sink && t.mod.reg 0 44 0x040 % 256 == 4 && t.mod.reg 0 44 0x038 == 0x200) = true := by
  decide +kernel
/-- Eight slots at Loft 0x2000. -/
def ext8 : Nat := 2 ^ 24 + 0x20 * 2 ^ 8
theorem test_extension : ringSlots ext8 = 8 ∧ slotHeader ext8 1 = 0x2008 ∧
    ok (exec (.tokenArrival 5 0x14) (setr 0 44 0x2A0 (ext8 + 7) (arr (fun f => { f with ext := [(0x14, (1, 2))] })))) (fun t =>
      SMap.get (0, 0) (t.mod.fur 5).ext 0x14 == (1, 3) && t.mod.rd (loftKey 5 + 0x2018) 8 == (ct 7).header) = true := by decide +kernel

/-- Injector 0: a control ring of eight slots fed by core counter 2, with `n` tokens produced and the first in place. -/
def inj (n : Nat) (gate : Nat) : State :=
  let s := setr 0 44 0x420 3 (setr 0 44 0x300 (ext8 + 2 * 2 ^ 3 + gate * 4 + 3) (setr 0 46 0x210 n (fu id up)))
  { s with mod := (s.mod.wr (loftKey 5 + 0x2000) 8 (ct 9).header).wr (loftKey 5 + 0x2100) 8 9 }
theorem test_injector : (inj 8 1).mod.injOpen 5 0 = true ∧ (inj 8 1).mod.injAvail 5 0 = 8 ∧ (inj 9 0).mod.injAvail 5 0 = 9 ∧ SMap.get [] ((inj 8 1).mod.fur 5).taken 0 = [] ∧
    ok (exec (.injectorTake 5 0) (inj 8 1)) (fun t => SMap.get [] (t.mod.fur 5).taken 0 == [ct 9] && t.mod.furReg 5 0x400 == 1 && t.mod.furReg 5 0x420 == 2) = true ∧
    ok (exec (.injectorTake 5 0) (inj 8 0)) (fun t => t.mod.furReg 5 0x400 == 1 && t.mod.furReg 5 0x420 == 3) = true ∧
    ok (exec (.injectorTake 5 0) (inj 9 0)) (fun t => (t.mod.fur 5).sink && t.mod.furReg 5 0x040 % 256 == 6) = true := by decide +kernel
/-- Ejector 1 into eight slots, its counter core counter 3. -/
def ej : State := setr 0 44 0x3A0 (ext8 + 3 * 2 ^ 3 + 1) (fu (fun f => { f with ejecting := [(1, ct 9)] }) up)
theorem test_ejector : ej.mod.ejRoom 5 1 = 8 ∧ (cntOf (scRef 5 3)).isSome = true ∧
    ok (exec (.ejectorWrite 5 1) ej) (fun t => (t.mod.fur 5).ejecting.isEmpty && t.mod.rd (loftKey 5 + 0x2000) 8 == (ct 9).header && t.mod.rd (loftKey 5 + 0x2100) 8 == 9 &&
      t.mod.furReg 5 0x448 == 1 && t.mod.reg 0 46 0x218 == 1) = true := by decide +kernel

def fctl (v : Word) : RegAcc := acc 0 44 0x100 v
theorem test_enter : (page 0 44 up).works (fctl 3) 0 44 0x100 = true ∧ bitOn 3 0 = true ∧ bitOn 3 3 = false ∧
    ok (exec (.furrowEnter (fctl 3)) (page 0 44 up)) (fun t => (t.mod.fur 5).loading && bits (t.mod.furReg 5 0x100) 1 1 == 1) = true ∧
    ok (exec (.furrowEnter (fctl 3)) (fu id up)) (fun t => !(t.mod.fur 5).loading && t.mod.furReg 5 0x038 == 0x800) = true := by decide +kernel
def armed (v : Nat) : State := setr 0 46 0x210 v (setr 0 44 0x120 4 (setr 0 44 0x118 (scRef 5 2) (setr 0 44 0x100 4 (page 0 44 up))))
theorem test_armed : (cntOf (scRef 5 2)).any (fun x => x.kind == 0 && x.die == 0 && x.page == corePage 5 6) = true ∧
    ok (exec (.furrowArmedEntry 5) (armed 4)) (fun t => (t.mod.fur 5).loading && bits (t.mod.furReg 5 0x100) 2 1 == 0) = true ∧
    ok (exec (.furrowArmedEntry 5) (armed 3)) (fun t => !(t.mod.fur 5).loading) = true := by decide +kernel
def loading (s : State) : State := fu (fun f => { f with stream := false, loading := true }) s
theorem test_entry_refused : ok (exec (.furrowEntryComplete 5) (loading (core 5 {}))) (fun t => !(t.mod.fur 5).stream && !(t.mod.fur 5).loading && t.mod.furReg 5 0x038 == 0x100 &&
    t.mod.furReg 5 0x040 % 256 == 1) = true := by decide +kernel
theorem test_entry : ((loading up).mod.setFur 5 { (loading up).mod.fur 5 with loading := false }).furCheck 5 none = none ∧
    ok (exec (.furrowEntryComplete 5) (loading up)) (fun t => (t.mod.fur 5).stream && bits (t.mod.seg 5) 14 1 == 1 && t.mod.furReg 5 0x020 == 2) = true := by decide +kernel
/-- An empty image of no parcels at Loft 0x4000. -/
def image : State := let s := setr 0 44 0x110 0x4000 (setr 0 44 0x100 2 (loading up)); { s with mod := s.mod.wr (loftKey 5 + 0x4000) 1 1 }
theorem test_entry_image : let g : Image := { base := 0x4000, p := 0, tmask := 0 }
    image.mod.rd (loftKey 5 + 0x4000) 16 = 1 ∧ g.size ≤ 0x400000 ∧
    ((image.mod.setFur 5 { image.mod.fur 5 with loading := false }).loadImage 5 g 0).furCheck 5 (some g) = none := by decide +kernel

theorem test_drain : (fu id up).works (fctl 8) 0 44 0x100 = true ∧ ok (exec (.furrowDrain (fctl 8)) (fu id up)) (fun t => (t.mod.fur 5).drainReq) = true := by decide +kernel
theorem test_drained : let s := fu (fun f => { f with drainReq := true }) up
    (s.mod.fur 5).isEmpty = true ∧ (∀ i, i < 16 → s.mod.inEn 5 i = false) ∧
    ok (exec (.furrowDrained 5) s) (fun t => (t.mod.fur 5).drained && t.mod.furReg 5 0x020 == 4) = true ∧
    laneNeighbour 5 (4 / 4) = some 6 ∧ ok (exec (.furrowDrained 5) (setr 0 44 0x220 1 s)) (fun t => !(t.mod.fur 5).drained) = true := by decide +kernel
theorem test_exit : ok (exec (.furrowExit (fctl 16)) (fu (fun f => { f with drained := true }) up)) (fun t => !(t.mod.fur 5).stream) = true ∧
    ok (exec (.furrowExit (fctl 16)) (fu id up)) (fun t => (t.mod.fur 5).stream && t.mod.furReg 5 0x038 == 0x400) = true := by decide +kernel
theorem test_steer : (steer0 6).mod.pickRule 5 = some 0 ∧ steer 6 [ct 1, ct 5] 0x16 0 = [(0x16, some (ct 1))] ∧
    ok (exec (.ruleDispatch 5) (steer0 6)) (fun t => (t.mod.fur 5).firings.map (fun x => x.outs) == [[(0x16, some (ct 1))]]) = true := by decide +kernel

/-! ### Die links -/

/-- Both ends of the link of CNW and BW enabled, in states `x` and `y`; ALLOW 0xFFF. -/
def lk (x y : Nat) : State := setr 0 2304 0x018 (x * 256) (setr 4 2081 0x018 (y * 256) (setr 0 2304 0x100 0xFFF0000 (setr 4 2081 0x100 0xFFF0000 (page 0 2304 (page 4 2081 up)))))
/-- In data mode with all bundles adopted. -/
def data0 : State := setr 0 2304 0x108 0xFFF (setr 4 2081 0x108 0xFFF (lk 3 3))
/-- A read of core 5 that waits at CNW's end of bundle 2 for its crossing to BW. -/
def toBarn (s : State) : State :=
  { s with mod := { s.mod with net := [{ id := 9, use := .load 5 1, q := 5, die := 0, mpa := 0x1000, len := 8, op := .read, sent := false, resp := none
                                         path := { born := 9, todo := [{ die := 0, page := 2304, k := 2 }] } }] } }
theorem test_check_frame : isLinkEnd 0 2304 = true ∧ data0.mod.linkState 0 2304 = 3 ∧ data0.mod.fld 0 2304 0x108 11 1 = 1 ∧
    ok (exec (.checkFrame 0 2304 11 0 0 0 0) data0) (fun t => (t.mod.bundle 0 2304 11).expect == 2 && (t.mod.bundle 4 2081 11).kept.length == 1) = true ∧
    ok (exec (.checkFrame 0 2304 11 0 0 0 1) data0) (fun t => t.mod.bundle 0 2304 11 == { naking := true } && t.mod.reg 0 2304 0x150 == 1) = true ∧
    ok (exec (.checkFrame 0 2304 11 0 2 0 0) data0) (fun t => t.mod.bundle 0 2304 11 == { naking := true }) = true := by decide +kernel
/-- The read's slot reaches BW, which owes nothing for it, and the read has arrived; a lost block leaves it where it was. -/
theorem test_crossing : (toBarn data0).mod.linkReady 0 2304 2 = [{ born := 9, vc := .req, flits := 0, read := true }] ∧
    (toBarn data0).mod.net.all (fun r => r.path.atEnd 0 2304 2) = true ∧
    ok (exec (.checkFrame 4 2081 2 0 0 0 0) (toBarn data0)) (fun t => t.mod.net.all (fun r => r.path.arrived) && (t.mod.bundle 0 2304 2).used.getD 0 9 == 1 &&
      (t.mod.bundle 4 2081 2).owed.getD 0 9 == 1) = true ∧
    ok (exec (.checkFrame 4 2081 2 0 0 0 5) (toBarn data0)) (fun t => t.mod.net.all (fun r => !r.path.arrived)) = true := by decide +kernel
/-- CRC-32C of one byte 1 is 0xF26B8303 with no inversions. -/
theorem test_crc : crc32cByte 0 1 = 0xF26B8303 := by decide +kernel
theorem test_replay : let s : State := { data0 with mod := data0.mod.setBundle 0 2304 3 { replay := true, replays := 6, kept := [⟨7, []⟩] } }
    (s.mod.bundle 0 2304 3).replays < 7 ∧ ok (exec (.replay 0 2304 3) s) (fun t =>
      t.mod.bundle 0 2304 3 == { replay := false, replays := 7, kept := [⟨7, []⟩], resend := [⟨7, []⟩] } && t.mod.reg 0 2304 0x148 == 1) = true := by decide +kernel
theorem test_check_timeout : data0.mod.linkEnabled 0 2304 = true := by decide +kernel
theorem test_beacon_send : linkPartner 0 2304 = some (4, 2081) ∧ data0.mod.inData 0 2304 = true ∧
    ok (exec (.beaconSend 0 2304) data0) (fun t => t.mod.beacons == [{ die := 4, page := 2081, epoch := t.aon.epoch 0, mask := 0xFFF }]) = true := by decide +kernel
def beacon (e m : Nat) : State := { data0 with mod := { data0.mod with beacons := [{ die := 0, page := 2304, epoch := e, mask := m }] } }
theorem test_beacon : linkOf 0 2304 = some (0, true) ∧ data0.mod.fld 0 2304 0x110 16 16 = 0 ∧ convMask 0 0xFFF = 0xFFF ∧
    ok (exec (.beaconReceive 0 2304) (beacon 0 0xFFF)) (fun t => t.mod.linkState 0 2304 == 3 && t.mod.beacons.isEmpty) = true ∧
    ok (exec (.beaconReceive 0 2304) (beacon 1 0xFFF)) (fun t => t.mod.linkState 0 2304 == 2 && t.mod.linkState 4 2081 == 2 && t.mod.fld 0 2304 0x108 48 4 == 2) = true ∧
    convMask 0 0x7FF ≠ data0.mod.fld 0 2304 0x108 0 12 := by decide +kernel
theorem test_reset_notice_link : ok (exec (.resetNotice 0 2304) { data0 with mod := { data0.mod with dr := [4] } }) (fun t => t.mod.linkState 0 2304 == 1) = true := by decide +kernel
/-- Bundle 1's clock fails with its redundant lane in frames that CNW receives, and data lane 5 of bundle 0 in those that BW receives, which a spare repairs. -/
theorem test_training : linkTable[0]? = some (0, 2304, 4, 2081) ∧ (lk 0 2).mod.mayTrain 0 2304 = true ∧ (lk 0 2).mod.mayTrain 4 2081 = true ∧
    (lk 0 2).aon.usable 0 [0, 2 ^ 68 + 2 ^ 71] [32] = 0xFFD ∧ (lk 0 2).aon.usable 0 [0, 2 ^ 68] [32] = 0xFFF := by decide +kernel
theorem test_train_ack : ok (exec (.trainAckTimeout 0 2304) (lk 2 2)) (fun _ => true) = true ∧ (lk 2 2).aon.powered = true := by decide +kernel
theorem test_down_retry : ok (exec (.downRetry 0 2304) (lk 5 5)) (fun t => t.mod.linkState 0 2304 == 2 && t.mod.fld 0 2304 0x108 48 4 == 6 && t.mod.linkState 4 2081 == 2) = true ∧
    (lk 5 5).mod.linkEnabled 4 2081 = true := by decide +kernel
def lctl (v : Word) : RegAcc := acc 0 2304 0x100 v
theorem test_retrain : (lk 3 4).works (lctl 0x550001) 0 2304 0x100 = true ∧
    ok (exec (.dielinkRetrain (lctl 0x550001)) (lk 3 4)) (fun t => t.mod.linkState 0 2304 == 2 && t.mod.linkState 4 2081 == 2 && t.mod.fld 0 2304 0x100 16 12 == 0x55) = true := by
  decide +kernel
theorem test_lp : ok (exec (.lpEnter (lctl 0xFFF0002)) (lk 3 3)) (fun t => t.mod.linkState 0 2304 == 4 && t.mod.linkState 4 2081 == 4 &&
      ok (exec (.lpExit none (lctl 0xFFF0000)) t) (fun u => u.mod.linkState 0 2304 == 3 && u.mod.linkState 4 2081 == 3)) = true ∧
    ok (exec (.lpExit (some (0, 2304)) (lctl 0)) (toBarn (lk 4 4))) (fun t => t.mod.linkState 0 2304 == 3 && t.mod.linkState 4 2081 == 3) = true := by decide +kernel

/-! ### Barns -/

/-- A far request of core 5 of `n` bytes at an MPA. -/
def far (a n : Nat) (o : Op) (s : State) : State :=
  { s with mod := { s.mod with net := [{ id := 9, use := .load 5 1, q := 5, die := 0, mpa := a, len := n, op := o, sent := true, resp := none }] } }
def farAns (x : Resp) (t : State) : Bool := t.mod.net.all (fun r => decide (r.resp = some x))
theorem test_barn_read : let s := far 0x1000 4 .read { up with mod := up.mod.wr (hbmKey 0 0x1000) 4 0xABCD }
    decodeMpa 0x1000 = .hbm 0x1000 ∧ (s.mod.findReq 9).any (fun r => r.resp.isNone && !r.use.isGone && !s.mod.mustFollow r) = true ∧
    s.mod.homeBarn (tableOf 0) 0x1000 = 0 ∧ s.mod.homeBarn 4 0x1000 = 0 ∧ s.mod.farWaits 0x1000 = false ∧ s.mod.deadStacks = [] ∧ s.mod.poisoned = [] ∧
    s.mod.bad = [] ∧ s.mod.rd (hbmKey 0 0x1000) 4 = 0xABCD := by decide +kernel
theorem test_barn_poison : let s := far 0x1000 64 (.write (2 ^ 64 - 1) 7) { up with mod := { up.mod with poisoned := [0x40] } }
    (s.mod.findReq 9).any (fun r => r.op == .write (2 ^ 64 - 1) 7 && r.len == 64) = true ∧ s.mod.poisoned.contains (hbmKey 0 0x1000 / 64) = true := by decide +kernel
/-- The tables differ in SPREAD of entry 0: CNW steers to BW what BW gives to BE. -/
theorem test_barn_denied : let s := far 0x2000 4 .read (setr 4 placePage 0x200 1 up)
    tableOf 1 = 5 ∧ (far 0x1000 4 .read (setr 4 placePage 0x200 1 up)).mod.homeBarn 5 0x1000 = 0 ∧ (far 0x1000 4 .read (setr 4 placePage 0x200 1 up)).mod.homeBarn 4 0x1000 = 1 ∧
    (let r := far 0x1000 4 .read (setr 4 placePage 0x200 1 up)
     ok (exec (.barnRead 9) { r with mod := { r.mod with net := r.mod.net.map (fun x => { x with die := 1, owned := false }) } }) (fun t => farAns .err t && t.mod.reg 4 placePage 0x038 == 0x100) = true) ∧
    s.mod.bad = [] := by decide +kernel
theorem test_fast : (far 0x1000 8 (.accFast 0xFF (5 + 2 ^ 32 * 7) 2) up).mod.accAt 4 0x1000 = none ∧
    (far 0x1000 8 (.accFast 0xFF (5 + 2 ^ 32 * 7) 2) up).mod.accAt 4 0x1007 = none ∧ fastSum 2 0xFFFFFFFE 5 % 2 ^ 32 = 3 ∧
    fastSum 0 0x3F800000 0x3F800000 = 0x40000000 := by decide +kernel
/-- Buffer 2 of BW: four integers at 0x1000, bins from 0x10. -/
def bufr (s : State) : State := setr 4 granaryPage (accOffset 2 0) 0x1001 (setr 4 granaryPage (accOffset 2 1) (2 ^ 48 + 0x10 * 2 ^ 24 + 4) (page 4 granaryPage s))
theorem test_exact : let s := far 0x1004 8 (.accExact 0xFF (5 + 2 ^ 32 * 0xFFFFFFFF) 2) (bufr up)
    s.mod.accAt 4 0x1004 = some 2 ∧ s.mod.accInt 4 2 = true ∧ s.mod.binKey 4 2 1 = 4 * 2 ^ 24 + 0x11 ∧ contribution true 0 0xFFFFFFFF = .inl (-1) ∧
    ok (exec (.accumulatingWriteExact 9) s) (fun t => farAns .ok t && SMap.get 0 t.mod.bins (4 * 2 ^ 24 + 0x11) == 5 &&
      SMap.get 0 t.mod.bins (4 * 2 ^ 24 + 0x12) == -1 && t.mod.mem.isEmpty) = true := by decide +kernel
theorem test_accumulate_refused : ok (exec (.accumulatingWriteExact 9) (far 0x1000 8 (.accExact 0xFF 5 2) up)) (fun t => farAns .err t && t.mod.reg 4 granaryPage 0x038 == 0x400) = true ∧
    ok (exec (.accumulatingWriteFast 9) (far 0x1004 4 (.accFast 15 5 2) (bufr up))) (fun t => farAns .err t && t.mod.reg 4 granaryPage 0x038 == 0x400) = true := by decide +kernel

theorem test_window : decodeMpa (0x40000000000 + 6 * 0x400000 + 0x100) = .loft 6 0x100 ∧ (up.mod.windowDenied 0 0 6 = none) ∧ up.mod.coreSweep 6 = false ∧
    ok (exec (.loftWindowAccess 9) (far (0x40000000000 + 6 * 0x400000 + 0x100) 4 (.write 15 0x1234) up)) (fun t => farAns .ok t && t.mod.rd (loftKey 6 + 0x100) 4 == 0x1234) = true ∧
    ok (exec (.loftWindowAccess 9) (far (0x40000000000 + 6 * 0x400000 + 0x100) 4 .read { up with mod := up.mod.wr (loftKey 6 + 0x100) 4 7 })) (farAns (.data 7)) = true := by decide +kernel
/-- From another die, without DIE_EN. -/
theorem test_window_denied : let s := far (0x40000000000 + 6 * 0x400000 + 0x100) 4 .read up
    let t := { s with mod := { s.mod with net := s.mod.net.map (fun x => { x with die := 1, q := 0x105, tag := 0 }) } }
    t.mod.windowDenied 0 1 6 = some 8 ∧ ok (exec (.loftWindowAccess 9) t) (fun u => farAns .err u && u.mod.reg 0 2054 0x038 == 0x100) = true := by decide +kernel

theorem test_patrol : let s : State := { setr 4 2064 0x108 5 up with mod := { (setr 4 2064 0x108 5 up).mod with bad := [hbmKey 0 0 / 8 + 1] } }
    stackOf 0 0 = 0 ∧ s.mod.wordsOk (hbmKey 0 0) 64 = false ∧ s.mod.deadStacks = [] ∧
    s.mod.fld 4 2064 0x108 0 16 ≠ 0 := by decide +kernel
theorem test_controllers : ok (exec (.ecsRead 7 9) up) (fun t => t.mod.reg 5 2067 0x150 == 9) = true ∧
    ok (exec (.doubledRefresh 7 86) up) (fun t => t.mod.fld 5 2067 0x100 8 8 == 86 && t.mod.fld 5 2067 0x100 1 1 == 1) = true ∧
    ok (exec (.doubledRefresh 7 85) up) (fun t => t.mod.fld 5 2067 0x100 1 1 == 0) = true := by decide +kernel

theorem test_acc_enable : let s := setr 4 granaryPage 0x100 1 (setr 4 granaryPage (accOffset 2 1) (0x10 * 2 ^ 24 + 4) (page 4 granaryPage up))
    let a := acc 4 granaryPage (accOffset 2 0) 0x1001
    s.works a 4 granaryPage (accOffset 2 0) = true ∧ (s.mod.setFld 4 granaryPage (accOffset 2 0) 6 38 0x40).accCheck 4 2 = none ∧
    ok (exec (.accEnable a) { s with mod := { s.mod with bins := [(4 * 2 ^ 24 + 0x11, 9)] } }) (fun t => t.mod.accEn 4 2 && t.mod.accBase 4 2 == 0x1000 && t.mod.bins.isEmpty) = true := by
  decide +kernel
/-- No elements: reason 1. -/
theorem test_acc_enable_refused : ok (exec (.accEnable (acc 4 granaryPage (accOffset 2 0) 0x1001)) (page 4 granaryPage up)) (fun t => !t.mod.accEn 4 2 &&
    t.mod.reg 4 granaryPage 0x038 == 0x200 && t.mod.reg 4 granaryPage 0x040 % 2 ^ 32 == 0x102) = true := by decide +kernel
def bb (s : State) : State := { bufr s with mod := { (bufr s).mod with bins := [(4 * 2 ^ 24 + 0x11, 9)] } }
theorem test_acc_disable : let a := acc 4 granaryPage (accOffset 2 0) 0x1000
    (bb up).mod.accBusy 4 2 = false ∧ ok (exec (.accDisable a) (bb up)) (fun t => !t.mod.accEn 4 2 && t.mod.bins.isEmpty) = true ∧
    ok (exec (.accDisable a) (setr 4 granaryPage (accOffset 2 5) 1 (bb up))) (fun t => t.mod.accEn 4 2 && t.mod.accOff == [66] && !t.mod.bins.isEmpty) = true := by decide +kernel
theorem test_granary_ctrl : ok (exec (.granaryCtrlWrite (acc 4 granaryPage 0x100 9)) (page 4 granaryPage up)) (fun t => t.mod.fld 4 granaryPage 0x100 0 4 == 8) = true ∧
    (∀ n, n < 16 → (page 4 granaryPage up).mod.accEn 4 n = false) ∧
    ok (exec (.granaryCtrlWrite (acc 4 granaryPage 0x100 9)) (bufr up)) (fun t => t.mod.reg 4 granaryPage 0x038 == 0x800) = true := by decide +kernel
theorem test_finalise : let a := acc 4 granaryPage (accOffset 2 3) 2
    (bb up).works a 4 granaryPage (accOffset 2 3) = true ∧ (bb up).mod.accMoved = [] ∧ (bb up).mod.badBins = [] ∧ (bb up).mod.binValue 4 2 1 = 9 ∧
    ok (exec (.finalise a) (bb up)) (fun t => t.mod.rd (hbmKey 0 0x1004) 4 == 9 && t.mod.bins.isEmpty && t.mod.accBusy 4 2) = true := by decide +kernel
theorem test_bin_value : ({ bb up with mod := { (bb up).mod with bins := [(4 * 2 ^ 24 + 0x11, BitVec.ofNat 128 (2 ^ 128 - 2))] } }).mod.binValue 4 2 1 = 0xFFFFFFFE := by decide +kernel
/-- DONE of descriptor 2 names die counter 0 of die 0, with an interrupt. -/
theorem test_finalise_complete : let s := setr 4 granaryPage (accOffset 2 4) (3 * 2 ^ 32 + dcRef 0 0) (setr 4 granaryPage (accOffset 2 5) 1 (bufr (lk 3 3)))
    s.mod.routeCut 4 0 0x50000906200 = false ∧ ok (exec (.finaliseComplete 4 2) { s with mod := { s.mod with accOps := [{ die := 4, n := 2, fin := true, keep := false, zero := false }] } }) (fun u =>
      !u.mod.accBusy 4 2 && u.mod.accOps.isEmpty && bits (u.mod.accReg 4 2 5) 32 32 == 1 && u.mod.reg 4 granaryPage 0x020 == 2 &&
        u.mod.incs.map (fun x => (x.ref, x.amount, x.q)) == [(dcRef 0 0, 1, 0xF04)]) = true := by decide +kernel
theorem test_finalise_busy : ok (exec (.finalise (acc 4 granaryPage (accOffset 2 3) 2)) (page 4 granaryPage up)) (fun t => t.mod.reg 4 granaryPage 0x038 == 0x800) = true := by decide +kernel
theorem test_zero : ok (exec (.zero (acc 4 granaryPage (accOffset 2 3) 1)) (setr 4 granaryPage (accOffset 2 5) 14 (bb up))) (fun t => t.mod.bins.isEmpty &&
      bits (t.mod.accReg 4 2 5) 1 3 == 0 && t.mod.accBusy 4 2 &&
      ok (exec (.zeroComplete 4 2) t) (fun u => !u.mod.accBusy 4 2 && u.mod.incs.isEmpty)) = true := by decide +kernel
/-- Entry 0 of BW: SPREAD and NOALLOC; its partner takes SPREAD alone, and buffer 2 has moved. -/
theorem test_placement : (page 4 placePage up).works (acc 4 placePage 0x200 3) 4 placePage 0x200 = true ∧
    ok (exec (.placeEntWrite (acc 4 placePage 0x200 3)) (page 4 placePage (bufr up))) (fun t => t.mod.reg 4 placePage 0x200 == 3 && t.mod.reg 4 placePage 0x300 == 1 &&
      t.mod.accMoved == [66] && t.mod.reg 4 placePage 0x038 == 0x200) = true := by decide +kernel

/-! ### Cadence -/

/-- BW's CAD page enabled, and the island as changed. -/
def isl (f : AlwaysOn → AlwaysOn) (s : State) : State := { page 4 cadBw s with aon := f s.aon }
theorem test_pps_glitch : ok (exec (.ppsEdge 5) (isl (fun a => { a with ppsLast := some 0 }) up)) (fun t => t.aon.cntPpsGlitch == 1 && t.aon.ppsLast == some 0) = true := by decide +kernel
theorem test_pps_free : (isl id up).mod.align = false ∧ (isl id up).mod.secPend = false ∧
    ok (exec (.ppsEdge 0) (isl (fun a => { a with ppsLost := true, time := 7 * 2 ^ 32 }) up)) (fun t => !t.aon.ppsLost && t.aon.ppsCapt == 7 && t.aon.time == 7 * 2 ^ 32) = true := by decide +kernel
/-- A quarter of a second late: the first edge under ALIGN steps TIME back to the second. -/
theorem test_pps_step : let s := setr 4 cadBw 0x110 1 (isl (fun a => { a with time := 9 * 2 ^ 64 + 2 ^ 62 }) up)
    s.mod.align = true ∧ ok (exec (.ppsEdge 0) s) (fun t => t.aon.time == 9 * 2 ^ 64 && t.aon.ppsLocked && bits (t.mod.reg 4 cadBw 0x020) 4 1 == 1) = true := by decide +kernel
/-- An error of 10^8 units within the step threshold: CORR is -1, and both shifts are 0. -/
theorem test_pps_steer : let s := setr 4 cadBw 0x110 0xFFFF0001 (isl (fun a => { a with time := 9 * 2 ^ 64 + 100000000, ppsLocked := true }) up)
    ok (exec (.ppsEdge 0) s) (fun t => t.aon.time == 9 * 2 ^ 64 + 100000000 && t.aon.trim == -1 && t.aon.phase == -1 && t.aon.incr == (s.mod.nom : Int) - 2) = true := by decide +kernel
theorem test_pps_lost : ok (exec .ppsLost (isl (fun a => { a with ppsLast := some 0, ppsLocked := true, phase := 3, trim := 2 }) up)) (fun t => t.aon.ppsLost && !t.aon.ppsLocked &&
    t.aon.phase == 0 && t.aon.incr == (up.mod.nom : Int) + 2 && t.mod.reg 4 cadBw 0x020 == 1) = true := by decide +kernel

def tctl (v : Word) : RegAcc := acc 4 cadBw 0x110 v
def sec5 (s : State) : State := setr 4 cadBw 0x108 (5 * 2 ^ 32 + 0x80000000) s
theorem test_sec_apply : (isl id up).works (tctl 2) 4 cadBw 0x110 = true ∧
    ok (exec (.secApply (tctl 2)) (sec5 (isl (fun a => { a with time := 3 * 2 ^ 64 + 9 }) up))) (fun t => t.aon.time == 5 * 2 ^ 64 + 9) = true ∧
    ok (exec (.secApply (tctl 3)) (setr 4 cadBw 0x110 1 (sec5 (isl (fun a => { a with time := 9, ppsLocked := true }) up)))) (fun t => t.mod.secPend && t.aon.time == 9) = true := by
  decide +kernel
theorem test_load_time : ok (exec (.load (tctl 4)) (sec5 (isl id up))) (fun t => t.aon.time == (5 * 2 ^ 32 + 0x80000000) * 2 ^ 32) = true ∧
    ok (exec (.load (tctl 5)) (sec5 (isl id up))) (fun t => t.aon.time == 0 && t.mod.reg 4 cadBw 0x038 == 0x1000) = true := by decide +kernel
theorem test_time_latch : let a := { acc 4 cadBw 0x100 0 with size := 4 }
    let s := isl (fun a => { a with time := 7 * 2 ^ 64 }) up
    isReq a.q = true ∧ s.mod.regRefused a.q 4 cadBw 0x100 4 = none ∧ ok (exec (.cadTimeLowRead a) s) (fun t => t.mod.timeLatch == some 7) = true := by decide +kernel

theorem test_frame_cfg : let a := acc 4 cadBw 0x138 (1 + 3 * 2 ^ 8 + 100 * 2 ^ 16)
    (isl id up).works a 4 cadBw 0x138 = true ∧ ok (exec (.frameCfgWrite a) (isl id up)) (fun t => t.mod.fld 4 cadBw 0x138 8 4 == 3 && t.mod.fld 4 cadBw 0x138 16 14 == 100 && t.aon.lpf == 1125) = true ∧
    ok (exec (.frameCfgWrite (acc 4 cadBw 0x138 (12 * 2 ^ 8 + 9000 * 2 ^ 16))) (isl id up)) (fun t => t.mod.fld 4 cadBw 0x138 8 4 == 1 && t.mod.fld 4 cadBw 0x138 16 14 == 1125) = true := by
  decide +kernel
theorem test_new_frame : let s := isl (fun a => { a with frameNum := 4, line := 9, begun := true, lpf := 10 }) up
    (let t := newFrame 77 s; t.aon.frameNum == 5 && t.aon.line == 0 && t.aon.lastEdge == 77 && t.mod.ticks.length == 6) = true := by decide +kernel
theorem test_free_run : let s := isl id up
    s.aon.source = 0 ∧ 0 < s.aon.incr ∧ ok (exec .freeRunEdge s) (fun t => t.aon.frameNum == 1 && t.aon.lastEdge == gridEdge s.aon 1) = true := by decide +kernel
/-- House source, P of 2^59: edges at less than 2^64 / 125 and at less than half of P are glitches. -/
def house (f : AlwaysOn → AlwaysOn) : State := setr 4 cadBw 0x138 0x4650101 (isl (fun a => f { a with source := 1, period := 2 ^ 59, lpf := 1, mono := 2 ^ 60, lastEdge := 2 ^ 60 - 2 ^ 58 - 9 }) up)
theorem test_frame_in : ok (exec (.frameInEdge 0) (house (fun a => { a with lastEdge := 2 ^ 60 - 5 }))) (fun t => t.aon.cntFrameGlitch == 1 && t.aon.frameNum == 0) = true ∧
    (2 ^ 64 ≤ (2 ^ 58 + 9) * 125 ∧ 2 ^ 64 ≤ (2 ^ 58 - 9) * 125) ∧
    ok (exec (.frameInEdge 0) (house (fun a => { a with lastEdge := 2 ^ 60 - 2 ^ 58 + 9 }))) (fun t => t.aon.cntFrameGlitch == 1 && t.aon.frameNum == 0) = true ∧
    ok (exec (.frameInEdge 0) (house (fun a => { a with lastIn := some (2 ^ 60 - 2 ^ 59), accepted := 1 }))) (fun t => t.aon.frameNum == 1 && t.aon.lastEdge == 2 ^ 60 &&
      t.aon.locked && t.aon.period == 2 ^ 59 && bits (t.mod.reg 4 cadBw 0x020) 5 1 == 1) = true ∧
    ok (exec (.frameInEdge 0) (house (fun a => { a with holdover := true, lastEdge := 2 ^ 60 - 2 ^ 58 + 9 }))) (fun t => t.aon.frameNum == 0 && !t.aon.holdover && t.aon.lastEdge == 2 ^ 60) = true := by
  decide +kernel
theorem test_frame_lost : ok (exec .frameLost (house id)) (fun t => t.aon.holdover && !t.aon.locked && t.mod.reg 4 cadBw 0x020 == 2) = true ∧
    ok (exec .holdoverEdge (house (fun a => { a with holdover := true, holdBase := 2 ^ 60, holdK := 1 }))) (fun t => t.aon.frameNum == 1 && t.aon.lastEdge == 2 ^ 60 + 2 ^ 59 && t.aon.cntHold == 1) = true := by
  decide +kernel
theorem test_line : ok (exec .lineBoundary (isl (fun a => { a with begun := true, lpf := 4, line := 1, frameNum := 6 }) up)) (fun t => t.aon.line == 2 && t.mod.ticks.length == 6 &&
    t.mod.ticks.head? == some (Tick.mk 0 6 2 4 false)) = true := by decide +kernel

/-- A tick word for die 0, whose unit is at line 1 of frame 7, of `n` lines (none: no frame adopted). -/
def tick (frame line n : Nat) : State := let s := page 0 2308 (setr 0 2308 0x150 1 (setr 0 2308 0x148 7 up))
  { s with mod := { s.mod with ticks := [Tick.mk 0 frame line 4 false], unitLpf := if n = 0 then [] else [(0, n)] } }
def pos (t : State) : Nat × Nat := (t.mod.cad 0 0x148, t.mod.fld 0 2308 0x150 0 13)
theorem test_tick : (tick 7 2 3).mod.enabled 0 (cadPage 0) = true ∧ ok (exec (.tickWord 0 true) (tick 7 2 3)) (fun t => pos t == (7, 2) && t.mod.ticks.isEmpty && t.mod.reg 0 2308 0x038 == 0) = true ∧
    ok (exec (.tickWord 0 true) (tick 8 0 2)) (fun t => pos t == (8, 0) && t.mod.reg 0 2308 0x038 == 0) = true := by decide +kernel
theorem test_tick_adopt : ok (exec (.tickWord 0 true) (tick 9 0 0)) (fun t => pos t == (9, 0) && SMap.get 0 t.mod.unitLpf 0 == 4) = true := by decide +kernel
theorem test_tick_gap : ok (exec (.tickWord 0 true) (tick 9 0 2)) (fun t => pos t == (9, 0) && bits (t.mod.reg 0 2308 0x038) 10 1 == 1) = true := by decide +kernel
theorem test_tick_parity : ok (exec (.tickWord 0 false) (tick 7 2 3)) (fun t => pos t == (7, 1) && t.mod.reg 0 2308 0x038 == 0x400) = true := by decide +kernel

/-- Slot 3 of die 0 at every frame's line 0, with action `act` and arguments; the line is entered. -/
def slot (act a0 a1 : Nat) (s : State) : State :=
  setr 0 2308 0x140 8 (setr 0 2308 0x860 (act * 2 ^ 61) (setr 0 2308 0x868 a0 (setr 0 2308 0x870 a1 (page 0 2308 s))))
def fires (act a0 a1 : Nat) (s : State) : Mod := (slot act a0 a1 s).mod.fireSlot 0 3 7 0 4
theorem test_slot : let s : State := { slot 1 (dcRef 0 0) 5 up with mod := { (slot 1 (dcRef 0 0) 5 up).mod with ticks := [Tick.mk 0 7 0 4 false] } }
    s.mod.cad 0 0x140 = 2 ^ 3 ∧ (∀ w, w < 16 → bits (s.mod.cad 0 (winOff w + 0x10)) 48 2 = 0) ∧ slotMatch (s.mod.slotWhen 0 3) 7 0 = true ∧ s.mod.slotOk 0 3 = true ∧
    s.mod.routeCut 0 0 0x50000906200 = false ∧
    ok (exec (.tickWord 0 true) s) (fun t => t.mod.incs.map (fun x => (x.ref, x.amount, x.q)) == [(dcRef 0 0, 5, 0xF00)] && t.mod.cad 0 0x148 == 7) = true := by decide +kernel
/-- Column 5 of row 0; Wain W0 of core 5 at Loft 0x40; an intake; gate 1 of core 5; a deadline window; a reference of no counter. -/
theorem test_slot_acts : bits ((fires 2 (1 + 2 ^ 21) 0 up).reg 0 (corePage 5 0) 0x020) 0 1 = 1 ∧
    ((fires 3 (2 ^ 44 + 0x40) 5 (page 0 42 up)).wainState 10 = 1 ∧ ((fires 3 (2 ^ 44 + 0x40) 5 (page 0 42 up)).wain 10).next = 2 ^ 44 + 0x40) ∧
    bits ((fires 3 (2 ^ 44 + 0x40) 5 (wn 1 id up)).reg 0 2308 0x038) 9 1 = 1 ∧ (fires 4 0x1000 0 up).intakes = [Intake.mk 0 3 0x1000 0] ∧
    (fires 5 0x105 0 (setr 0 44 0x330 0xFFFF (setr 0 44 0x428 9 up))).fld 0 44 0x428 0 16 = 0xFFFF ∧
    (fires 6 (dcRef 0 0) 4 (dc 7 up)).cad 0 (winOff 0 + 8) = 11 ∧ bits ((fires 6 (dcRef 0 0) 4 (dc 7 up)).cad 0 (winOff 0 + 0x10)) 48 2 = 1 ∧
    bits ((fires 1 0xFFFFFFFF 4 up).reg 0 2308 0x038) 9 1 = 1 := by decide +kernel
theorem test_slot_enable : let a := acc 0 2308 0x140 8
    (page 0 2308 up).works a 0 2308 0x140 = true ∧
    ok (exec (.slotEnable a) (setr 0 2308 0x618 5 (setr 0 2308 0x140 0 (slot 1 (dcRef 0 0) 5 up)))) (fun t => t.mod.cad 0 0x140 == 8 && t.mod.cad 0 0x618 == 0) = true ∧
    ok (exec (.slotEnable a) (setr 0 2308 0x140 0 (slot 7 0 0 up))) (fun t => t.mod.cad 0 0x140 == 0 && t.mod.reg 0 2308 0x038 == 0x100) = true := by decide +kernel
theorem test_intake_sample : let s := setr 0 2308 0x168 100 (slot 4 0x1000 0 up)
    s.aon.locked = false ∧ s.mod.slotOk 0 3 = true ∧ s.mod.standby = false ∧
    ok (exec (.intakePeriodSample 0) s) (fun t => t.mod.intakes == [Intake.mk 0 3 0x1000 0]) = true := by decide +kernel

/-- The read of INTAKE slot 3 of die 0, whose counter is die counter 0: on its way, or answered with `x`. -/
def intake (x : Option Resp) : State :=
  { up with mod := { up.mod with
      intakes := [{ die := 0, slot := 3, mpa := 0x1000, arg := 2 ^ 32 + dcRef 0 0 }]
      net := [{ id := 9, use := .fetch 0x20003, q := 0xF00, die := 0, mpa := 0x1000, len := 8, op := .read, sent := true, resp := x }] } }
theorem test_intake_begin : ({ up with mod := { up.mod with intakes := [Intake.mk 0 3 0x1000 0] } } : State).mod.fetched 0x20003 0x1000 8 = none ∧
    ok (exec (.intakeReadResponse 0) { up with mod := { up.mod with intakes := [Intake.mk 0 3 0x1000 0] } }) (fun t => t.mod.net.length == 1 && t.mod.intakes.length == 1) = true := by
  decide +kernel
theorem test_intake_wait : (((intake none).mod.fetched 0x20003 0x1000 8).any (fun r => r.answer.isNone)) = true ∧
    gives (exec (.intakeReadResponse 0) (intake none)) (intake none) = true := by decide +kernel
theorem test_intake_new : (cntOf (dcRef 0 0)).any (fun y => !up.mod.routeCut 0 y.die y.mpa) = true ∧
    ok (exec (.intakeReadResponse 0) (intake (some (.data 5)))) (fun t => t.mod.cad 0 0x618 == 5 && t.mod.incs.length == 1 && t.mod.intakes.isEmpty && t.mod.net.isEmpty) = true ∧
    ok (exec (.intakeReadResponse 0) (intake (some (.data 0)))) (fun t => t.mod.incs.isEmpty && t.mod.intakes.isEmpty) = true ∧
    ok (exec (.intakeReadResponse 0) (intake (some .poison))) (fun t => bits (t.mod.reg 0 2308 0x038) 9 1 == 1 && t.mod.intakes.isEmpty) = true := by decide +kernel

theorem test_sheaf_inc : let a := acc 0 2310 0x100 (0 * 2 ^ 32 + 5)
    (page 0 2310 up).works a 0 2310 0x100 = true ∧ (sheafIncRef 0 2310 5).isSome = true ∧ blockAt 0 2310 = some (.sheaf, 0) ∧
    ok (exec (.sheafInc a) (dc 7 (page 0 2310 up))) (fun t => t.mod.reg 0 2310 0x200 == 12) = true := by decide +kernel
theorem test_stook_mask : let a := acc 0 2313 0x178 (2 ^ 63 + 0xFFF)
    (page 0 2313 up).works a 0 2313 0x178 = true ∧ ok (exec (.stookMaskWrite a) (page 0 2313 up)) (fun t => t.mod.reg 0 2313 0x178 == 2 ^ 63) = true := by decide +kernel
theorem test_watch_capture : let a := acc 0 2314 0x100 0x800000000000FFFF
    let s := setr 0 2314 0x100 0xFFFF (page 0 2314 (core 5 {}))
    s.works a 0 2314 0x100 = true ∧ bitOn a.v 63 = true ∧ s.mod.watchExcluded 5 = false ∧ s.mod.coreBlocked 5 = false := by decide +kernel
theorem test_chute_enable : let a := acc 0 (corePage 6 5) 0x140 (2 ^ 8 * 5 + 2 ^ 24 + 1)
    (page 0 53 up).works a 0 53 0x140 = true ∧
    ok (exec (.chuteEnable a) (setr 0 53 0x148 3 (page 0 53 up))) (fun t => t.mod.chuteReg 6 2 0 % 2 == 1 && t.mod.chuteSize 6 2 == 32 && t.mod.chuteReg 6 2 1 == 0) = true ∧
    ok (exec (.chuteEnable { a with v := a.v + 0x3FFF000000 - 0x1000000 }) (page 0 53 up)) (fun t => t.mod.chuteReg 6 2 0 % 2 == 0 && t.mod.reg 0 53 0x038 == 0x200) = true := by decide +kernel

/-! ### The host port -/

/-- The PCIe link is up; the function is in D0. -/
def linked (s : State) : State := setr 4 hostportPage 0x100 1 (page 4 hostportPage s)
def loft6 : Nat := 6 * 0x400000 + 0x100
theorem test_host_loft : (linked up).linkUp = true ∧ (linked up).mod.mrSweep = false ∧ (linked up).mod.d3 = false ∧ (linked up).mod.hostQ = [] ∧
    decodeMpa (0x40000000000 + loft6) = .loft 6 0x100 ∧ (linked (lk 3 3)).mod.routeCut 4 0 0 = false ∧
    ok (exec (.hostMemoryWrite 4 loft6 4 0x11223344 false 0 0 0) (linked (lk 3 3))) (fun t => t.mod.out.isEmpty && t.mod.hostQ.length == 1 &&
      t.mod.net.all (fun r => r.mpa == 0x40000000000 + loft6 && r.op == .write 15 0x11223344 && r.path.todo.length == 1)) = true := by decide +kernel
/-- A host access of four bytes that has reached core 6's stop. -/
def hostAt (o : Op) (s : State) : State :=
  { s with mod := { s.mod with
      net := [{ id := 9, use := .host 3, q := hostCode, die := 4, mpa := 0x40000000000 + loft6, len := 4, op := o, sent := false, resp := none }]
      hostQ := [{ id := 3, write := o.writes, len := 4, tag := 7 }] } }
theorem test_host_performed : ok (exec (.loftWindowAccess 9) (hostAt (.write 15 0x11223344) (linked up))) (fun t =>
      t.mod.rd (loftKey 6 + 0x100) 4 == 0x11223344 && t.mod.out.isEmpty && t.mod.hostQ.isEmpty) = true ∧
    ok (exec (.loftWindowAccess 9) (hostAt .read { linked up with mod := (linked up).mod.wr (loftKey 6 + 0x100) 4 9 })) (fun t =>
      t.mod.out == [.completion 7 4 9 false]) = true := by decide +kernel
def retired6 : State := setr 0 2309 0x300 0x40 (linked up)
theorem test_host_retired : retired6.mod.retired 6 = true ∧
    ok (exec (.loftWindowAccess 9) (hostAt (.write 15 1) retired6)) (fun t => t.mod.mem.isEmpty && t.mod.reg 4 hostportPage 0x038 == 0x100) = true ∧
    ok (exec (.loftWindowAccess 9) (hostAt .read retired6)) (fun t => t.mod.out == [.completion 7 4 0 false] && t.mod.reg 4 hostportPage 0x038 == 0x100) = true := by
  decide +kernel
/-- A host read whose one granule has come back poisoned. -/
theorem test_host_settle : (hostAt .read up).mod.hostParts 3 = (hostAt .read up).mod.net ∧
    (let m : Mod := { (hostAt .read (linked up)).mod with net := (hostAt .read (linked up)).mod.net.map (fun r => { r with resp := some .poison }) }
     m.hostSettle.out = [.completion 7 4 0 true] ∧ m.hostSettle.hostQ = [] ∧ m.hostSettle.net = []) := by decide +kernel
theorem test_host_poisoned : ok (exec (.hostMemoryWrite 4 loft6 4 1 true 5 0 0) (linked (lk 3 3))) (fun t => t.mod.mem.isEmpty && bits (t.mod.reg 4 hostportPage 0x038) 11 1 == 1) = true := by
  decide +kernel
/-- Offset of CFG_EPOCH of CNW's steward in BAR0. -/
def bar0 : Nat := regMpa 0 2309 0x058 - 0x50000000000
theorem test_host_register : decodeMpa (0x50000000000 + bar0) = .reg 0 2309 0x058 ∧ bar0 < 0xC000000 ∧
    ok (exec (.hostMemoryWrite 0 bar0 8 5 false 0 0 0) (linked (lk 3 3))) (fun t => t.mod.reg 0 2309 0x058 == 5) = true ∧
    ok (exec (.hostMemoryRead 0 bar0 8 3) (setr 0 2309 0x058 6 (linked (lk 3 3)))) (fun t => t.mod.out == [.completion 3 8 6 false]) = true := by decide +kernel
theorem test_host_d3 : let s := { linked up with mod := { (linked up).mod with d3 := true } }
    managementRead (s.mod.rx.barTo 4 loft6) = false ∧ ok (exec (.hostMemoryWrite 4 loft6 4 1 false 0 0 0) s) (fun t => t.mod.mem.isEmpty) = true ∧
    ok (exec (.hostMemoryRead 4 loft6 4 7) s) (fun t => t.mod.out == [.unsupported 7]) = true := by decide +kernel

/-- Entry 0 of the window maps PCIe address 0x5000. -/
def win (s : State) : State := setr 4 hostportPage 0x800 (2 ^ 63 + 5) (linked s)
theorem test_window_out : decodeMpa 0x60000000040 = .host 0x40 ∧ (win up).mod.hostAddr 0x60000000040 = some (0x5040, false) ∧ (win up).mod.hostUp = true ∧
    (let s := far 0x60000000040 4 .read (win up)
     let s1 : State := { s with mod := { s.mod with net := s.mod.net.map (fun r => { r with sent := false }) } }
     ok (exec (.hostWindowAccess 9) s1) (fun t => t.mod.out == [.memRead 9 0x5040 4 false] && t.mod.net.all (fun r => r.sent)) = true) ∧
    (let s := far 0x60000000040 4 (.write 15 7) (win up)
     let s1 : State := { s with mod := { s.mod with net := s.mod.net.map (fun r => { r with sent := false }) } }
     ok (exec (.hostWindowAccess 9) s1) (fun t => t.mod.out == [.memWrite 0x5040 4 15 7 false] && farAns .ok t) = true) := by decide +kernel
theorem test_window_unmapped : let s := far 0x60000000040 4 .read (linked up)
    let s1 : State := { s with mod := { s.mod with net := s.mod.net.map (fun r => { r with sent := false }) } }
    s1.mod.hostAddr 0x60000000040 = none ∧ ok (exec (.hostWindowAccess 9) s1) (fun t => farAns .err t && t.mod.reg 4 hostportPage 0x038 == 0x100) = true := by decide +kernel
theorem test_host_completion : let s := far 0x60000000040 4 .read (win up)
    (s.mod.hostWaits 9).isSome = true ∧ ok (exec (.hostCompletion 9 0 0x1FFFFFFFF) s) (farAns (.data 0xFFFFFFFF)) = true ∧
    ok (exec (.hostCompletion 9 1 0) s) (fun t => farAns .err t && t.mod.reg 4 hostportPage 0x038 == 0x100) = true ∧
    ok (exec (.hostCompletion 9 2 0) s) (farAns .poison) = true ∧
    ok (exec (.completionTimeout 9) s) (fun t => farAns .err t && bits t.mod.aer 14 1 == 1 && bits (t.mod.reg 4 hostportPage 0x038) 10 1 == 1) = true := by decide +kernel

/-- Vector 7: address 0x9000, data 3, unmasked, MSI-X enabled. -/
def vec7 (mask : Nat) (s : State) : State :=
  { linked s with mod := { (linked s).mod with msixTab := [(21, 0x9000), (22, 3), (23, BitVec.ofNat 64 mask)], cfgSpace := [(0x2C, 0x80000000)] } }
theorem test_msix : let a := acc 4 hostportPage 0x110 7
    (vec7 0 up).works a 4 hostportPage 0x110 = true ∧ (vec7 0 up).mod.msixOn = true ∧ (vec7 0 up).mod.vectorMasked 7 = false ∧ (vec7 1 up).mod.vectorMasked 7 = true ∧
    ok (exec (.msixSend a) (vec7 0 up)) (fun t => t.mod.out == [.msix 7 0x9000 3]) = true ∧
    ok (exec (.msixSend a) (vec7 1 up)) (fun t => t.mod.out.isEmpty && t.mod.pba.getLsbD 7 &&
      ok (exec (.msixUnmask 7) t) (fun u => u.mod.out == [.msix 7 0x9000 3] && !u.mod.pba.getLsbD 7)) = true := by decide +kernel

theorem test_aperture : let a := fun (b : Nat) => acc 4 hostportPage 0x108 (BitVec.ofNat 64 (b * 2 ^ 28))
    let s := { linked up with mod := { (linked up).mod with bar2Log := 29 } }
    s.works (a 2) 4 hostportPage 0x108 = true ∧ ok (exec (.bar2AperWrite (a 2)) s) (fun t => t.mod.fld 4 hostportPage 0x108 28 11 == 2) = true ∧
    ok (exec (.bar2AperWrite (a 3)) s) (fun t => t.mod.fld 4 hostportPage 0x108 28 11 == 0 && t.mod.reg 4 hostportPage 0x038 == 0x200) = true := by decide +kernel
theorem test_resize : let s := setr 4 hostportPage 0x108 (2 * 2 ^ 28) (linked up)
    ok (exec (.barResize 29) s) (fun t => t.mod.bar2Log == 29 && t.mod.fld 4 hostportPage 0x108 28 11 == 2) = true ∧
    ok (exec (.barResize 39) s) (fun t => t.mod.bar2Log == 39 && t.mod.fld 4 hostportPage 0x108 28 11 == 0) = true := by decide +kernel
theorem test_link_training : ok (exec (.hostLinkTraining 6 16) up) (fun t => t.mod.reg 4 hostportPage 0x100 == 1 + 16 * 2 ^ 8 + 6 * 2 ^ 16) = true := by decide +kernel
theorem test_link_down : ok (exec .hostLinkDown (far 0x60000000040 4 .read (win up))) (fun t => farAns .err t && t.mod.fld 4 hostportPage 0x100 0 1 == 0) = true := by decide +kernel
theorem test_config : ok (exec (.configurationRequest 5 0 false 0) (linked up)) (fun t => t.mod.out == [.completion 5 4 0xC4A01E6B false]) = true ∧
    ok (exec (.configurationRequest 5 0x40 true 9) (linked up)) (fun t => SMap.get 0 t.mod.cfgSpace 0x40 == 9 && t.mod.out == [.completion 5 0 0 false]) = true ∧
    (setr 4 2077 0x100 0x100 (linked up)).mod.mrSweep = true ∧
    ok (exec (.configurationRequest 5 0 false 0) (setr 4 2077 0x100 0x100 (linked up))) (fun t => t.mod.out == [.retry 5]) = true := by decide +kernel
theorem test_tlp_errors : ok (exec (.unsupportedRequest 3 0) (linked up)) (fun t => t.mod.out == [.unsupported 3] && bits t.mod.aer 20 1 == 1) = true ∧
    ok (exec (.unexpectedCompletion false 0) (linked up)) (fun t => t.mod.out.isEmpty && bits t.mod.aer 16 1 == 1) = true ∧
    ok (exec (.malformedTlp 0 9) (linked up)) (fun t => t.mod.fld 4 hostportPage 0x100 0 1 == 0 && bits t.mod.aer 18 1 == 1 && t.mod.aerHeader == some 9) = true ∧
    ok (exec (.receiverError 0) (linked up)) (fun t => bits t.mod.aerCor 0 1 == 1 && SMap.get 0 t.mod.aerCount 0 == 1) = true := by decide +kernel

/-! ### Intake rings -/

def ringReg (b : Nat) : Word := BitVec.ofNat 64 (2 ^ 63 + 4 * 2 ^ 56 + b)
theorem test_ring_enable : let a := acc 4 hostportPage (ringIn 3) (ringReg 0x10000)
    (page 4 hostportPage up).works a 4 hostportPage (ringIn 3) = true ∧ (page 4 hostportPage up).mod.ringOn 3 = false ∧
    ok (exec (.ringEnable a) (page 4 hostportPage (page 4 cadBw up))) (fun t => t.mod.ringOn 3 && t.mod.ringBase 3 == 0x10000 && t.mod.fld 4 cadBw 0x140 3 1 == 1 &&
      bits (t.mod.slotWhen 4 3) 61 3 == 4 && t.mod.slotArg 4 3 0 == 0x10000) = true := by decide +kernel
def ring3 (x : Ring) (b : Nat) : State := let s := setr 4 hostportPage (ringIn 3) (ringReg b).toNat (page 4 hostportPage (lk 3 3)); { s with mod := s.mod.setRing 3 x }
theorem test_ring_rewrite : ok (exec (.ringRewrite (acc 4 hostportPage (ringIn 3) (ringReg 0x20000))) (ring3 { synced := true, stopped := true, ridx := 5 } 0x10000)) (fun t =>
    t.mod.ring 3 == {} && t.mod.slotArg 4 3 0 == 0x20000) = true := by decide +kernel

/-- A ring that lies in the Loft window of core 6, at Loft 0x1000, with one entry of OPCODE `op` that wants a completion: TAG 9, ARG0. -/
def loftRing : Nat := 0x40000000000 + 6 * 0x400000 + 0x1000
def entry (op arg : Nat) : Nat := op * 2 ^ 64 + 2 ^ 80 + 9 * 2 ^ 128 + arg * 2 ^ 256
def intakeAt (op arg : Nat) (f : Mod → Mod) : State :=
  let s := ring3 { synced := true } loftRing
  { s with mod := f ((s.mod.wr (loftKey 6 + 0x1000) 8 1).wr (loftKey 6 + 0x1100) 64 (entry op arg)) }
def view : Ring := { synced := true, widx := 1 }
def taking (s : State) (op e : Nat) : Prop := ∃ m, s.takes 3 op view e m
theorem takes_of (s : State) (op e : Nat) (h : (sampleRing s.aon 3 s.mod).1 = some view)
    (g : (readNum s.aon ((sampleRing s.aon 3 s.mod).2.ringBase 3 + 0x100) 64 ((sampleRing s.aon 3 s.mod).2.setRing 3 view)).1 = some e)
    (k : (decide (s.aon.powered = true) && s.mod.ringOn 3 && !(s.mod.ring 3).stopped && !s.mod.barnSweep 0 && entryOk e 0 && bits e 64 16 == op) = true) : s.takes 3 op view e (readNum s.aon ((sampleRing s.aon 3 s.mod).2.ringBase 3 + 0x100) 64 ((sampleRing s.aon 3 s.mod).2.setRing 3 view)).2 := by
  simp only [Bool.and_eq_true, decide_eq_true_eq, Bool.not_eq_true', beq_iff_eq] at k
  obtain ⟨⟨⟨⟨⟨k1, k2⟩, k3⟩, k4⟩, k5⟩, k6⟩ := k
  refine ⟨by decide, k1, k2, k3, k4, ⟨(sampleRing s.aon 3 s.mod).2, Prod.ext h rfl, ?_⟩, rfl, by decide, k5, k6⟩
  rw [show view.ridx = 0 from rfl, Nat.zero_mod]
  exact Prod.ext g rfl
theorem taking_of (s : State) (op e : Nat) (h : (sampleRing s.aon 3 s.mod).1 = some view)
    (g : (readNum s.aon ((sampleRing s.aon 3 s.mod).2.ringBase 3 + 0x100) 64 ((sampleRing s.aon 3 s.mod).2.setRing 3 view)).1 = some e)
    (k : (decide (s.aon.powered = true) && s.mod.ringOn 3 && !(s.mod.ring 3).stopped && !s.mod.barnSweep 0 && entryOk e 0 && bits e 64 16 == op) = true) : taking s op e :=
  ⟨_, takes_of s op e h g k⟩
theorem test_nop : taking (intakeAt 0 0 id) 0 (entry 0 0) := taking_of _ _ _ (by decide +kernel) (by decide +kernel) (by decide +kernel)
theorem test_signal : taking (intakeAt 3 (dcRef 0 0) id) 3 (entry 3 (dcRef 0 0)) ∧ (cntOf (dcRef 0 0)).any (fun y => !(intakeAt 3 0 id).mod.routeCut 4 y.die y.mpa) = true :=
  ⟨taking_of _ _ _ (by decide +kernel) (by decide +kernel) (by decide +kernel), by decide +kernel⟩
def aTask : Task := { ring := 3, seq := 0, tag := 9, flags := 1, due := 0, ref := dcRef 0 0, target := 5, stopWait := false, cores := [6], result := none }
theorem test_intake_fence : taking (intakeAt 2 0 id) 2 (entry 2 0) ∧ taking (intakeAt 2 0 (fun m => { m with tasks := [aTask] })) 2 (entry 2 0) :=
  ⟨taking_of _ _ _ (by decide +kernel) (by decide +kernel) (by decide +kernel), taking_of _ _ _ (by decide +kernel) (by decide +kernel) (by decide +kernel)⟩
theorem test_run_refused : taking (intakeAt 1 0x1020 id) 1 (entry 1 0x1020) := taking_of _ _ _ (by decide +kernel) (by decide +kernel) (by decide +kernel)

/-- A descriptor at 0x8000: core 6 alone, started at 0x100 without loading program memory; its counter is die counter 0 of die 0, to rise by 1. -/
def runAt0 : State := intakeAt 1 0x8000 (fun m => (m.wr 0x8000 64 (0x54564350 + 2 ^ 32 + 2 ^ 48 + dcRef 0 0 * 2 ^ 64 + 2 ^ 96 + 2 ^ 256)).wr 0x8040 8 (6 + 0x100 * 2 ^ 16))
/-- The module as firmware has read entry 0. -/
def runRead : Mod :=
  (readNum runAt0.aon ((sampleRing runAt0.aon 3 runAt0.mod).2.ringBase 3 + 0x100) 64 ((sampleRing runAt0.aon 3 runAt0.mod).2.setRing 3 view)).2
/-- And after it has consumed it. -/
def runMem : Mod := runRead.consume 3
theorem clean_of {m : Mod} (h : m.granary = []) : m.gClean := by intro e he; rw [h] at he; cases he
theorem run_clean : runMem.hbmClean :=
  ⟨by decide +kernel, by decide +kernel, by decide +kernel, by decide +kernel, by decide +kernel, by decide +kernel, clean_of (by decide +kernel)⟩
theorem start_one (a : AlwaysOn) (t : TaskDesc) (x : TaskCore) (m : Mod) (h1 : t.keepPm = true) (h2 : x.loft = 0) (h3 : t.args = 0) :
    ∃ m3, startCores a t [x] [] m = (true, m3) := by
  unfold startCores startTaskCore
  simp [h1, h2, h3, copyLoft, startCores]
theorem taskCoreFree_recounts {t m : Mod} (h : t.recounts m) (x : TaskCore) (d : TaskDesc) (hk : d.keepPm = true) (hc : x.core < 1024) :
    t.taskCoreFree x d = m.taskCoreFree x d := by
  obtain ⟨⟨r, f, g, e⟩, hr, -⟩ := h
  have ec : t.core = m.core := by rw [e]; rfl
  have ed : t.dr = m.dr := by rw [e]
  have ef : t.fur = m.fur := by rw [e]; rfl
  have pg : ∀ p, p < 2048 → p < 8192 ∧ ¬ hbmPage p := by
    intro p h; refine ⟨by omega, fun e => ?_⟩; rcases e with e | e <;> rw [e] at h <;> exact absurd h (by decide)
  have p0 := pg (corePage x.core 0) (by unfold corePage; omega)
  have hw : ∀ w, w < 2048 → wainPage w < 8192 ∧ ¬ hbmPage (wainPage w) := by intro w h; refine pg _ ?_; unfold wainPage corePage; rw [if_pos h]; omega
  have q := hw (2 * x.core) (by omega)
  have q' := hw (2 * x.core + 1) (by omega)
  simp only [Mod.taskCoreFree, hk, Bool.true_or, Mod.coreSweep, Mod.sweeping, Mod.retired, Mod.quiescent, Mod.wainState, Mod.wreg, Mod.fld, ec, ed, ef,
    hr _ _ _ p0.1 (show 0x018 < 4096 by omega) p0.2, hr (x.core / 256) 2309 (0x300 + x.core % 256 / 64 * 8) (by decide) (by omega) (by unfold hbmPage; decide),
    hr _ _ _ q.1 (show 0x110 < 4096 by omega) q.2, hr _ _ _ q'.1 (show 0x110 < 4096 by omega) q'.2]
  rfl
theorem test_run_start : ∃ m d m1 l m2 m3, runAt0.takes 3 1 view (entry 1 0x8000) m ∧ readNum runAt0.aon 0x8000 64 (m.consume 3) = (some d, m1) ∧ (taskDesc d).ok d = true ∧
    readCores runAt0.aon 0x8040 (taskDesc d).ncore m1 = (some l, m2) ∧ (∀ k ∈ l, k.ok (taskDesc d) = true ∧ m2.taskCoreFree k (taskDesc d) = true) ∧ l.map (fun k => k.core) = [6] ∧
    startCores runAt0.aon (taskDesc d) l [] m2 = (true, m3) ∧ (cntOf (taskDesc d).ref).isSome = true := by
  have hs : (sampleRing runAt0.aon 3 runAt0.mod).1 = some view := by decide +kernel
  have he : (readNum runAt0.aon ((sampleRing runAt0.aon 3 runAt0.mod).2.ringBase 3 + 0x100) 64 ((sampleRing runAt0.aon 3 runAt0.mod).2.setRing 3 view)).1 = some (entry 1 0x8000) := by
    decide +kernel
  have ht : runAt0.takes 3 1 view (entry 1 0x8000) runRead :=
    takes_of _ _ _ hs he (by decide +kernel)
  have c1 := run_clean
  obtain ⟨m1, e1, r1⟩ := readNum_clean runAt0.aon 0x8000 64 runMem c1 (by decide +kernel)
  have r1' := r1
  have hd : taskDesc (leNat (farBytes runMem (64 / 64 + 2) 0x8000 64)) = { ncore := 1, ref := dcRef 0 0, count := 1, args := 0, argsLen := 0, argsLoft := 0, flags := 1 } := by decide +kernel
  obtain ⟨m2, e2, r2⟩ := readNum_clean runAt0.aon 0x8040 64 _ (Mod.recounts_hbmClean r1' run_clean) (by decide +kernel)
  have r2' := Mod.recounts_trans r2 r1'
  rw [farBytes_recounts r1'] at e2
  have hx : taskCore (leNat (farBytes runMem (64 / 64 + 2) 0x8040 64)) = taskCore (6 + 0x100 * 2 ^ 16) := by decide +kernel
  obtain ⟨m3, e3⟩ := start_one runAt0.aon { ncore := 1, ref := dcRef 0 0, count := 1, args := 0, argsLen := 0, argsLoft := 0, flags := 1 } (taskCore (6 + 0x100 * 2 ^ 16)) m2
    (by decide +kernel) (by decide +kernel) (by decide +kernel)
  refine ⟨runRead, _, m1, [taskCore (6 + 0x100 * 2 ^ 16)], m2, m3, ht, e1, by decide +kernel, ?_, ?_, by decide +kernel, ?_, by decide +kernel⟩
  · rw [hd]; unfold readCores; dsimp only; rw [e2]; simp only [readCores, hx]
  · intro k hk
    rw [List.mem_singleton] at hk
    subst hk
    rw [hd]
    exact ⟨by decide +kernel, by rw [taskCoreFree_recounts r2' _ _ (by decide +kernel) (by decide +kernel)]; decide +kernel⟩
  · rw [hd]; exact e3

def tasked (v : Nat) (k : Core) : State := let s := dc v (linked (lk 3 3)); { s with mod := { s.mod.setCore 6 k with tasks := [aTask] } }
theorem test_task : ok (exec (.taskCompletion 0) (tasked 5 {})) (fun t => t.mod.tasks.isEmpty && (t.mod.ring 3).waiting == [[9, 0, 0, 0, 0, 1]]) = true ∧
    ok (exec (.taskCompletion 0) (tasked 4 {})) (fun t => t.mod.tasks == [aTask]) = true ∧
    ok (exec (.taskCompletion 0) (tasked 4 { halted := true })) (fun t => t.mod.tasks.isEmpty && (t.mod.ring 3).waiting == [[9, 0, 0, 4, 4, 1]]) = true := by decide +kernel
/-- The completion ring lies in the host window, 16 entries; CHEAD is in the ring's Loft. -/
def owing (head : Nat) : State :=
  let s := setr 4 hostportPage 0x800 (2 ^ 63 + 5) (setr 4 hostportPage 0x100 1 (setr 4 hostportPage (ringCq 3) (4 * 2 ^ 56 + 0x60000000000) (ring3 { synced := true, cq := 17, waiting := [[9, 7, 0, 0, 0, 1]] } loftRing)))
  { s with mod := s.mod.wr (loftKey 6 + 0x1080) 8 head }
theorem test_completion_entry : (readNum (owing 2).aon (loftRing + 0x80) 8 (owing 2).mod).1 = some 2 ∧ decodeMpa (0x60000000000 + 32) = .host 32 ∧
    ok (exec (.completionEntry 3) (owing 2)) (fun t => (t.mod.ring 3).cq == 18 && (t.mod.ring 3).waiting.isEmpty &&
      t.mod.out == [.memWrite 0x5020 32 (2 ^ 32 - 1) (9 + 7 * 2 ^ 64 + 3 * 2 ^ 224) false]) = true ∧
    ok (exec (.completionEntry 3) (owing 1)) (fun t => (t.mod.ring 3).cq == 17 && t.mod.out.isEmpty) = true := by decide +kernel

/-! ### Resets and power states -/

theorem test_resettable : (linked up).resettable ∧ (linked up).aon.perstN = true ∧ (linked up).mod.fld 4 hostportPage 0x100 0 1 = 1 := by
  refine ⟨⟨by decide +kernel, by decide +kernel, ?_⟩, by decide +kernel, by decide +kernel⟩
  unfold State.Inv; decide +kernel
theorem test_po : State.reset.aon.powered = true ∧ State.reset.aon.poDue = true := by decide
theorem test_extest : ({ up with aon := { up.aon with jtag := true } } : State).aon.jtag = true := rfl
theorem test_perst : ok (exec .perstNDeassert { up with aon := { up.aon with perstN := false } }) (fun t => t.aon.perstN) = true := by decide +kernel

def rst (v : Word) : RegAcc := acc 0 2309 0x100 v
/-- The steward's page of CNW enabled, a byte in the Lofts of cores 5 and 6. -/
def lofts : State := let s := page 0 2309 up; { s with mod := (s.mod.wr (loftKey 5) 1 7).wr (loftKey 6) 1 8 }
theorem test_cr : lofts.works (rst 0x105) 0 2309 0x100 = true ∧ bitOn (rst 0x105).v 8 = true ∧ bitOn (rst 0x105).v 20 = false ∧ lofts.mod.inReset = [] ∧
    ok (exec (.cr (rst 0x105)) lofts) (fun t => t.mod.coreSweep 5 && !t.mod.coreSweep 6 && t.mod.rd (loftKey 5) 1 == 0 && t.mod.rd (loftKey 6) 1 == 8) = true := by decide +kernel
/-- Core 6 alone is in partition 3. -/
theorem test_pr : let s := setr 0 2309 0x200 (3 * 2 ^ 24) lofts
    s.works (rst 0x130000) 0 2309 0x100 = true ∧ s.mod.partition 6 = 3 ∧ s.mod.partition 5 = 0 ∧ s.mod.dr = [] := by decide +kernel
theorem test_dr : let a := acc 4 2077 0x118 0x101
    (page 4 2077 up).works a 4 2077 0x118 = true ∧ bits a.v.toNat 0 2 = 1 ∧ (page 4 2077 up).Inv := by
  refine ⟨by decide +kernel, by decide +kernel, ?_⟩
  unfold State.Inv; decide +kernel
theorem test_sweep_core : let s := setr 0 40 0x018 0x10 { up with mod := { up.mod with inReset := [5] } }
    ok (exec (.sweepDone 0 5) s) (fun t => !t.mod.coreSweep 5 && t.mod.inReset.isEmpty && t.mod.reg 0 2309 0x020 == 4) = true := by decide +kernel
theorem test_sweep_die : let s : State := { setr 0 2309 0x018 0x10 up with mod := { (setr 0 2309 0x018 0x10 up).mod with dr := [0] } }
    s.mod.sweeping 0 2309 = true ∧ s.mod.dr.contains 0 = true := by decide +kernel
theorem test_sweep_barn : ok (exec (.sweepDone 2 4) (setr 4 2077 0x100 0x300 up)) (fun t => t.mod.fld 4 2077 0x100 8 2 == 2) = true ∧
    ok (exec (.sweepDone 3 4) (setr 4 2077 0x100 0x300 up)) (fun t => t.mod.fld 4 2077 0x100 8 2 == 1) = true := by decide +kernel

def pmapA (v : Word) : RegAcc := acc 0 2309 0x200 v
theorem test_pmap : let s := page 0 2309 up
    s.works (pmapA 0x300) 0 2309 0x200 = true ∧ s.mod.quiescent 2 = true ∧ ok (exec (.pmapWrite (pmapA 0x300)) s) (fun t => t.mod.partition 2 == 3 && t.mod.partition 1 == 0) = true ∧
    (let u : State := { s with mod := s.mod.setCore 2 { running := true } }
     u.mod.quiescent 2 = false ∧ ok (exec (.pmapWrite (pmapA 0x300)) u) (fun t => t.mod.partition 2 == 0 && t.mod.reg 0 2309 0x038 == 0x100) = true) := by decide +kernel
theorem test_retire : let a := acc 0 2309 0x300 0x20
    (page 0 2309 up).works a 0 2309 0x300 = true ∧ ok (exec (.retire a) (page 0 2309 up)) (fun t => t.mod.retired 5 && !t.mod.retired 6 && t.mod.coreSweep 5) = true ∧
    ok (exec (.unretire { a with v := 0 }) (setr 0 2309 0x300 0x20 (page 0 2309 up))) (fun t => !t.mod.retired 5 && t.mod.coreSweep 5 && !t.mod.coreSweep 6) = true := by decide +kernel
theorem test_park : let a := acc 0 2309 0x320 0x20
    (page 0 2309 up).works a 0 2309 0x320 = true ∧ ok (exec (.parkRequest a) (page 0 2309 up)) (fun t => t.mod.reg 0 2309 0x320 == 0x20 && !t.mod.parked 5 &&
      t.mod.quiescent 5 && ok (exec (.parkEnter 5) t) (fun u => u.mod.parked 5 && ok (exec (.parkClear { a with v := 0 }) u) (fun v => !v.mod.parked 5))) = true := by decide +kernel
theorem test_doze : let a := acc 0 2309 0x110 1
    (page 0 2309 up).works a 0 2309 0x110 = true ∧ ok (exec (.dozeRequest a) (page 0 2309 up)) (fun t => t.mod.fld 0 2309 0x110 0 2 == 1) = true ∧
    ok (exec (.dozeClear { a with v := 0 }) (setr 0 2309 0x110 3 (page 0 2309 up))) (fun t => t.mod.fld 0 2309 0x110 0 2 == 0) = true ∧
    (let s := setr 0 2309 0x300 (2 ^ 64 - 1) (setr 0 2309 0x308 (2 ^ 64 - 1) (setr 0 2309 0x310 (2 ^ 64 - 1) (setr 0 2309 0x110 1 up)))
     (coresOf 0).all (fun c => s.mod.retired c) = true ∧ ok (exec (.dozeEnter 0) s) (fun t => t.mod.fld 0 2309 0x110 1 1 == 1) = true) := by decide +kernel
theorem test_standby : (linked up).mod.d3 = false ∧ (linked up).mod.quiescent 5 = true ∧
    ok (exec .d0Return { up with mod := { (setr 0 2309 0x110 3 up).mod with d3 := true, standby := true } }) (fun t => !t.mod.d3 && !t.mod.standby && t.mod.fld 0 2309 0x110 0 2 == 0) = true := by
  decide +kernel
def dog (act : Nat) (k : Core) : State := setr 0 40 0x180 (1 + 2 * act) (core 5 k)
theorem test_core_watchdog : (dog 1 {}).mod.coreSweep 5 = false ∧ ok (exec (.coreWatchdogExpiry 5) (dog 1 {})) (fun t => t.mod.warned == [5] && t.mod.reg 0 2309 0x020 == 2 &&
      t.mod.reg 0 2309 0x380 == 0x20 && ok (exec (.coreWatchdogExpiry 5) t) (fun u => u.mod.coreSweep 5 && !(u.mod.core 5).running)) = true := by decide +kernel
theorem test_steward_watchdog : let a := acc 4 2077 0x110 0x10001
    let s := setr 4 2077 0x110 1 (page 4 2077 up)
    s.works a 4 2077 0x110 = true ∧ ok (exec (.stewardWatchdogExpiry 4 0 0) s) (fun t => t.mod.warned == [0x3F4] && t.mod.reg 4 2077 0x020 == 1 &&
      ok (exec (.stewardWatchdogKick a) t) (fun u => u.mod.warned.isEmpty)) = true := by decide +kernel
/-- A steward watchdog that has warned, on a compute die and on a Barn. -/
def warned (die : Nat) : State := let s := setr die (sweepPage die) 0x110 1 up; { s with mod := { s.mod with warned := [0x3F0 + die] } }
theorem test_steward_watchdog_resets : (warned 1).resettable ∧ (warned 4).resettable ∧ (warned 1).mod.warned.contains 0x3F1 = true ∧ (warned 4).mod.fld 4 (sweepPage 4) 0x110 0 1 = 1 := by
  refine ⟨⟨by decide +kernel, by decide +kernel, ?_⟩, ⟨by decide +kernel, by decide +kernel, ?_⟩, by decide +kernel, by decide +kernel⟩ <;> (unfold State.Inv; decide +kernel)

/-! ### Power input, budgets, clocks and temperatures -/

def off (t : State) : Bool := !t.aon.powered && t.mod.mem.isEmpty && t.mod.regs.isEmpty && t.aon.time == 0
/-- A byte of HBM and a non-zero TIME. -/
def busy : State := { up with mod := up.mod.wr 0 1 7, aon := { up.aon with time := 9 } }
theorem test_vin : ok (exec (.vinUndervoltage 3799) busy) (fun t => off t && t.aon.vin == 3799) = true ∧ ok (exec (.vinOvervoltage 5001) busy) (fun t => off t && t.aon.overV) = true ∧
    ok (exec .pwrEnDeassert busy) (fun t => off t && !t.aon.pwrEn) = true ∧ ok (exec (.thermalTrip 15) busy) (fun t => off t && t.aon.trip == some 15) = true := by decide +kernel
theorem test_power_up : ok (exec .pwrEnAssert { busy with aon := { busy.aon with pwrEn := false, powered := false, trip := some 3 } }) (fun t => t.aon.powered && t.aon.poDue && t.aon.trip.isNone) = true ∧
    ok (exec .pwrEnAssert { busy with aon := { busy.aon with pwrEn := false, powered := false, vin := 3900 } }) (fun t => !t.aon.powered) = true ∧
    ok (exec (.vinWarn 3901) { busy with aon := { busy.aon with powered := false, vin := 0 } }) (fun t => t.aon.powered && t.aon.poDue) = true := by decide +kernel
theorem test_vin_warn : ok (exec (.vinWarn 3999) busy) (fun t => t.aon.powered && bits (t.mod.reg 4 2075 0x020) 4 1 == 1) = true ∧ busy.aon.vin = 4400 := by decide +kernel

theorem test_op : let a := acc 0 2315 0x100 0x43
    (page 0 2315 up).works a 0 2315 0x100 = true ∧ ok (exec (.pwrOpWrite a) (page 0 2315 up)) (fun t => t.mod.reg 0 2315 0x100 == 0x43 && t.mod.fld 0 2315 0x108 8 2 == 3 &&
      ok (exec (.opChangeDone 0 0) t) (fun u => u.mod.fld 0 2315 0x108 0 3 == 3 && u.mod.fld 0 2315 0x108 8 2 == 2 && u.mod.reg 0 2315 0x020 == 2)) = true ∧
    ok (exec (.pwrOpWrite { a with v := 7 }) (page 0 2315 up)) (fun t => t.mod.fld 0 2315 0x100 0 3 == 0) = true := by decide +kernel
theorem test_droop : isHalf 0 1 = true ∧ up.dieOn 0 = true ∧
    ok (exec (.droopDetect 0 1) up) (fun t => t.mod.reg 0 2315 0x148 == 1 && SMap.get 0 t.mod.droop (halfKey 0 1) == 1 && t.mod.fld 0 2315 0x128 4 4 == 1 &&
      ok (exec (.droopStep 0 1 true) t) (fun u => SMap.get 0 u.mod.droop (halfKey 0 1) == 2 && u.mod.fld 0 2315 0x128 4 4 == 2 &&
        ok (exec (.droopStep 0 1 false) u) (fun v => SMap.get 0 v.mod.droop (halfKey 0 1) == 1 && v.mod.sag.isEmpty))) = true := by decide +kernel
theorem test_grant : let a := acc 4 2075 0x228 300
    (page 4 2075 up).works a 4 2075 0x228 = true ∧ ok (exec (.pwrGrant a) (page 4 2075 up)) (fun t => t.mod.budget 1 == 300 && t.mod.fld 1 2315 0x110 16 16 == 1) = true ∧
    ok (exec (.pwrGrant a) { page 4 2075 up with mod := { (page 4 2075 up).mod with dr := [1] } }) (fun t => t.mod.fld 1 2315 0x110 16 16 == 0) = true := by decide +kernel
theorem test_power_report : ok (exec (.powerReport 1 160 8) up) (fun t => t.mod.fld 1 2315 0x120 0 16 == 160 && t.mod.fld 4 2075 0x268 0 32 == 160 + 168 * 65536 && t.mod.reg 4 2075 0x020 == 4) = true := by
  decide +kernel
theorem test_window_power : let s := setr 1 2315 0x110 100 up
    let s : State := { s with mod := { s.mod with grantOk := [1], cap := [(halfKey 1 0, 3)] } }
    ok (exec (.powerWindow 1 (s.mod.budget 1 + 1)) s) (fun t => SMap.get 0 t.mod.cap (halfKey 1 0) == (if s.mod.spine 1 0 then 3 else 4)) = true ∧ s.dieOn 1 = true := by decide +kernel
theorem test_over_budget : let s := setr 4 2075 0x200 100 up
    s.mod.pwr 4 0x200 0 12 = 100 ∧ ok (exec (.overBudget 106) s) (fun t => t.alert && t.mod.reg 4 2075 0x020 == 8) = true ∧ ok (exec (.overBudget 105) s) (fun t => !t.mod.overMean && t.mod.reg 4 2075 0x020 == 0) = true := by
  decide +kernel
/-- THROTTLE_C 85, ALERT_C 95. -/
def thermal : State := setr 0 2316 0x108 (85 + 95 * 256) up
theorem test_throttle : (halfSensors 0 0).length = 8 ∧
    ok (exec (.thermalThrottleStep 0 0 [85, 0, 0, 0, 0, 0, 0, 0]) thermal) (fun t => SMap.get 0 t.mod.therm (halfKey 0 0) == 1 && t.mod.reg 0 2316 0x020 == 1 &&
      ok (exec (.thermalThrottleStep 0 0 [82, 0, 0, 0, 0, 0, 0, 0]) t) (fun u => SMap.get 0 u.mod.therm (halfKey 0 0) == 0)) = true := by decide +kernel
theorem test_thermal_alert : ok (exec (.thermAlert 0 15 95) thermal) (fun t => t.alert && t.mod.reg 0 2316 0x278 == 95 && t.mod.reg 0 2316 0x020 == 2) = true ∧
    ok (exec (.thermAlert 0 15 94) thermal) (fun t => !t.alert && t.mod.reg 0 2316 0x020 == 0) = true := by decide +kernel

/-! ### The Keeper -/

/-- RFC 8032, 7.1, test 1, and FIPS 180-4's example of SHA-512. -/
def pub1 : Nat := 0x1a5107f7681a02af2523a6daf372e10e3a0764c9d3fe4bd5b70ab18201985ad7
theorem test_ed25519 : edVerify (leBytes 32 pub1) [] (leBytes 64 0xb107a8e4341516524be5b59f0f55bd26bb4f91c70391ec6ac3ba3901582b85f5501492265e073d874d9e5b81e7f87848a826e80cce2869072ac60c3004356e5) = true := by decide +kernel
theorem test_sha512 : sha512 [0x61, 0x62, 0x63] = beBytes 64 0xddaf35a193617abacc417349ae20413112e6fa4e89a97ea20a9eeee64b55d39a2192992a274fc1a836ba3c23a3feebbd454d4423643ce80e2a9ac94fa54ca49f := by decide +kernel

/-- The mailbox holds a request. -/
def mailed (code : Nat) (p : List Nat) (s : State) : State :=
  let m := s.mod.setReg 4 keeperPage 0x800 (code + p.length * 2 ^ 16)
  { s with mod := (List.range ((p.length + 7) / 8)).foldl (fun (x : Mod) i => x.setReg 4 keeperPage (0x808 + 8 * i) (leNat ((p.drop (8 * i)).take 8))) m }
theorem mailed_mem (code : Nat) (p : List Nat) (s : State) : (mailed code p s).mod.mem = s.mod.mem := by
  have h : ∀ (l : List Nat) (m : Mod), (l.foldl (fun (x : Mod) i => x.setReg 4 keeperPage (0x808 + 8 * i) (leNat ((p.drop (8 * i)).take 8))) m).mem = m.mem := by
    intro l
    induction l with
    | nil => intro m; rfl
    | cons i t ih => intro m; exact ih _
  exact h _ _
def go : RegAcc := acc 4 keeperPage 0x110 1
/-- A module whose Keeper is in state `st`, challenge 7 current, vendor, CO and User all holding the key of RFC 8032's test 1; LC fuses. -/
def kst (st fuses : Nat) : State :=
  let s := setr 4 keeperPage 0x100 st (lk 3 3)
  { s with aon := { s.aon with lcFuses := fuses, coKey := some pub1, userKey := some pub1, vendorKey := 0xc3a9704714d475b52af1831b5106781802438ba9d3ef4d53c079c493826809470906752fc3f2c4237ae419e824172f03dcc7bfd90e47a018aabab42502a5020e, storeLcb := if fuses = 0 then 1 else if fuses < 4 then 2 else 3 },
           mod := s.mod.onKeeper (fun k => ({ k with chal := some 7, vendorPub := pub1 } : Keeper)) }
def token (code signer arg sig : Nat) : List Nat := leBytes 2 code ++ leBytes 14 signer ++ leBytes 32 7 ++ leBytes 32 arg ++ leBytes 64 sig

theorem test_status : (mailed 1 [] (kst 1 3)).asksKeeper go 1 ∧ (mailed 1 [] (kst 1 3)).Inv ∧
    ok (exec (.status go) (mailed 1 [] (kst 1 3))) (fun t => t.mod.kp 0x800 0 32 == 4 * 2 ^ 16 && t.mod.mboxBytes 8 4 == [1, 1, 0, 0] &&
      bits (t.mod.reg 4 keeperPage 0x020) 0 1 == 1) = true := by
  refine ⟨by unfold State.asksKeeper; decide +kernel, by unfold State.Inv; decide +kernel, by decide +kernel⟩
theorem test_self_test : (mailed 2 [] (kst 1 0)).asksKeeper go 2 ∧ (kst 1 0).mod.kState = 1 ∧
    ok (exec (.selfTest go) (mailed 2 [] (kst 1 0))) (fun t => t.mod.kState == 1 && t.mod.kp 0x800 0 16 == 0) = true ∧
    (mailed 2 [] (kst 1 0)).asksKeeper { go with test := 0x13 } 2 ∧
    ok (exec (.selfTest { go with test := 0x13 }) (mailed 2 [] (kst 1 0))) (fun t => t.mod.kState == 3 && t.mod.kp 0x100 8 8 == 0x13 && t.mod.kp 0x800 0 16 == 8) = true := by
  refine ⟨by unfold State.asksKeeper; decide +kernel, by decide +kernel, by decide +kernel, by unfold State.asksKeeper; decide +kernel, by decide +kernel⟩
theorem test_challenge : (mailed 3 [] (kst 2 0)).asksKeeper go 3 ∧ (mailed 3 [] (kst 2 0)).mod.kState = 2 := by
  refine ⟨by unfold State.asksKeeper; decide +kernel, by decide +kernel⟩
def zctl : RegAcc := acc 4 keeperPage 0x108 1
theorem test_zeroise : (mailed 0x70 [] (kst 1 3)).asksKeeper go 0x70 ∧ (kst 1 3).mod.kState ≠ 5 ∧
    ok (exec (.zeroise go) (mailed 0x70 [] (kst 1 3))) (fun t => t.mod.kState == 4 && t.mod.keeper.chal.isNone && t.aon.coKey.isNone && t.mod.kp 0x800 0 16 == 0) = true ∧
    (kst 3 3).works zctl 4 keeperPage 0x108 = true ∧ ok (exec (.zeroise zctl) (kst 3 3)) (fun t => t.mod.kState == 3 && t.aon.userKey.isNone) = true := by
  refine ⟨by unfold State.asksKeeper; decide +kernel, by decide +kernel, by decide +kernel, by decide +kernel, by decide +kernel⟩

/-- A request of RANDOM for 5 bytes, signed as User. -/
def askRandom : State := mailed 0x20 (token 0x20 2 0 0x2c9b0b345a6101c13588952c419d9d2068c2e3c24e09e6b9dc794f515aa783e0f9717fef7c696d15b43e9b69b31714e88a8d64fa8fd90e643da3047f14606f6 ++ [5, 0]) (kst 1 3)
theorem test_random : askRandom.asksKeeper go 0x20 ∧ askRandom.tokened 0x20 [2, 1, 0] noArg ∧ 146 ≤ askRandom.mod.mboxPayload.length ∧ leField askRandom.mod.mboxPayload 144 2 = 5 := by
  refine ⟨by unfold State.asksKeeper; decide +kernel, by unfold State.tokened; decide +kernel, by decide +kernel, by decide +kernel⟩
def key2 : Nat := 0x1f1e1d1c1b1a191817161514131211100f0e0d0c0b0a09080706050403020100
def askCo : State := mailed 0x30 (token 0x30 0 key2 0xfff714619a36985e4e61572ad2ad987af96b0b822c8044eb8063f4dc0177ffc07705cf26f0f15a10a53eed0186956d1c1bb0537bfdad33f6cf12ea9329284ef) (kst 1 3)
theorem test_enrol_co : askCo.asksKeeper go 0x30 ∧ askCo.aon.lc = 1 ∧ askCo.tokened 0x30 [0] ownArg ∧
    ok (exec (.enrolCo go) askCo) (fun t => t.aon.coPub == some key2 && t.aon.userPub == some pub1 && t.mod.keeper.chal.isNone && t.mod.kp 0x800 0 16 == 0) = true := by
  refine ⟨by unfold State.asksKeeper; decide +kernel, by decide +kernel, by unfold State.tokened; decide +kernel, by decide +kernel⟩
def askUser : State := mailed 0x31 (token 0x31 1 key2 0x2971e8b79a9facf0ac7abd14e00d414fcb8dcb9b30a4bb33605d1d2b3178ac4ee71215b17351041f2fae231db8d254c50eea49580e918a6585d9b9e1bd18bbc) (kst 1 3)
theorem test_enrol_user : askUser.asksKeeper go 0x31 ∧ askUser.tokened 0x31 [1, 0] ownArg ∧
    ok (exec (.enrolUser go) askUser) (fun t => t.aon.userPub == some key2 && t.aon.coPub == some pub1) = true := by
  refine ⟨by unfold State.asksKeeper; decide +kernel, by unfold State.tokened; decide +kernel, by decide +kernel⟩
/-- A chain of three bytes staged in the Loft of core 6. -/
def abcAt : Nat := 0x40000000000 + 6 * 0x400000
def askCert : State := mailed 0x32 (token 0x32 0 0x9ad3554be6ee9e0aa27ea9894efae612314120ae497341ccba7a6193a135afdd 0xf4d6ff72f53f9302ab719f2a12dba439aa0909a8fed045af40d5550fa2010c2497392323457bffd7e3894577c42992dbf3062a65e70458a7c69db84fa201f5c ++ leBytes 8 abcAt ++ leBytes 8 3)
  { kst 1 0 with mod := (kst 1 0).mod.wr (loftKey 6) 3 0x636261 }
theorem test_enrol_cert : askCert.asksKeeper go 0x32 ∧ askCert.aon.lc ≤ 1 ∧ askCert.tokened 0x32 [0] (stagedArg askCert none) ∧
    (readHbm askCert.spent (leField askCert.mod.mboxPayload 144 8) (leField askCert.mod.mboxPayload 152 8)).1 = some [0x61, 0x62, 0x63] ∧
    ok (exec (.enrolCert go) askCert) (fun t => t.aon.certLen == 3 && t.aon.flashBytes recordBase 4 == [0x61, 0x62, 0x63, 0xFF]) = true := by
  refine ⟨by unfold State.asksKeeper; decide +kernel, by decide +kernel, by unfold State.tokened; decide +kernel, by decide +kernel, by decide +kernel⟩
def askDebug : State := mailed 0x60 (token 0x60 1 1 0x84763829217ea0a081bca3d4d60f3b2a828850f4dfb1d2f0c2387bd173c40e4f88b257d4a441089c3631068861486c522421c67f1d9f87f5e6780c9073a9bbd) (kst 1 3)
def askDebug2 : State := mailed 0x60 (token 0x60 0 2 0x6a7aa21c9c238dc778650ad7559a0ca55922bdc9f20872c5b375adabf15b7320ef268ccfd16c17d9370b1c475b15add71315b7aca274c6920597848441780a5) (kst 1 15)
theorem test_debug_unlock : askDebug.asksKeeper go 0x60 ∧ 1 = leField askDebug.mod.mboxPayload 48 1 ∧ askDebug.aon.lc < 3 ∧ askDebug.tokened 0x60 [1, 0] byteArg ∧
    ok (exec (.debugUnlock go) askDebug) (fun t => t.mod.keeper.debug == 1 && t.mod.keeper.unlocked) = true ∧
    askDebug2.asksKeeper go 0x60 ∧ askDebug2.aon.lc = 2 ∧ askDebug2.tokened 0x60 [0] byteArg ∧
    ok (exec (.debugUnlock go) askDebug2) (fun t => t.mod.keeper.debug == 2) = true := by
  refine ⟨by unfold State.asksKeeper; decide +kernel, by decide +kernel, by decide +kernel, by unfold State.tokened; decide +kernel, by decide +kernel,
    by unfold State.asksKeeper; decide +kernel, by decide +kernel, by unfold State.tokened; decide +kernel, by decide +kernel⟩

theorem test_not_permitted : (mailed 0x30 [] (kst 3 3)).asksKeeper go 0x30 ∧ (kst 3 3).mod.kState ≠ 1 ∧
    ok (exec (.enrolCo go) (mailed 0x30 [] (kst 3 3))) (fun t => t.mod.kp 0x800 0 16 == 8) = true ∧
    (mailed 0x30 [] (kst 1 0)).asksKeeper go 0x30 ∧ (mailed 0x30 [] (kst 1 0)).aon.lc ≠ 1 ∧
    ok (exec (.enrolCo go) (mailed 0x30 [] (kst 1 0))) (fun t => t.mod.kp 0x800 0 16 == 3 && t.mod.keeper.chal == some 7) = true := by
  refine ⟨by unfold State.asksKeeper; decide +kernel, by decide +kernel, by decide +kernel, by unfold State.asksKeeper; decide +kernel, by decide +kernel, by decide +kernel⟩
/-- ENROL_USER may not be signed by the User, and here is not signed at all. -/
def askForged (code : Nat) : State := mailed code (token code 0 key2 0) (kst 1 3)
theorem test_auth_fail : (askForged 0x30).asksKeeper go 0x30 ∧ 144 ≤ (askForged 0x30).mod.mboxPayload.length ∧
    tokenOk (askForged 0x30) (askForged 0x30).mod.mboxPayload 0x30 [0] (ownArg (askForged 0x30).mod.mboxPayload) = false ∧
    ok (exec (.enrolCo go) (askForged 0x30)) (fun t => t.mod.kp 0x800 0 16 == 2 && t.mod.keeper.chal.isNone && t.mod.reg 4 keeperPage 0x038 == 0x100) = true ∧
    (askForged 0x31).asksKeeper go 0x31 ∧
    tokenOk (askForged 0x31) (askForged 0x31).mod.mboxPayload 0x31 [1, 0] (ownArg (askForged 0x31).mod.mboxPayload) = false := by
  refine ⟨by unfold State.asksKeeper; decide +kernel, by decide +kernel, by decide +kernel, by decide +kernel, by unfold State.asksKeeper; decide +kernel, by decide +kernel⟩
theorem test_busy : let s := setr 4 keeperPage 0x110 2 (mailed 0x40 [] (kst 1 3))
    s.works go 4 keeperPage 0x110 = true ∧ s.mod.mboxCode = 0x40 ∧ s.mod.kp 0x110 1 1 = 1 ∧
    ok (exec (.update go) s) (fun t => t.mod.kp 0x800 0 16 == 7 && t.mod.kp 0x110 1 1 == 1) = true := by decide +kernel

/-- An image, its parts by offset: manifest, two firmware components of one parcel and three of one byte; and the signature. -/
def img : List (Nat × Nat × Nat) :=
  [(0, 64, 0x1a5107f7681a02af2523a6daf372e10e3a0764c9d3fe4bd5b70ab18201985ad70000000000000000000000000000114000000000000000000005000149564350),
   (64, 96, 0x39e3d936c6e31eaac08fcfcfe7bb443460c61c0bd5b74408c8bcc35a6b8d6f5700bdcddeaa4b466ae65f8fb67f67ca62dc34149e1d44d213ddfbc13668b6547b0000000000000000000000000000000100000000000010000000000000000001),
   (160, 96, 0xc1e840fa117ba8018356d8b8b15722a25737c561a0ad8b2d6f2546ff7da279803e0953657a681860175ef55b361ba3a5ca7f5ca6a4f775dab2fda0e02bc05a100000000000000000000000000000001200000000000010400000000000000002),
   (256, 96, 0xc1e840fa117ba8018356d8b8b15722a25737c561a0ad8b2d6f2546ff7da279803e0953657a681860175ef55b361ba3a5ca7f5ca6a4f775dab2fda0e02bc05a100000000000000000000000000000001200000000000010800000000000000003),
   (352, 96, 0x69582d0dc9ae39e22a7ae584cd47d28005aa9bed0ff84e30ad69aaf8de5e8295e3161fe35af3b899b5e26191e074d7f6fb4cfe960d028e15135b7b5025c7b8b50000000000000000000000000000000100000000000010c00000000000000004),
   (448, 96, 0xe541bb3e287e15fd5f1c8929607ebbed807e542827ec9c44ea2457fdc241a3aa1e7aa2924ca72c13937936cf7744c487fb12cf1dc049703c2cfa558a443e5f090000000000000000000000000000000100000000000011000000000000000005),
   (4032, 64, 0x9a3fcf09c975bb1beb14f7b0088b0c1a8438d589edf026055c68cb31d75451add39e66043c5e3b056a001e764d084d9fd8a560258b61dfd0889b2b6a8e324cd),
   (4096, 1, 0x1),
   (4160, 18, 0x500000000000000000000000153564350),
   (4224, 18, 0x500000000000000000000000153564350),
   (4288, 1, 0x4),
   (4352, 1, 0x5)]
def imgBytes : List Nat :=
  img.foldl (fun l x => l ++ List.replicate (x.1 - l.length) 0 ++ leBytes x.2.1 x.2.2) []
def manBytes : List Nat := (imgBytes.take 4096).map (fun b => b % 256)
/-- HBM holds the image from MPA 0. -/
def stagedIn (s : State) : State := { s with mod := { s.mod with mem := cells 0 imgBytes } }
def imgComps : List (List Nat) := (compsOf manBytes).map (fun c => ((imgBytes.drop c.off).take c.len).map (fun b => b % 256))
theorem img_length : imgBytes.length = 4353 := by decide +kernel
theorem img_digest : (sha512 manBytes).take 32 = leBytes 32 0x270a51ba0e8bd756c474b8735445157c029927d57b758ee5ccf6ffadf2ad9dea := by decide +kernel
theorem img_valid : (kst 1 3).aon.manifestReason manBytes = 0 := by decide +kernel
theorem img_size : leField manBytes 0x10 8 = 4416 := by decide +kernel
theorem img_comps : compsReason (compsOf manBytes) imgComps = 0 := by decide +kernel
theorem img_low : ∀ c ∈ compsOf manBytes, c.off + c.len ≤ 4353 := by decide +kernel
theorem man_read (m : Mod) (h : m.mem = cells 0 imgBytes) : farBytes m 66 0 4096 = manBytes := by
  have e := farBytes_cells m imgBytes 0 h 66 4096 0 (by rw [img_length]; omega) (Or.inr (by omega))
  exact e
theorem comp_read (m : Mod) (h : m.mem = cells 0 imgBytes) :
    (compsOf manBytes).map (fun c => farBytes m (c.len / 64 + 2) (0 + c.off) c.len) = imgComps := by
  refine List.map_congr_left (fun c hc => ?_)
  exact farBytes_cells m imgBytes 0 h _ _ _ (by rw [img_length]; exact img_low c hc) (Or.inr (by omega))
/-- What the check of the staged image finds, for a stated length. -/
theorem staged_check (s : State) (len : Nat) (c : s.mod.hbmClean) (h : s.mod.mem = cells 0 imgBytes)
    (hv : s.aon.vendorKey = (kst 1 3).aon.vendorKey) (hr : s.aon.rollback = 0) : (checkStaged s 0 len).1 = if len = 4416 then 0 else 4 := by
  have hm : s.aon.manifestReason manBytes = 0 := by
    rw [← img_valid]
    unfold AlwaysOn.manifestReason
    rw [hv, hr, show (kst 1 3).aon.rollback = 0 by decide +kernel]
  rw [checkStaged_clean s 0 len c (by omega) (by rw [man_read _ h]; intro x hx; have := img_low x hx; omega)]
  simp only [man_read _ h, comp_read _ h, hm, img_size, img_comps]
  by_cases g : len = 4416
  · subst g; simp
  · rw [if_neg g]; simp [Ne.symm g]
theorem staged_arg (s : State) (p : List Nat) (c : s.mod.hbmClean) (h : s.mod.mem = cells 0 imgBytes) (hp : leField p 144 8 = 0) :
    stagedArg s (some 4096) p = leBytes 32 0x270a51ba0e8bd756c474b8735445157c029927d57b758ee5ccf6ffadf2ad9dea := by
  obtain ⟨t, e, -⟩ := readFar_clean s.aon 66 0 4096 s.mod c (by omega)
  have hr : readHbm s 0 4096 = (some (farBytes s.mod 66 0 4096), t) := e
  unfold stagedArg
  rw [hp, Option.getD_some, hr, man_read _ h]
  exact img_digest

/-- UPDATE of the staged image, of a stated length, signed by the CO. -/
def updateOf (len : Nat) : State := mailed 0x40 (token 0x40 1 0x270a51ba0e8bd756c474b8735445157c029927d57b758ee5ccf6ffadf2ad9dea 0xc1dbbbd67b873dad8f6beca8709114d58347c49383ab9af7078e821f1dd728a706560863b66d4b89aa0bade7de66fb3bc6c23342b89e8c990be5b0889a136a7 ++ leBytes 8 0 ++ leBytes 8 len) (stagedIn (kst 1 3))
theorem update_clean (len : Nat) (h : len = 4416 ∨ len = 5) : (updateOf len).mod.hbmClean ∧ (updateOf len).spent.mod.hbmClean := by
  rcases h with rfl | rfl <;> refine ⟨⟨?_, ?_, ?_, ?_, ?_, ?_, clean_of ?_⟩, ⟨?_, ?_, ?_, ?_, ?_, ?_, clean_of ?_⟩⟩ <;> decide +kernel
theorem spent_mem (s : State) : s.spent.mod.mem = s.mod.mem := rfl
theorem update_mem (len : Nat) : (updateOf len).mod.mem = cells 0 imgBytes := mailed_mem _ _ _
theorem update_token (len : Nat) (h : len = 4416 ∨ len = 5) : (updateOf len).tokened 0x40 [1, 0] (stagedArg (updateOf len) (some 4096)) := by
  unfold State.tokened
  rw [staged_arg _ _ (update_clean len h).1 (update_mem len) (by rcases h with rfl | rfl <;> decide +kernel)]
  rcases h with rfl | rfl <;> decide +kernel
theorem test_update : (updateOf 4416).asksKeeper go 0x40 ∧ (updateOf 4416).mod.kState = 1 ∧ (updateOf 4416).aon.lc = 1 ∧
    (updateOf 4416).tokened 0x40 [1, 0] (stagedArg (updateOf 4416) (some 4096)) ∧ 160 ≤ (updateOf 4416).mod.mboxPayload.length ∧
    (checkStaged (updateOf 4416).spent (leField (updateOf 4416).mod.mboxPayload 144 8) (leField (updateOf 4416).mod.mboxPayload 152 8)).1 = 0 := by
  refine ⟨by unfold State.asksKeeper; decide +kernel, by decide +kernel, by decide +kernel, update_token _ (Or.inl rfl), by decide +kernel, ?_⟩
  rw [show leField (updateOf 4416).mod.mboxPayload 144 8 = 0 by decide +kernel, show leField (updateOf 4416).mod.mboxPayload 152 8 = 4416 by decide +kernel]
  exact (staged_check _ _ (update_clean _ (Or.inl rfl)).2 ((spent_mem _).trans (update_mem _)) (by decide +kernel) (by decide +kernel)).trans (by decide)
theorem test_update_refused : (updateOf 5).asksKeeper go 0x40 ∧ (updateOf 5).tokened 0x40 [1, 0] (stagedArg (updateOf 5) (some 4096)) ∧
    160 ≤ (updateOf 5).mod.mboxPayload.length ∧
    (checkStaged (updateOf 5).spent (leField (updateOf 5).mod.mboxPayload 144 8) (leField (updateOf 5).mod.mboxPayload 152 8)).1 = 4 := by
  refine ⟨by unfold State.asksKeeper; decide +kernel, update_token _ (Or.inr rfl), by decide +kernel, ?_⟩
  rw [show leField (updateOf 5).mod.mboxPayload 144 8 = 0 by decide +kernel, show leField (updateOf 5).mod.mboxPayload 152 8 = 5 by decide +kernel]
  exact (staged_check _ _ (update_clean _ (Or.inr rfl)).2 ((spent_mem _).trans (update_mem _)) (by decide +kernel) (by decide +kernel)).trans (by decide)
def updating (man : Nat) : State :=
  let s := setr 4 keeperPage 0x110 2 (kst 1 3)
  { s with mod := s.mod.onKeeper (fun k => ({ k with update := some ⟨0, 4416, true, man⟩ } : Keeper)) }
/-- A manifest without components is programmed alone; one that names an empty component with a zero digest is refused. -/
theorem test_update_done : (updating 0).mod.keeper.update = some ⟨0, 4416, true, 0⟩ ∧
    (readComps (updating 0).aon 0 (compsOf (leBytes 4096 0)) (updating 0).mod).1 = some [] ∧ compsReason (compsOf (leBytes 4096 0)) [] = 0 ∧
    (readComps (updating (2 ^ 48)).aon 0 (compsOf (leBytes 4096 (2 ^ 48))) (updating (2 ^ 48)).mod).1 = some [[]] ∧ compsReason (compsOf (leBytes 4096 (2 ^ 48))) [[]] ≠ 0 ∧
    ok (exec .updateDone (updating (2 ^ 48))) (fun t => t.mod.kp 0x800 0 16 == 6) = true := by decide +kernel

def recover (len : Nat) : RegAcc := acc 4 keeperPage 0x120 (BitVec.ofNat 64 (2 ^ 63 + len))
def recovering : State := stagedIn (kst 2 0)
def gone (len : Nat) : State := { recovering with mod := recovering.mod.commonWrite hostCode 4 keeperPage 0x120 (2 ^ 64 - 1) (recover len).v.toNat }
theorem gone_clean (len : Nat) (h : len = 4416 ∨ len = 5) : (gone len).mod.hbmClean := by
  rcases h with rfl | rfl <;> refine ⟨?_, ?_, ?_, ?_, ?_, ?_, clean_of ?_⟩ <;> decide +kernel
theorem gone_mem (len : Nat) : (gone len).mod.mem = cells 0 imgBytes := Mod.commonWrite_mem _ _ _ _ _ _ _
theorem test_recovery : recovering.works (recover 4416) 4 keeperPage 0x120 = true ∧ bitOn (recover 4416).v 63 = true ∧ recovering.mod.kState = 2 ∧
    bits (recover 4416).v.toNat 0 23 = 4416 ∧ (checkStaged (gone 4416) 0 4416).1 = 0 ∧ recovering.resettable ∧
    recovering.works (recover 5) 4 keeperPage 0x120 = true ∧ bits (recover 5).v.toNat 0 23 = 5 ∧ (checkStaged (gone 5) 0 5).1 = 4 := by
  refine ⟨by decide +kernel, by decide +kernel, by decide +kernel, by decide +kernel,
    staged_check _ _ (gone_clean _ (Or.inl rfl)) (gone_mem _) (by decide +kernel) (by decide +kernel), ⟨by decide +kernel, by decide +kernel, by unfold State.Inv; decide +kernel⟩,
    by decide +kernel, by decide +kernel, staged_check _ _ (gone_clean _ (Or.inr rfl)) (gone_mem _) (by decide +kernel) (by decide +kernel)⟩

def askLife (goal sig fuses : Nat) : State := mailed 0x50 (token 0x50 0 goal sig) (kst 1 fuses)
theorem test_lifecycle : (askLife 3 0x887bf675ddd643f2f43b04947aca295a3c2b9b5dfcec24b14d2873a1b73f8424be79384ef9e5328930687d53862d4ab651836e7ecbbc8e5e58ac6e4fb618e51 0).asksKeeper go 0x50 ∧ leField (askLife 3 0x887bf675ddd643f2f43b04947aca295a3c2b9b5dfcec24b14d2873a1b73f8424be79384ef9e5328930687d53862d4ab651836e7ecbbc8e5e58ac6e4fb618e51 0).mod.mboxPayload 48 1 = 3 ∧
    lifecycleSigners (askLife 3 0x887bf675ddd643f2f43b04947aca295a3c2b9b5dfcec24b14d2873a1b73f8424be79384ef9e5328930687d53862d4ab651836e7ecbbc8e5e58ac6e4fb618e51 0).aon.lc 3 = some [0] ∧ (askLife 3 0x887bf675ddd643f2f43b04947aca295a3c2b9b5dfcec24b14d2873a1b73f8424be79384ef9e5328930687d53862d4ab651836e7ecbbc8e5e58ac6e4fb618e51 0).tokened 0x50 [0] byteArg ∧ (askLife 3 0x887bf675ddd643f2f43b04947aca295a3c2b9b5dfcec24b14d2873a1b73f8424be79384ef9e5328930687d53862d4ab651836e7ecbbc8e5e58ac6e4fb618e51 0).resettable ∧ romTest go.test = false := by
  refine ⟨by unfold State.asksKeeper; decide +kernel, by decide +kernel, by decide +kernel, by unfold State.tokened; decide +kernel,
    ⟨by decide +kernel, by decide +kernel, by unfold State.Inv; decide +kernel⟩, by decide +kernel⟩
theorem test_lifecycle_refused : (askLife 1 0 15).asksKeeper go 0x50 ∧ lifecycleSigners (askLife 1 0 15).aon.lc (leField (askLife 1 0 15).mod.mboxPayload 48 1) = none ∧
    ok (exec (.lifecycle go) (askLife 1 0 15)) (fun t => t.mod.kp 0x800 0 16 == 3) = true := by
  refine ⟨by unfold State.asksKeeper; decide +kernel, by decide +kernel, by decide +kernel⟩

theorem test_attest : (kst 1 3).mod.kState = 1 ∧ (kst 1 3).mod.doeBusy = false ∧
    ok (exec (.getVersion true) (kst 1 3)) (fun t => t.mod.out == [.reply 0x84 0 [0x12]] && t.mod.doeBusy) = true ∧
    ok (exec (.doeDiscovery 1) (kst 1 3)) (fun t => t.mod.out == [.reply 0 0 [1, 0, 1, 0]]) = true ∧
    ok (exec (.getCertificate false 3) (kst 1 3)) (fun t => t.mod.out == [.reply 0x7F 1 []]) = true ∧
    ok (exec (.keyExchange false) (kst 1 3)) (fun t => t.mod.out == [.reply 0x7F 7 []]) = true ∧
    ok (exec (.getVersion true) { kst 1 3 with mod := { (kst 1 3).mod with doeBusy := true } }) (fun t => t.mod.doeErr && t.mod.out.isEmpty) = true := by decide +kernel
theorem test_mctp : (kst 1 3).aon.powered = true ∧ ok (exec (.mctpControl 1 0x1B2) (kst 1 3)) (fun t => t.aon.eid == 0xB2 && t.mod.out == [.reply 0x100 0 [0xB2]]) = true := by
  decide +kernel
theorem test_pldm : ((kst 1 3).mod.barnSweep 0 || (kst 1 3).mod.barnSweep 1) = false ∧
    ok (exec (.pldmRequest 2) (setr 2 (thermPage 2) 0x100 45 (kst 1 3))) (fun t => t.mod.out == [.reply 0x101 0 [45, 0, 0, 0]]) = true ∧
    ((setr 4 (sweepPage 4) 0x100 0x100 (kst 1 3)).mod.barnSweep 0 || (setr 4 (sweepPage 4) 0x100 0x100 (kst 1 3)).mod.barnSweep 1) = true ∧
    ok (exec (.pldmRequest 17) { up with aon := { up.aon with powered := false, trip := some 9 } }) (fun t => t.mod.out == [.reply 0x101 0 [9, 1, 0, 0]]) = true := by decide +kernel
theorem test_debug : (kst 1 0).up = true ∧ (kst 1 0).aon.lc = 0 ∧ localTop 6 = 0x400000 ∧
    ok (exec (.authorisedDebug 0 6 0 0) (kst 1 0)) (fun t => t.mod.debugHalt.contains 6) = true ∧
    ok (exec (.authorisedDebug 3 6 0x40 0x55) (kst 1 0)) (fun t => t.mod.rd (loftKey 6 + 0x40) 8 == 0x55) = true ∧
    ok (exec (.authorisedDebug 2 6 0x40 0) { kst 1 0 with mod := (kst 1 0).mod.wr (loftKey 6 + 0x40) 8 0x55 }) (fun t => t.mod.out == [.reply 0x14 0 [0x55, 0, 0, 0, 0, 0, 0, 0]]) = true ∧
    decodeMpa (regMpa 0 6 0x010) = .reg 0 6 0x010 ∧ isCpu 6 = true ∧ (kst 1 3).aon.lc ≠ 0 ∧ (kst 1 3).mod.keeper.debug = 0 ∧
    gives (exec (.authorisedDebug 3 6 0x40 0x55) (kst 1 3)) (kst 1 3) = true := by decide +kernel

/-! ### More ill-formed commands, one for each check, beside the last well-formed value of its range -/

theorem test_wf_compute_core : (Instr.coreStop 0x3F0).wf = false ∧ (Instr.coreStop 0x3AA).wf = true := by decide
theorem test_wf_wain : (Instr.wainEnd 0x900).wf = false ∧ (Instr.wainEnd 10).wf = true := by decide
theorem test_wf_link_end : (Instr.beaconLost 0 0).wf = false ∧ (Instr.beaconLost 4 2081).wf = true := by decide
theorem test_wf_link : (Instr.training 8 [] []).wf = false ∧ (Instr.training 7 [] []).wf = true := by decide
theorem test_wf_stack : (Instr.patrolRead 8 0).wf = false ∧ (Instr.patrolRead 7 0).wf = true := by decide
theorem test_wf_barn : (Instr.finaliseComplete 3 0).wf = false ∧ (Instr.finaliseComplete 5 0).wf = true ∧ (Instr.zeroComplete 6 0).wf = false := by decide
theorem test_wf_vector : (Instr.msixUnmask 256).wf = false ∧ (Instr.msixUnmask 255).wf = true := by decide
theorem test_wf_ring : (Instr.intakeNop 16).wf = false ∧ (Instr.completionEntry 15).wf = true := by decide
theorem test_wf_sweep : (Instr.sweepDone 0 0x3F0).wf = false ∧ (Instr.sweepDone 1 6).wf = false ∧ (Instr.sweepDone 2 3).wf = false ∧ (Instr.sweepDone 2 5).wf = true := by decide
theorem test_wf_compute_die : (Instr.dozeEnter 4).wf = false ∧ (Instr.budgetLost 3).wf = true ∧ (Instr.stewardReload 4).wf = false := by decide
theorem test_wf_half : (Instr.opChangeDone 0 2).wf = false ∧ (Instr.opChangeDone 3 1).wf = true ∧ (Instr.droopDetect 0 2).wf = false := by decide
theorem test_wf_trip : (Instr.thermalTrip 6).wf = false ∧ (Instr.thermalTrip 16).wf = false ∧ (Instr.thermalTrip 15).wf = true := by decide
theorem test_wf_sensor : (Instr.thermAlert 4 4 0).wf = false ∧ (Instr.thermAlert 3 15 0).wf = true := by decide
theorem test_wf_stall : (Instr.stallDetected 5 0).wf = false ∧ (Instr.stallDetected 4 0).wf = true := by decide
theorem test_wf_debug : (Instr.authorisedDebug 3 0x0CC 0 0).wf = false ∧ (Instr.authorisedDebug 3 0x3F0 0 0).wf = true := by decide

/-! ### Encodings: the spec's worked examples (R46, R48, R49, R105, R167, R218, R257) -/

/-- Parcels of a program. -/
def parcels (l : List Nat) (i : Nat) : Nat := l.getD i 0

/-- ADD g3, g5; ADDI g2, g7, -4; a reserved opcode of one parcel; the reserved class. -/
theorem test_decode_scalar : decodeCore 5 (parcels [0x0335]) = some (.add 5 3 5) ∧ decodeCore 5 (parcels [0x3009, 0x3FFC]) = some (.addi 5 2 7 0xFFC) ∧
    decodeCore 5 (parcels [0x2FFF]) = some (.mfp 5 15 15) ∧ parcelsOf 0x3009 = 2 := by decide
/-- FENCE.ACQ.CHIP, and SEND of three words from g2 to the destination in g6. -/
theorem test_decode_system : decodeCore 5 (parcels [0x3C28, 0, 6]) = some (.fence 5 { a := 0, b := 0, c := 0, imm := 6 }) ∧
    decodeCore 5 (parcels [0x3C49, 0x0C00, 2]) = some (.send 5 { a := 2, b := 6, c := 0, imm := 2 }) ∧ parcelsOf 0x3C49 = 3 := by decide
/-- VFMA.F32 v4, v1, v2, v3 under q2 with merging. -/
theorem test_decode_vector : decodeCore 5 (parcels [0x385A, 0x2840, 0x2203]) =
    some (.vfma 5 { ty := 2, pred := 0b1010, z := 0, vd := 4, va := 1, vb := 2, aux := 3 }) := by decide
/-- MATX in SQ shape, A and B in MXFP8 E4M3, C in BF16, M 200, N 77, K 1,000. -/
theorem test_decode_matx : decodeCore 5 (parcels [0x3B15, 0x1100, 0x0120, 0x00C8, 0x004D, 0x03E8]) =
    some (.matx 5 { shape := 0, fa := 5, fb := 5, fc := 1, order := 0, acc := 0, ta := 0, tb := 0, epi := 0, mda := 0, mdb := 1, mdc := 2, episel := 0
                    m := 200, n := 77, k := 1000 }) ∧ parcelsOf 0x3B15 = 6 := by decide
/-- A vector opcode that no row of R106 assigns, and the reserved class 0b111 0b11. -/
theorem test_decode_unassigned : decodeCore 5 (parcels [0x3800 + 0xF8, 0, 0]) = none ∧ decodeCore 5 (parcels [0x3E00]) = none := by decide

/-! ### Commands that are register accesses -/

/-- The access is the command's, at a register that the command's row names. -/
def isRow (o : Option (RegAcc × RegTarget)) (a : RegAcc) (die page off : Nat) (s : State) : Bool :=
  o.any (fun x => decide (x.1 = a) && x.2 die page off s) && s.admits a die page off
theorem test_row_lock : let a := acc 0 2309 0x010 5; isRow (writeCommand (.lock a)) a 0 2309 0x010 up = true := by decide +kernel
theorem test_row_any : let a := acc 0 2309 0x058 6; isRow (writeCommand (.registerWrite true a)) a 0 2309 0x058 up = true ∧
    isRow (writeCommand (.irqTest (acc 0 2309 0x030 1))) (acc 0 2309 0x030 1) 0 2309 0x030 up = true ∧
    isRow (writeCommand (.cfgEpochWrite a)) a 0 2309 0x058 up = true := by decide +kernel
theorem test_row_service : let a := acc 4 keeperPage 0x108 2; isRow (writeCommand (.selfTest a)) a 4 keeperPage 0x108 up = true := by decide +kernel
theorem test_row_reset : let a := acc 0 2309 0x100 0x105; isRow (writeCommand (.cr a)) a 0 2309 0x100 up = true ∧
    isRow (writeCommand (.unretire (acc 0 2309 0x300 0))) (acc 0 2309 0x300 0) 0 2309 0x300 (setr 0 2309 0x300 0x20 up) = true := by decide +kernel
theorem test_row_ring : let a := acc 4 hostportPage 0x260 (2 ^ 63); isRow (writeCommand (.ringEnable a)) a 4 hostportPage 0x260 up = true ∧
    isRow (writeCommand (.accDisable (acc 4 granaryPage 0x480 0))) (acc 4 granaryPage 0x480 0) 4 granaryPage 0x480 up = true := by decide +kernel
theorem test_row_read : let a := acc 1 (pwrPage 1) 0x120 0; isRow (readCommand (.registerReadClear a)) a 1 (pwrPage 1) 0x120 up = true ∧
    (readReg up.aon up.mod a.q 1 (pwrPage 1) 0x120 8).1 = some 0 ∧
    ok (exec (.registerWrite false (acc 0 2309 0 0)) up) (fun t => t.mod.net.isEmpty) = true ∧ rcMask 1 (pwrPage 1) 0x120 ≠ 0 := by decide +kernel

end Sys2Proof.Tests
end

section
/-! The guarded fields of the always-on island: what each of its operations keeps. -/

namespace Sys2Proof.Machine

/-- What `State.Inv` says of the island: epochs, causes, trim and ROLLBACK fuses are in range. -/
def AlwaysOn.Kept (a : AlwaysOn) : Prop :=
  a.dieEpoch.length = 6 ∧ a.cause.length = 6 ∧ (∀ e ∈ a.dieEpoch, 1 ≤ e ∧ e ≤ 0xFFFF) ∧ a.trim.natAbs ≤ 36893488 ∧ a.rollFuses < 2 ^ 64

theorem State.inv_iff (s : State) : s.Inv ↔ s.aon.Kept := Iff.rfl

/-- An island that agrees with another in the guarded fields is in range with it. -/
theorem AlwaysOn.kept_of_eq {a b : AlwaysOn} (h : a.Kept) (he : b.dieEpoch = a.dieEpoch) (hc : b.cause = a.cause) (ht : b.trim = a.trim)
    (hr : b.rollFuses = a.rollFuses) : b.Kept := by
  unfold AlwaysOn.Kept
  rwa [he, hc, ht, hr]

theorem AlwaysOn.Kept.trim_le {a : AlwaysOn} (h : a.Kept) : a.trim.natAbs ≤ 36893488 := by
  obtain ⟨-, -, -, ht, -⟩ := h
  exact ht

theorem AlwaysOn.kept_ite {c : Prop} [Decidable c] {a b : AlwaysOn} (ha : a.Kept) (hb : b.Kept) : (if c then a else b).Kept := by
  split
  · exact ha
  · exact hb

/-! ### Time and frames -/

theorem AlwaysOn.kept_advance {a : AlwaysOn} (h : a.Kept) (el : Nat) : (a.advance el).Kept := kept_of_eq h rfl rfl rfl rfl

theorem AlwaysOn.kept_advanceTo {a b : AlwaysOn} (h : a.Kept) {x : Nat} (hb : a.advanceTo x = some b) : b.Kept := by
  unfold AlwaysOn.advanceTo at hb
  split at hb
  · cases hb; exact h
  · split at hb
    · cases hb
    · cases hb; exact kept_advance h _

theorem AlwaysOn.kept_setSec {a : AlwaysOn} (h : a.Kept) (sec : Nat) : (a.setSec sec).Kept := kept_of_eq h rfl rfl rfl rfl

theorem AlwaysOn.kept_ppsGone {a : AlwaysOn} (h : a.Kept) (nom : Nat) : (a.ppsGone nom).Kept := kept_of_eq h rfl rfl rfl rfl

theorem clampInt_natAbs_le (b : Nat) (x : Int) : (clampInt (-b) b x).natAbs ≤ b := by
  unfold clampInt
  omega

/-- The clock's own fields are free: only the trim has a range. The values are variables here, so that no check compares them. -/
theorem AlwaysOn.kept_clock {a : AlwaysOn} (h : a.Kept) (err : Int) (time : Nat) (locked : Bool) (steps : Nat) (phase incr : Int) {trim : Int}
    (ht : trim.natAbs ≤ 36893488) :
    ({ a with ppsErr := err, time := time, ppsLocked := locked, ppsSteps := steps, trim := trim, phase := phase, incr := incr } : AlwaysOn).Kept := by
  obtain ⟨hl, hc, he, -, hf⟩ := h
  exact ⟨hl, hc, he, ht, hf⟩

/-- The servo clamps the trim that it integrates (R366). -/
theorem AlwaysOn.kept_servo {a : AlwaysOn} (h : a.Kept) (c nom stepNs kp ki : Nat) : (a.servo c nom stepNs kp ki).1.Kept := by
  unfold AlwaysOn.servo
  dsimp only
  split
  · exact kept_clock h _ _ _ _ _ _ h.trim_le
  · exact kept_clock h _ _ _ _ _ _ (clampInt_natAbs_le 36893488 _)

theorem AlwaysOn.kept_applyCfg {a : AlwaysOn} (h : a.Kept) (cfg x : Nat) : (a.applyCfg cfg x).Kept := by
  unfold AlwaysOn.applyCfg
  dsimp only
  split
  · split <;> exact kept_of_eq h rfl rfl rfl rfl
  · split
    · exact kept_of_eq h rfl rfl rfl rfl
    · split <;> exact kept_of_eq h rfl rfl rfl rfl

/-! ### Epochs and causes -/

/-- The value after 0xFFFF is 1 (R341), so an epoch in range stays in range. -/
theorem AlwaysOn.kept_bumpEpoch {a : AlwaysOn} (h : a.Kept) (die : Nat) : (a.bumpEpoch die).Kept := by
  obtain ⟨hl, hc, he, ht, hf⟩ := h
  refine ⟨by simpa [AlwaysOn.bumpEpoch] using hl, hc, fun e hm => ?_, ht, hf⟩
  rcases List.mem_or_eq_of_mem_set hm with hm | rfl
  · exact he e hm
  · have hd : a.epoch die ≤ 0xFFFF := by
      unfold AlwaysOn.epoch
      rcases Nat.lt_or_ge die a.dieEpoch.length with hlt | hge
      · rw [List.getD_eq_getElem _ _ hlt]
        exact (he _ (List.getElem_mem hlt)).2
      · rw [List.getD_eq_default _ _ hge]
        decide
    split <;> omega

theorem AlwaysOn.kept_setCause {a : AlwaysOn} (h : a.Kept) (die kind src : Nat) : (a.setCause die kind src).Kept := by
  obtain ⟨hl, hc, he, ht, hf⟩ := h
  exact ⟨hl, by simpa [AlwaysOn.setCause] using hc, he, ht, hf⟩

theorem AlwaysOn.kept_atMr {a : AlwaysOn} (h : a.Kept) (src : Nat) : (a.atMr src).Kept := by
  have each : ∀ (l : List Nat) (b : AlwaysOn), b.Kept → (l.foldl (fun (x : AlwaysOn) d => (x.bumpEpoch d).setCause d 1 src) b).Kept := by
    intro l
    induction l with
    | nil => exact fun _ hb => hb
    | cons d t ih => exact fun b hb => ih _ (kept_setCause (kept_bumpEpoch hb d) d 1 src)
  have hb := each (List.range 6) a h
  exact kept_clock hb _ _ _ _ _ _ hb.trim_le

/-- Power-on reset puts epochs, causes and trim at their reset values and leaves the fuses. -/
theorem AlwaysOn.kept_atPo {a : AlwaysOn} (h : a.Kept) : a.atPo.Kept := by
  obtain ⟨-, -, -, -, hf⟩ := h
  refine ⟨rfl, rfl, fun e he => ?_, Nat.zero_le _, hf⟩
  have h1 : e = 1 := by simpa [AlwaysOn.atPo] using he
  omega

/-! ### Flash, keys and fuses -/

theorem AlwaysOn.kept_erase {a : AlwaysOn} (h : a.Kept) (lo hi : Nat) : (a.erase lo hi).Kept := kept_of_eq h rfl rfl rfl rfl

theorem AlwaysOn.kept_program {a : AlwaysOn} (h : a.Kept) (o : Nat) (l : List Nat) : (a.program o l).Kept := kept_of_eq h rfl rfl rfl rfl

theorem AlwaysOn.kept_programImage {a : AlwaysOn} (h : a.Kept) (b : List Nat) (parts : List (List Nat)) : (a.programImage b parts).Kept := by
  have each : ∀ (l : List (Comp × List Nat)) (x : AlwaysOn), x.Kept → (l.foldl (fun (x : AlwaysOn) y => x.program y.1.off y.2) x).Kept := by
    intro l
    induction l with
    | nil => exact fun _ hx => hx
    | cons y t ih => exact fun x hx => ih _ (kept_program hx _ _)
  exact kept_program (each _ _ (kept_erase h 0 imageTop)) 0 b

theorem AlwaysOn.kept_enrol {a : AlwaysOn} (h : a.Kept) (co : Bool) (key : Nat) : (a.enrol co key).Kept := kept_of_eq h rfl rfl rfl rfl

/-- An image that passes the checks of R441 has a ROLLBACK value of at most 64. -/
theorem formatOk_svn_le {b : List Nat} (h : formatOk b = true) : leField b 8 4 ≤ 64 := by
  simp only [formatOk, Bool.and_eq_true, decide_eq_true_eq] at h
  tauto

theorem AlwaysOn.manifestReason_zero_formatOk {a : AlwaysOn} {b : List Nat} (h : a.manifestReason b = 0) : formatOk b = true := by
  unfold AlwaysOn.manifestReason at h
  split at h
  · cases h
  · split at h
    · cases h
    · next hf => simpa using hf

theorem AlwaysOn.imageReason_zero_formatOk {a : AlwaysOn} (h : a.imageReason = 0) : formatOk (a.flashBytes 0 4096) = true := by
  unfold AlwaysOn.imageReason at h
  dsimp only at h
  split at h
  · contradiction
  · next hm => exact manifestReason_zero_formatOk (not_not.mp hm)

/-- A boot that ends neither in END, nor in ERROR, nor in RECOVERY has found a valid image. -/
theorem AlwaysOn.bootState_imageReason {a : AlwaysOn} {test : Nat} (h5 : a.bootState test ≠ 5) (h3 : a.bootState test ≠ 3) (h2 : a.bootState test ≠ 2) :
    a.imageReason = 0 := by
  by_contra hi
  unfold AlwaysOn.bootState at h5 h3 h2
  simp only [hi, ne_eq, not_false_eq_true, ↓reduceIte] at h5 h3 h2
  split at h2
  · simp_all
  · split at h2 <;> simp_all

/-- The Keeper's boot blows ROLLBACK fuses only for an image in force, and none beyond the 64 (R438, R439, R443). -/
theorem keeperBoot_kept {a : AlwaysOn} (h : a.Kept) (test : Nat) (m : Mod) : (keeperBoot test a m).1.Kept := by
  unfold keeperBoot
  split
  · exact h
  · exact h
  · exact h
  · next h5 h3 h2 =>
    have hs := formatOk_svn_le (AlwaysOn.imageReason_zero_formatOk (AlwaysOn.bootState_imageReason h5 h3 h2))
    obtain ⟨hl, hc, he, ht, hf⟩ := h
    refine ⟨hl, hc, he, ht, Nat.or_lt_two_pow hf ?_⟩
    split
    · have h64 := Nat.pow_le_pow_right (n := 2) (by decide) hs
      have h1 := Nat.two_pow_pos a.rollback
      have h2 := Nat.two_pow_pos (leField (a.flashBytes 0 4096) 8 4)
      omega
    · exact Nat.two_pow_pos 64

end Sys2Proof.Machine
end

section
/-! Every operation on the whole state keeps the invariant. -/

namespace Sys2Proof.Machine

/-- The invariant speaks of the island only, so a change of the module keeps it. -/
theorem State.inv_mod {s : State} (h : s.Inv) (m : Mod) : ({ s with mod := m } : State).Inv := h

theorem State.inv_aon {s : State} {a : AlwaysOn} (h : a.Kept) (m : Mod) : ({ s with aon := a, mod := m } : State).Inv := h

/-- A change of the module and of fields of the island that the invariant does not speak of. -/
theorem State.inv_same {a b : AlwaysOn} (h : a.Kept) (s : State) (m : Mod) (he : b.dieEpoch = a.dieEpoch) (hc : b.cause = a.cause) (ht : b.trim = a.trim)
    (hr : b.rollFuses = a.rollFuses) : ({ s with aon := b, mod := m } : State).Inv := State.inv_aon (AlwaysOn.kept_of_eq h he hc ht hr) m

theorem State.Inv.kept {s : State} (h : s.Inv) : s.aon.Kept := s.inv_iff.mp h

theorem State.inv_ite {c : Prop} [Decidable c] {t u : State} (ht : t.Inv) (hu : u.Inv) : (if c then t else u).Inv := by
  split
  · exact ht
  · exact hu

/-! ### Cadence -/

theorem newFrame_inv {s : State} (h : s.Inv) (x : Nat) : (newFrame x s).Inv := by
  refine State.inv_aon (AlwaysOn.kept_applyCfg ?_ _ x) _
  exact AlwaysOn.kept_of_eq h.kept rfl rfl rfl rfl

theorem timeCtrl_inv {s : State} (h : s.Inv) (q old cmd : Nat) : (timeCtrl q old cmd s).Inv := by
  have align : (if s.mod.align then (if bits old 0 1 = 0 then { s.aon with ppsLocked := false } else s.aon)
      else { s.aon with phase := 0, incr := (s.mod.nom : Int) + s.aon.trim } : AlwaysOn).Kept := by
    split
    · split
      · exact AlwaysOn.kept_of_eq h.kept rfl rfl rfl rfl
      · exact h.kept
    · exact AlwaysOn.kept_clock h.kept _ _ _ _ _ _ h.kept.trim_le
  unfold timeCtrl
  dsimp only
  generalize (if s.mod.align then _ else _ : AlwaysOn) = a at align ⊢
  have applied : ∀ (m : Mod) (sec : Nat),
      (if bits cmd 1 1 = 0 then (a, s.mod) else if s.mod.align && a.ppsLocked then (a, m) else (a.setSec sec, s.mod)).1.Kept := by
    intro m sec
    split
    · exact align
    · split
      · exact align
      · exact AlwaysOn.kept_setSec align sec
  have r := applied { s.mod with secPend := true } (s.mod.fld 4 cadBw 0x108 32 32)
  generalize (if bits cmd 1 1 = 0 then _ else _ : AlwaysOn × Mod) = r at r ⊢
  split
  · exact State.inv_aon r _
  · split
    · exact State.inv_aon r _
    · exact State.inv_same r s _ rfl rfl rfl rfl

/-! ### Resets and power -/

theorem beginDr_inv {s : State} (h : s.Inv) (die src : Nat) : (beginDr die src s).Inv :=
  State.inv_ite h (State.inv_aon (AlwaysOn.kept_setCause (AlwaysOn.kept_bumpEpoch h.kept die) die 2 src) _)

theorem bootModule_inv {a : AlwaysOn} (h : a.Kept) (s : State) (m : Mod) (test dead : Nat) : (bootModule test dead { s with aon := a, mod := m }).Inv :=
  State.inv_aon (keeperBoot_kept h test m) _

theorem moduleReset_inv {s : State} (h : s.Inv) (src : Nat) (link : Bool) (test dead : Nat) : (moduleReset src link test dead s).Inv :=
  State.inv_ite h (bootModule_inv (AlwaysOn.kept_atMr h.kept src) s _ test dead)

theorem powerOff_inv {s : State} (h : s.Inv) : (powerOff s).Inv := State.inv_same (AlwaysOn.kept_atPo h.kept) s _ rfl rfl rfl rfl

theorem dieRstWrite_inv {s : State} (h : s.Inv) (q we wv : Nat) : (dieRstWrite q we wv s).Inv :=
  State.inv_ite (State.inv_mod h _) (beginDr_inv (State.inv_mod h _) _ 4)

/-! ### The Keeper -/

theorem mbox_inv {s : State} (h : s.Inv) (status : Nat) (body : List Nat) : (mbox s status body).Inv := State.inv_mod h _

/-- A service behind a token keeps what the service itself keeps. -/
theorem withToken_inv {s : State} (h : s.Inv) (q code : Nat) (signers : List Nat) (arg : List Nat → List Nat) {f : List Nat → State → State}
    (hf : ∀ p t, t.Inv → (f p t).Inv) : (withToken q code signers arg s f).Inv :=
  State.inv_ite (mbox_inv h 1 []) (State.inv_ite (hf _ _ (State.inv_mod h _)) (mbox_inv (State.inv_mod (State.inv_mod h _) _) 2 []))

theorem zeroise_inv {s : State} (h : s.Inv) : (zeroise s).Inv := State.inv_same h.kept s _ rfl rfl rfl rfl

theorem svcChallenge_inv {s : State} (h : s.Inv) : (svcChallenge s).Inv := mbox_inv (State.inv_mod h _) _ _

theorem svcRandom_inv {s : State} (h : s.Inv) (q : Nat) : (svcRandom q s).Inv :=
  withToken_inv h _ _ _ _ (fun _ _ ht => State.inv_ite (mbox_inv ht _ _) (mbox_inv (State.inv_mod ht _) _ _))

theorem svcEnrol_inv {s : State} (h : s.Inv) (q code : Nat) (co : Bool) (signers : List Nat) : (svcEnrol q code co signers s).Inv :=
  withToken_inv h _ _ _ _ (fun _ _ ht => mbox_inv (State.inv_aon (AlwaysOn.kept_enrol ht.kept co _) _) _ _)

theorem svcEnrolCert_inv {s : State} (h : s.Inv) (q : Nat) : (svcEnrolCert q s).Inv := by
  refine withToken_inv h _ _ _ _ (fun p t ht => State.inv_ite (mbox_inv ht _ _) ?_)
  split
  · refine mbox_inv (State.inv_aon ?_ _) _ _
    exact AlwaysOn.kept_of_eq ht.kept rfl rfl rfl rfl
  · exact mbox_inv (State.inv_mod ht _) _ _

theorem svcUpdate_inv {s : State} (h : s.Inv) (q : Nat) : (svcUpdate q s).Inv :=
  withToken_inv h _ _ _ _ (fun _ _ ht => State.inv_ite (mbox_inv ht _ _) (State.inv_ite (mbox_inv (State.inv_mod ht _) _ _)
    (State.inv_ite (mbox_inv (State.inv_mod ht _) _ _) (State.inv_aon (AlwaysOn.kept_erase ht.kept _ _) _))))

theorem svcLifecycle_inv {s : State} (h : s.Inv) (q : Nat) (env : Env) : (svcLifecycle q env s).Inv := by
  unfold svcLifecycle
  dsimp only
  split
  · exact mbox_inv h _ _
  · refine withToken_inv h _ _ _ _ (fun _ _ ht => moduleReset_inv (zeroise_inv (State.inv_aon ?_ _)) _ _ _ _)
    exact AlwaysOn.kept_of_eq ht.kept rfl rfl rfl rfl

theorem svcDebug_inv {s : State} (h : s.Inv) (q : Nat) : (svcDebug q s).Inv :=
  State.inv_ite (withToken_inv h _ _ _ _ (fun _ _ ht => mbox_inv (State.inv_mod ht _) _ _)) (mbox_inv h _ _)

theorem serve_inv {s : State} (h : s.Inv) (q : Nat) (env : Env) : (serve q env s).Inv := by
  unfold serve
  dsimp only
  split
  · exact mbox_inv h _ _
  · exact State.inv_ite (mbox_inv (State.inv_mod h _) _ _) (mbox_inv h _ _)
  · exact State.inv_ite (svcChallenge_inv h) (mbox_inv h _ _)
  · exact State.inv_ite (svcRandom_inv h q) (mbox_inv h _ _)
  · exact State.inv_ite (svcEnrol_inv h q _ _ _) (mbox_inv h _ _)
  · exact State.inv_ite (svcEnrol_inv h q _ _ _) (mbox_inv h _ _)
  · exact State.inv_ite (svcEnrolCert_inv h q) (mbox_inv h _ _)
  · exact State.inv_ite (svcUpdate_inv h q) (mbox_inv h _ _)
  · exact State.inv_ite (svcLifecycle_inv h q env) (mbox_inv h _ _)
  · exact State.inv_ite (svcDebug_inv h q) (mbox_inv h _ _)
  · exact State.inv_ite (mbox_inv (zeroise_inv h) _ _) (mbox_inv h _ _)
  · exact State.inv_ite (mbox_inv h _ _) (mbox_inv h _ _)

theorem mboxGo_inv {s : State} (h : s.Inv) (q we wv : Nat) (env : Env) : (mboxGo q we wv env s).Inv :=
  State.inv_ite h (State.inv_ite (State.inv_mod h _) (serve_inv h q env))

theorem keeperCtrl_inv {s : State} (h : s.Inv) (we wv : Nat) (env : Env) : (keeperCtrl we wv env s).Inv := by
  have h1 := State.inv_ite (c := bits (we &&& wv) 1 1 = 1 ∧ (s.mod.kState = 1 ∨ s.mod.kState = 3)) (State.inv_mod h (selfTest env.test s.mod)) h
  exact State.inv_ite (zeroise_inv h1) h1

theorem recovWrite_inv {s : State} (h : s.Inv) (q we wv : Nat) (env : Env) : (recovWrite q we wv env s).Inv :=
  State.inv_ite (State.inv_mod h _) (State.inv_ite (State.inv_mod (State.inv_mod h _) _)
    (moduleReset_inv (State.inv_aon (AlwaysOn.kept_programImage h.kept _ _) _) 6 false env.test env.dead))

theorem answer_inv {s : State} (h : s.Inv) (doe : Bool) (kind status : Nat) (body : List Nat) : (answer doe kind status body s).Inv :=
  State.inv_ite h (State.inv_ite (State.inv_mod h _) (State.inv_mod h _))

theorem answerOpen_inv {s : State} (h : s.Inv) (doe : Bool) (kind : Nat) (body : List Nat) (n : Nat) : (answerOpen doe kind body n s).Inv :=
  answer_inv (State.inv_mod h _) _ _ _ _

/-! ### Register accesses -/

theorem cadWrite_inv {s : State} (h : s.Inv) (q die page off we wv : Nat) : (cadWrite q die page off we wv s).Inv :=
  State.inv_ite (State.inv_mod h _) (State.inv_ite (timeCtrl_inv (State.inv_mod h _) _ _ _)
    (State.inv_ite (timeCtrl_inv (State.inv_mod h _) _ _ _) (State.inv_mod h _)))

theorem keeperWrite_inv {s : State} (h : s.Inv) (env : Env) (q off we wv : Nat) : (keeperWrite env q off we wv s).Inv := by
  unfold keeperWrite
  dsimp only
  split
  · exact keeperCtrl_inv h we wv env
  · exact mboxGo_inv h q we wv env
  · exact recovWrite_inv h q we wv env
  · exact State.inv_ite h (State.inv_mod h _)
  · exact State.inv_ite h (State.inv_mod h _)

theorem blockWrite_inv {s : State} (h : s.Inv) (env : Env) (q die page off we wv : Nat) : (blockWrite env q die page off we wv s).Inv := by
  have on (m : Mod) : ({ s with mod := m } : State).Inv := State.inv_mod h m
  unfold blockWrite
  dsimp only
  split
  case h_1 => exact h
  case h_2 => exact State.inv_ite (on _) (State.inv_ite (on _) (on _))
  case h_3 => exact State.inv_ite (on _) (on _)
  case h_4 => exact on _
  case h_5 => exact State.inv_ite (on _) (on _)
  case h_6 => exact State.inv_ite (on _) (on _)
  case h_7 => exact State.inv_ite (on _) (State.inv_ite (on _) (on _))
  case h_8 => exact State.inv_ite (State.inv_ite (on _) (on _)) (on _)
  case h_9 => exact cadWrite_inv h q die page off we wv
  case h_10 => exact on _
  case h_11 => exact on _
  case h_12 => exact State.inv_ite (on _) (on _)
  case h_13 => exact State.inv_ite (on _) (State.inv_ite (State.inv_ite h (on _)) (on _))
  case h_14 => exact State.inv_ite (on _) (State.inv_ite (dieRstWrite_inv h q we wv) (on _))
  case h_15 => exact State.inv_ite (on _) (on _)
  case h_16 => exact on _
  case h_17 => exact State.inv_ite (on _) (on _)
  case h_18 => exact State.inv_ite (on _) (on _)
  case h_19 => exact State.inv_ite (keeperWrite_inv h env q off we wv) (on _)
  case h_20 => exact on _

theorem regWrite_inv {s : State} (h : s.Inv) (env : Env) (q die page off we wv : Nat) : (regWrite env q die page off we wv s).Inv := by
  have on (m : Mod) : ({ s with mod := m } : State).Inv := State.inv_mod h m
  refine State.inv_ite h ?_
  dsimp only
  split
  · exact on _
  · exact on _
  · exact on _
  · exact on _
  · exact State.inv_ite (on _) (blockWrite_inv h env q die page off _ wv)

theorem regAccess_inv {s : State} (h : s.Inv) (env : Env) (q die page off len : Nat) (write full : Bool) (data : Nat) :
    (regAccess env q die page off len write full data s).2.Inv := by
  unfold regAccess
  split
  · split
    · exact State.inv_mod h _
    · dsimp only
      split
      · exact State.inv_mod h _
      · exact regWrite_inv h env q die page _ _ _
  · split <;> exact State.inv_mod h _

end Sys2Proof.Machine
end

section
/-! What every command answers: a next state that keeps the invariant when its agents exist, the fault of an absent agent otherwise. -/

namespace Sys2Proof.Machine

/-- With its agents present (`ok`) a command has a next state, which keeps the invariant; with one absent it stops with that fault. -/
def Answers (ok : Bool) (s : State) (r : Ans) : Prop :=
  (ok = true → ∃ t, r = .next t ∧ (s.Inv → t.Inv)) ∧ (ok = false → ∃ n, r = .fault (.noSuchAgent n))

theorem Answers.next {s t : State} (h : s.Inv → t.Inv) : Answers true s (.next t) := ⟨fun _ => ⟨t, rfl, h⟩, fun e => nomatch e⟩

theorem Answers.absent (s : State) (n : Nat) : Answers false s (.fault (.noSuchAgent n)) := ⟨fun e => (nomatch e), fun _ => ⟨n, rfl⟩⟩

/-- A command that asks first whether its agent exists. -/
theorem Answers.ifPresent {p : Prop} [Decidable p] {ok : Bool} {s : State} {r : Ans} {n : Nat} (hp : p ↔ ok = true) (h : Answers true s r) :
    Answers ok s (if p then r else .fault (.noSuchAgent n)) := by
  cases ok with
  | true => rwa [if_pos (hp.mpr rfl)]
  | false => rw [if_neg (fun hc => nomatch hp.mp hc)]; exact absent s n

/-- A command that asks first whether its agent is absent. -/
theorem Answers.ifAbsent {p : Prop} [Decidable p] {ok : Bool} {s : State} {r : Ans} {n : Nat} (hp : p ↔ ok = false) (h : Answers true s r) :
    Answers ok s (if p then .fault (.noSuchAgent n) else r) := by
  cases ok with
  | true => rwa [if_neg (fun hc => nomatch hp.mp hc)]
  | false => rw [if_pos (hp.mpr rfl)]; exact absent s n

theorem Answers.ite {c : Prop} [Decidable c] {ok : Bool} {s : State} {q r : Ans} (hq : Answers ok s q) (hr : Answers ok s r) :
    Answers ok s (if c then q else r) := by
  split
  · exact hq
  · exact hr

/-- A next state that differs in the module only. -/
theorem Answers.mod (s : State) (m : Mod) : Answers true s (.next { s with mod := m }) := .next (fun h => State.inv_mod h m)

/-- A command that leaves the state as it is. -/
theorem Answers.stays (s : State) : Answers true s (.next s) := .next id

/-! ### The shapes that many commands share -/

theorem onCpu_answers (c : Nat) (s : State) (f : Mod → Mod) : Answers (isCpu c) s (onCpu c s f) := .ifPresent Iff.rfl (.mod s _)

theorem onCoreOnly_answers (c len : Nat) (s : State) (f : Mod → Mod) : Answers (isCpu c) s (onCoreOnly c len s f) := by
  unfold onCoreOnly isCpu
  cases isCore c with
  | true => exact .mod s _
  | false => exact .ifPresent Iff.rfl (.mod s _)

theorem vOp_answers (c : Nat) (fm : VForm) (f : VFields) (extra rs : List Nat) (g : Core → Core) (s : State) :
    Answers (isCpu c) s (vOp c fm f extra rs g s) := onCoreOnly_answers c 3 s _

theorem vArith_answers (c : Nat) (f : VFields) (types : List Nat) (vb aux : Nat) (op : Nat → Nat → Nat → Nat → Nat) (s : State) :
    Answers (isCpu c) s (vArith c f types vb aux op s) := vOp_answers c _ f _ _ _ s

theorem vBits_answers (c : Nat) (f : VFields) (op : Nat → Nat → Nat) (s : State) : Answers (isCpu c) s (vBits c f op s) := vOp_answers c _ f _ _ _ s

theorem onFurrow_answers (c : Nat) (s : State) (f : Mod → Mod) : Answers (isCore c) s (onFurrow c s f) := .ifPresent Iff.rfl (.mod s _)

theorem wainRun_answers (w op : Nat) (s : State) (body : Mod → Wain → Nat → Mod) : Answers (isWain w) s (wainRun w op s body) := by
  refine .ifAbsent (by simp) ?_
  dsimp only
  split
  · exact .stays s
  · exact .ite (.stays s) (.ite (.mod s _) (.mod s _))

theorem wgoIssue_answers (stop : Bool) (c : Nat) (f : SysF) (s : State) : Answers (isCpu c) s (wgoIssue stop c f s) := onCpu_answers c s _

theorem intake_answers (op r : Nat) (act : AlwaysOn → Nat → Mod → Mod) (s : State) : Answers (decide (r < 16)) s (intake op r act s) :=
  .ifAbsent (by simp) (.ite (.stays s) (.mod s _))

/-- A register command answers by the access that it makes, or leaves the state. -/
theorem regRow_answers (write : Bool) (ok : RegTest) (a : RegAcc) (s : State) : Answers a.wf s (regRow write ok a s) := by
  unfold regRow RegAcc.wf
  refine .ifAbsent (by cases a.id <;> cases isReq a.q <;> simp) (.ite (.stays s) (.next fun h => ?_))
  dsimp only
  split
  · split
    · exact State.inv_ite (regAccess_inv h _ _ _ _ _ _ _ _ _) h
    · exact h
  · split
    · exact h
    · refine State.inv_ite h (State.inv_ite (State.inv_mod h _) ?_)
      split
      case h_5 => exact h
      all_goals
        split
        · exact State.inv_ite (State.inv_mod (regAccess_inv (State.inv_mod h _) _ _ _ _ _ _ _ _ _) _) h
        · exact h

end Sys2Proof.Machine
end

section
/-! What the commands of an own shape answer, chapter by chapter. -/

namespace Sys2Proof.Machine

/-! ### The stall watch, Barns and their controllers -/

theorem execStallDetected_answers (die g : Nat) (s : State) : Answers (decide (die < 5)) s (execStallDetected die g s) := by
  unfold execStallDetected
  dsimp only
  by_cases h4 : die < 4
  · rw [if_pos h4, decide_eq_true (by omega : die < 5)]
    exact .next fun h => State.inv_ite h (State.inv_ite (State.inv_mod h _) (State.inv_mod h _))
  · rw [if_neg h4]
    exact .ifPresent (by simp; omega) (.next fun h => State.inv_ite h (State.inv_ite (State.inv_mod h _) (State.inv_mod h _)))

theorem execLoftWindowAccess_answers (id : Nat) (s : State) : Answers true s (execLoftWindowAccess id s) := by
  refine .next fun h => ?_
  dsimp only
  split
  · exact h
  · split
    · exact State.inv_ite h (State.inv_mod h _)
    · exact h

theorem execFinaliseComplete_answers (die n : Nat) (s : State) : Answers (die == 4 || die == 5) s (execFinaliseComplete die n s) := by
  refine .ifPresent (by simp) (.next fun h => ?_)
  dsimp only
  split
  · exact h
  · exact State.inv_mod h _

theorem execZeroComplete_answers (die n : Nat) (s : State) : Answers (die == 4 || die == 5) s (execZeroComplete die n s) := by
  refine .ifPresent (by simp) (.next fun h => ?_)
  split
  · exact h
  · exact State.inv_mod h _

theorem execPatrolRead_answers (k l : Nat) (s : State) : Answers (decide (k < 8)) s (execPatrolRead k l s) :=
  .ifPresent (by simp) (.next fun h => State.inv_ite h (State.inv_ite (State.inv_mod h _) (State.inv_mod h _)))

theorem execDoubledRefresh_answers (k temp : Nat) (s : State) : Answers (decide (k < 8)) s (execDoubledRefresh k temp s) :=
  .ifPresent (by simp) (.next fun h => State.inv_ite (State.inv_mod h _) h)

theorem execEcsRead_answers (k count : Nat) (s : State) : Answers (decide (k < 8)) s (execEcsRead k count s) :=
  .ifPresent (by simp) (.next fun h => State.inv_ite (State.inv_mod h _) h)

/-! ### Wains -/

theorem execWainFetch_answers (w : Nat) (s : State) : Answers (isWain w) s (execWainFetch w s) :=
  .ifAbsent (by simp) (.ite (.stays s) (.mod s _))

theorem execWainWaitComplete_answers (w : Nat) (s : State) : Answers (isWain w) s (execWainWaitComplete w s) := by
  refine .ifAbsent (by simp) ?_
  dsimp only
  split
  · exact .ite (.mod s _) (.stays s)
  · exact .stays s

theorem execWainSignalRetry_answers (w : Nat) (s : State) : Answers (isWain w) s (execWainSignalRetry w s) := by
  refine .ifAbsent (by simp) ?_
  dsimp only
  split
  · exact .ite (.mod s _) (.stays s)
  · exact .stays s

theorem execWainWriteAck_answers (w id : Nat) (s : State) : Answers (isWain w) s (execWainWriteAck w id s) := by
  refine .ifAbsent (by simp) ?_
  dsimp only
  split
  · split
    · exact .ite (.mod s _) (.stays s)
    · exact .stays s
  · exact .stays s

/-! ### Cadence -/

theorem execPpsEdge_answers (el : Nat) (s : State) : Answers true s (execPpsEdge el s) := by
  refine .ite (.stays s) (.ite (.next fun h => ?_) ?_)
  · exact State.inv_same (AlwaysOn.kept_advance h.kept el) s s.mod rfl rfl rfl rfl
  · have captured (h : s.Inv) : ({ s.aon.advance el with
        ppsLast := some (s.aon.advance el).now, ppsLost := false,
        ppsCapt := (s.aon.advance el).capture (s.aon.advance el).time / 2 ^ 32 % 2 ^ 64 } : AlwaysOn).Kept :=
      AlwaysOn.kept_of_eq (AlwaysOn.kept_advance h.kept el) rfl rfl rfl rfl
    refine .ite (.next fun h => State.inv_aon ?_ _) (.next fun h => State.inv_aon ?_ _)
    · exact AlwaysOn.kept_ite (AlwaysOn.kept_setSec (captured h) _) (captured h)
    · have served := AlwaysOn.kept_servo (captured h) ((s.aon.advance el).capture (s.aon.advance el).time) s.mod.nom
        (bits (s.mod.reg 4 cadBw 0x110) 16 16) (bits (s.mod.reg 4 cadBw 0x110) 8 4) (bits (s.mod.reg 4 cadBw 0x110) 12 4)
      dsimp only at served ⊢
      exact AlwaysOn.kept_ite (AlwaysOn.kept_setSec served _) served

theorem execPpsLost_answers (s : State) : Answers true s (execPpsLost s) := by
  unfold execPpsLost
  split
  · exact .stays s
  · exact .ite (.stays s) (.next fun h => State.inv_aon (AlwaysOn.kept_ppsGone (AlwaysOn.kept_advance h.kept _) _) _)

theorem execFreeRunEdge_answers (s : State) : Answers true s (execFreeRunEdge s) := by
  refine .ite (.stays s) ?_
  split
  · exact .stays s
  · next b hb =>
    refine .next fun h => newFrame_inv ?_ _
    exact State.inv_same (AlwaysOn.kept_advanceTo h.kept hb) s s.mod rfl rfl rfl rfl

theorem execFrameInEdge_answers (el : Nat) (s : State) : Answers true s (execFrameInEdge el s) := by
  have adv (h : s.Inv) := AlwaysOn.kept_advance h.kept el
  unfold execFrameInEdge
  dsimp only
  generalize s.aon.advance el = a at adv ⊢
  have glitch : Answers true s (.next { s with aon := { a with cntFrameGlitch := a.cntFrameGlitch + 1 } }) :=
    .next fun h => State.inv_same (adv h) s s.mod rfl rfl rfl rfl
  refine .ite (.stays s) (.ite (.next fun h => State.inv_aon (adv h) s.mod) (.ite glitch (.ite (.ite (.next fun h => ?_) (.next fun h => ?_))
    (.ite glitch (.next fun h => ?_)))))
  · exact State.inv_same (adv h) s s.mod rfl rfl rfl rfl
  · refine newFrame_inv ?_ _
    exact State.inv_same (adv h) s s.mod rfl rfl rfl rfl
  · refine newFrame_inv ?_ _
    exact State.inv_same (adv h) s _ rfl rfl rfl rfl

theorem execFrameLost_answers (s : State) : Answers true s (execFrameLost s) := by
  refine .ite (.stays s) ?_
  split
  · exact .stays s
  · next b hb => exact .next fun h => State.inv_same (AlwaysOn.kept_advanceTo h.kept hb) s _ rfl rfl rfl rfl

theorem execHoldoverEdge_answers (s : State) : Answers true s (execHoldoverEdge s) := by
  refine .ite (.stays s) ?_
  split
  · exact .stays s
  · next b hb =>
    refine .next fun h => newFrame_inv ?_ _
    exact State.inv_same (AlwaysOn.kept_advanceTo h.kept hb) s s.mod rfl rfl rfl rfl

theorem execLineBoundary_answers (s : State) : Answers true s (execLineBoundary s) := by
  refine .ite (.stays s) (.ite (.next fun h => State.inv_same h.kept s _ rfl rfl rfl rfl) (.ite (.stays s) ?_))
  split
  · exact .stays s
  · next b hb => exact .next fun h => State.inv_same (AlwaysOn.kept_advanceTo h.kept hb) s _ rfl rfl rfl rfl

theorem execTickWord_answers (die : Nat) (good : Bool) (s : State) : Answers (decide (die < 6)) s (execTickWord die good s) := by
  refine .ifAbsent (by simp) ?_
  split
  · exact .stays s
  · exact .mod s _

theorem execIntakeReadResponse_answers (i : Nat) (s : State) : Answers true s (execIntakeReadResponse i s) := by
  unfold execIntakeReadResponse
  split
  · exact .stays s
  · dsimp only
    split
    · exact .mod s _
    · exact .mod s _

theorem execIntakePeriodSample_answers (die : Nat) (s : State) : Answers (decide (die < 6)) s (execIntakePeriodSample die s) :=
  .ifAbsent (by simp) (.ite (.stays s) (.mod s _))

/-! ### Die links -/

theorem isLinkEnd_iff (die page : Nat) : isLinkEnd die page = true ↔
    ∃ x ∈ linkTable, (x.1 = die ∧ x.2.1 = page) ∨ (x.2.2.1 = die ∧ x.2.2.2 = page) := by
  unfold isLinkEnd linkOf
  rw [List.findSome?_isSome_iff]
  constructor
  · rintro ⟨l, hl, h⟩
    split at h
    · next x hx =>
      refine ⟨x, List.mem_of_getElem? hx, ?_⟩
      split at h
      · exact Or.inl ‹_›
      · split at h
        · exact Or.inr ‹_›
        · cases h
    · cases h
  · rintro ⟨x, hx, h⟩
    obtain ⟨l, hl, rfl⟩ := List.mem_iff_getElem.mp hx
    refine ⟨l, List.mem_range.mpr hl, ?_⟩
    rw [List.getElem?_eq_getElem hl]
    dsimp only
    split
    · rfl
    · rw [if_pos (h.resolve_left ‹_›)]; rfl

/-- An end has a partner exactly when it has a link. -/
theorem linkPartner_isSome (die page : Nat) : (linkPartner die page).isSome = isLinkEnd die page := by
  rw [Bool.eq_iff_iff, isLinkEnd_iff]
  unfold linkPartner
  rw [List.findSome?_isSome_iff]
  refine exists_congr fun x => and_congr_right fun _ => ?_
  split
  · simp_all
  · split <;> simp_all

theorem execCheckFrame_answers (die page k frames seq reply crc : Nat) (s : State) :
    Answers (isLinkEnd die page) s (execCheckFrame die page k frames seq reply crc s) := by
  unfold execCheckFrame
  have hp := linkPartner_isSome die page
  unfold isLinkEnd at hp ⊢
  split
  · next hl _ =>
    rw [hl]
    refine .next fun h => State.inv_ite h ?_
    dsimp only
    split
    · exact h
    · exact State.inv_ite (State.inv_mod h _) (State.inv_mod h _)
  · next hno =>
    cases hl : linkOf die page with
    | none => exact .absent s _
    | some l =>
      rw [hl] at hp
      obtain ⟨x, hx⟩ := Option.isSome_iff_exists.mp hp
      exact (hno l.1 l.2 x hl hx).elim

theorem execCheckTimeout_answers (die page : Nat) (s : State) : Answers (isLinkEnd die page) s (execCheckTimeout die page s) :=
  .ifPresent Iff.rfl (.next fun h => State.inv_ite h (State.inv_mod h _))

theorem execReplay_answers (die page k : Nat) (s : State) : Answers (isLinkEnd die page) s (execReplay die page k s) :=
  .ifPresent Iff.rfl (.next fun h => State.inv_ite h (State.inv_mod h _))

theorem execTraining_answers (l : Nat) (rxLow rxHigh : List Nat) (s : State) : Answers (decide (l < 8)) s (execTraining l rxLow rxHigh s) := by
  unfold execTraining
  split
  · next hl =>
    have h8 : 8 ≤ l := List.getElem?_eq_none_iff.mp hl
    rw [decide_eq_false (by omega)]
    exact .absent s l
  · next hl =>
    have h8 : l < 8 := (List.getElem?_eq_some_iff.mp hl).1
    rw [decide_eq_true h8]
    exact .next fun h => State.inv_ite h (State.inv_mod h _)

theorem execTrainAckTimeout_answers (die page : Nat) (s : State) : Answers (isLinkEnd die page) s (execTrainAckTimeout die page s) := by
  unfold execTrainAckTimeout
  rw [← linkPartner_isSome]
  cases linkPartner die page with
  | some x => exact .next fun h => State.inv_ite (State.inv_mod h _) h
  | none => exact .absent s _

theorem execDownRetry_answers (die page : Nat) (s : State) : Answers (isLinkEnd die page) s (execDownRetry die page s) := by
  unfold execDownRetry
  rw [← linkPartner_isSome]
  cases linkPartner die page with
  | some x => exact .next fun h => State.inv_ite (State.inv_mod h _) h
  | none => exact .absent s _

theorem execBeaconSend_answers (die page : Nat) (s : State) : Answers (isLinkEnd die page) s (execBeaconSend die page s) := by
  unfold execBeaconSend
  rw [← linkPartner_isSome]
  cases linkPartner die page with
  | some x => exact .next fun h => State.inv_ite (State.inv_mod h _) h
  | none => exact .absent s _

theorem execBeaconReceive_answers (die page : Nat) (s : State) : Answers (isLinkEnd die page) s (execBeaconReceive die page s) := by
  unfold execBeaconReceive isLinkEnd
  cases linkOf die page with
  | none => exact .absent s _
  | some l =>
    refine .next fun h => ?_
    dsimp only
    split
    · exact h
    · exact State.inv_mod h _

theorem execBeaconLost_answers (die page : Nat) (s : State) : Answers (isLinkEnd die page) s (execBeaconLost die page s) :=
  .ifPresent Iff.rfl (.next fun h => State.inv_ite (State.inv_mod h _) h)

theorem execResetNotice_answers (die page : Nat) (s : State) : Answers (isLinkEnd die page) s (execResetNotice die page s) := by
  unfold execResetNotice
  rw [← linkPartner_isSome]
  cases linkPartner die page with
  | some x => exact .next fun h => State.inv_ite (State.inv_mod h _) h
  | none => exact .absent s _

theorem execLpExit_answers (wake : Option (Nat × Nat)) (a : RegAcc) (s : State) :
    Answers (match wake with | some x => isLinkEnd x.1 x.2 | none => a.wf) s (execLpExit wake a s) := by
  cases wake with
  | some x => exact .ifPresent Iff.rfl (.next fun h => State.inv_ite (State.inv_mod h _) h)
  | none => exact regRow_answers _ _ a s

/-! ### The Keeper's view of the dies -/

theorem execStewardReload_answers (d : Nat) (s : State) : Answers (decide (d < 4)) s (execStewardReload d s) :=
  .ifPresent (by simp) (.next fun h => State.inv_ite (State.inv_mod h _) h)

theorem execDigestWalkDone_answers (die : Nat) (s : State) : Answers (decide (die < 6)) s (execDigestWalkDone die s) :=
  .ifAbsent (by simp) (.ite (.stays s) (.mod s _))

theorem execKeeperDigestReport_answers (s : State) : Answers true s (execKeeperDigestReport s) := by
  refine .next fun h => ?_
  split
  · exact h
  · exact State.inv_ite (State.inv_mod h _) (State.inv_mod h _)

theorem execConfigStale_answers (d : Nat) (s : State) : Answers (decide (d < 6)) s (execConfigStale d s) :=
  .ifPresent (by simp) (.next fun h => State.inv_ite (State.inv_mod h _) h)

theorem execKeeperResetNotice_answers (s : State) : Answers true s (execKeeperResetNotice s) := by
  refine .next fun h => ?_
  split
  · exact h
  · exact State.inv_mod h _

/-! ### Power and heat -/

theorem execOpChangeDone_answers (die half : Nat) (s : State) : Answers (decide (die < 4) && decide (half < 2)) s (execOpChangeDone die half s) :=
  .ifPresent Iff.rfl (.next fun h => State.inv_ite h (State.inv_mod h _))

theorem execDroopDetect_answers (die half : Nat) (s : State) : Answers (isHalf die half) s (execDroopDetect die half s) :=
  .ifPresent Iff.rfl (.next fun h => State.inv_ite h (State.inv_mod h _))

theorem execDroopStep_answers (die half : Nat) (up : Bool) (s : State) : Answers (isHalf die half) s (execDroopStep die half up s) :=
  .ifPresent Iff.rfl (.next fun h => State.inv_ite h (State.inv_ite (State.inv_ite (State.inv_mod h _) h) (State.inv_mod h _)))

theorem execPowerReport_answers (die avg steps : Nat) (s : State) : Answers (decide (die < 6)) s (execPowerReport die avg steps s) :=
  .ifPresent (by simp) (.next fun h => State.inv_ite h (State.inv_mod h _))

theorem execPowerWindow_answers (die mean : Nat) (s : State) : Answers (decide (die < 6)) s (execPowerWindow die mean s) :=
  .ifPresent (by simp) (.next fun h => State.inv_ite h (State.inv_mod h _))

theorem execBudgetLost_answers (die : Nat) (s : State) : Answers (decide (die < 4)) s (execBudgetLost die s) :=
  .ifPresent (by simp) (.next fun h => State.inv_ite h (State.inv_mod h _))

theorem execOverBudget_answers (mean : Nat) (s : State) : Answers true s (execOverBudget mean s) :=
  .next fun h => State.inv_ite h (State.inv_mod h _)

theorem execVinWarn_answers (vin : Nat) (s : State) : Answers true s (execVinWarn vin s) :=
  .ite (.next fun h => State.inv_same h.kept s _ rfl rfl rfl rfl) (.ite (.next fun h => State.inv_same h.kept s s.mod rfl rfl rfl rfl)
    (.next fun h => State.inv_same h.kept s s.mod rfl rfl rfl rfl))

theorem execThermalThrottleStep_answers (die half : Nat) (temps : List Nat) (s : State) :
    Answers (isHalf die half) s (execThermalThrottleStep die half temps s) :=
  .ifPresent Iff.rfl (.next fun h => State.inv_ite h (State.inv_mod h _))

theorem execThermAlert_answers (die n t : Nat) (s : State) :
    Answers (decide (die < 6) && decide (n < (if die < 4 then 16 else 4))) s (execThermAlert die n t s) :=
  .ifPresent Iff.rfl (.next fun h => State.inv_ite h (State.inv_mod h _))

theorem execVinUndervoltage_answers (vin : Nat) (s : State) : Answers true s (execVinUndervoltage vin s) :=
  .next fun h => State.inv_ite h (powerOff_inv (State.inv_same h.kept s s.mod rfl rfl rfl rfl))

theorem execVinOvervoltage_answers (vin : Nat) (s : State) : Answers true s (execVinOvervoltage vin s) :=
  .next fun h => State.inv_ite h (powerOff_inv (State.inv_same h.kept s s.mod rfl rfl rfl rfl))

theorem execPwrEnAssert_answers (s : State) : Answers true s (execPwrEnAssert s) := by
  refine .next fun h => State.inv_ite h (State.inv_aon ?_ s.mod)
  exact AlwaysOn.kept_ite (AlwaysOn.kept_of_eq h.kept rfl rfl rfl rfl) (AlwaysOn.kept_of_eq h.kept rfl rfl rfl rfl)

theorem execPwrEnDeassert_answers (s : State) : Answers true s (execPwrEnDeassert s) :=
  .next fun h => powerOff_inv (State.inv_same h.kept s s.mod rfl rfl rfl rfl)

theorem execThermalTrip_answers (src : Nat) (s : State) :
    Answers (decide (src < 6) || (decide (8 ≤ src) && decide (src < 16))) s (execThermalTrip src s) :=
  .ifPresent Iff.rfl (.next fun h => State.inv_ite (powerOff_inv (State.inv_same h.kept s s.mod rfl rfl rfl rfl)) h)

/-! ### Resets, watchdogs and power states -/

theorem execPo_answers (test dead : Nat) (s : State) : Answers true s (execPo test dead s) :=
  .next fun h => State.inv_ite (bootModule_inv (AlwaysOn.kept_atPo h.kept) s _ test dead) h

theorem execPerstN_answers (test dead : Nat) (s : State) : Answers true s (execPerstN test dead s) :=
  .next fun h => State.inv_ite (moduleReset_inv (s := { s with aon := { s.aon with perstN := false } }) h 1 false test dead) h

theorem execHotReset_answers (test dead : Nat) (s : State) : Answers true s (execHotReset test dead s) :=
  .next fun h => State.inv_ite (moduleReset_inv h 2 false test dead) h

theorem execFlr_answers (test dead : Nat) (s : State) : Answers true s (execFlr test dead s) :=
  .next fun h => State.inv_ite (moduleReset_inv h 3 true test dead) h

theorem execPerstNDeassert_answers (s : State) : Answers true s (execPerstNDeassert s) :=
  .next fun h => State.inv_same h.kept s s.mod rfl rfl rfl rfl

theorem execJtagExtest_answers (s : State) : Answers true s (execJtagExtest s) := by
  refine .next fun h => State.inv_ite h (State.inv_aon ?_ _)
  have hm := AlwaysOn.kept_atMr h.kept s.mod.free.1
  dsimp only
  generalize s.aon.atMr s.mod.free.1 = a at hm ⊢
  exact AlwaysOn.kept_of_eq hm rfl rfl rfl rfl

theorem execExtestRelease_answers (test dead : Nat) (s : State) : Answers true s (execExtestRelease test dead s) := by
  refine .next fun h => State.inv_ite (bootModule_inv ?_ s _ test dead) h
  exact AlwaysOn.kept_of_eq h.kept rfl rfl rfl rfl

theorem execSweepDone_answers (what n : Nat) (s : State) :
    Answers (match what with | 0 => isCore n | 1 => decide (n < 6) | _ => n == 4 || n == 5) s (execSweepDone what n s) := by
  unfold execSweepDone sweepEnd
  match what with
  | 0 => exact .ifPresent Iff.rfl (.mod s _)
  | 1 => exact .ifPresent (p := n < 6) (by simp) (.mod s _)
  | _ + 2 => exact .ifPresent (p := n = 4 ∨ n = 5) (by simp) (.mod s _)

theorem execCoreStop_answers (c : Nat) (s : State) : Answers (isCore c) s (execCoreStop c s) :=
  .ifPresent Iff.rfl (.next fun h => State.inv_ite (State.inv_mod h _) h)

theorem execParkEnter_answers (c : Nat) (s : State) : Answers (isCore c) s (execParkEnter c s) :=
  .ifPresent Iff.rfl (.next fun h => State.inv_ite (State.inv_mod h _) h)

theorem execDozeEnter_answers (die : Nat) (s : State) : Answers (decide (die < 4)) s (execDozeEnter die s) :=
  .ifPresent (by simp) (.next fun h => State.inv_ite (State.inv_mod h _) h)

theorem execD3hotEntry_answers (s : State) : Answers true s (execD3hotEntry s) := .next fun h => State.inv_ite h (State.inv_mod h _)

theorem execD0Return_answers (s : State) : Answers true s (execD0Return s) := .next fun h => State.inv_ite (State.inv_mod h _) h

theorem execCoreWatchdogExpiry_answers (c : Nat) (s : State) : Answers (isCore c) s (execCoreWatchdogExpiry c s) :=
  .ifPresent Iff.rfl (.next fun h => State.inv_ite h (State.inv_ite (State.inv_mod h _) (State.inv_mod h _)))

theorem execStewardWatchdogExpiry_answers (die test dead : Nat) (s : State) : Answers (decide (die < 6)) s (execStewardWatchdogExpiry die test dead s) :=
  .ifPresent (by simp) (.next fun h => State.inv_ite h (State.inv_ite (State.inv_ite (beginDr_inv h die 5) (moduleReset_inv h 5 true test dead))
    (State.inv_mod h _)))

/-! ### Services, attestation and management -/

theorem execUpdateDone_answers (s : State) : Answers true s (execUpdateDone s) := by
  refine .next fun h => ?_
  dsimp only
  split
  · exact h
  · split
    · exact mbox_inv (State.inv_mod h _) 6 []
    · exact State.inv_ite (mbox_inv (State.inv_aon (AlwaysOn.kept_programImage h.kept _ _) _) 0 []) (mbox_inv (State.inv_mod h _) 6 [])

theorem execDoeDiscovery_answers (index : Nat) (s : State) : Answers true s (execDoeDiscovery index s) := .next fun h => answer_inv h _ _ _ _

theorem execGetVersion_answers (doe : Bool) (s : State) : Answers true s (execGetVersion doe s) := .next fun h => answer_inv h _ _ _ _

theorem execGetCapabilities_answers (doe : Bool) (s : State) : Answers true s (execGetCapabilities doe s) := .next fun h => answer_inv h _ _ _ _

theorem execNegotiateAlgorithms_answers (doe : Bool) (s : State) : Answers true s (execNegotiateAlgorithms doe s) :=
  .next fun h => answer_inv h _ _ _ _

theorem execGetDigests_answers (doe : Bool) (s : State) : Answers true s (execGetDigests doe s) := .next fun h => answerOpen_inv h _ _ _ _

theorem execGetCertificate_answers (doe : Bool) (slot : Nat) (s : State) : Answers true s (execGetCertificate doe slot s) :=
  .next fun h => State.inv_ite (answer_inv h _ _ _ _) (answer_inv h _ _ _ _)

theorem execSpdmChallenge_answers (doe : Bool) (s : State) : Answers true s (execSpdmChallenge doe s) := .next fun h => answerOpen_inv h _ _ _ _

theorem execGetMeasurements_answers (doe : Bool) (index : Nat) (s : State) : Answers true s (execGetMeasurements doe index s) :=
  .next fun h => State.inv_ite (answerOpen_inv h _ _ _ _) (State.inv_ite (answerOpen_inv h _ _ _ _)
    (State.inv_ite (answerOpen_inv h _ _ _ _) (answer_inv h _ _ _ _)))

theorem execKeyExchange_answers (doe : Bool) (s : State) : Answers true s (execKeyExchange doe s) := .next fun h => answer_inv h _ _ _ _

theorem execMctpControl_answers (cmd arg : Nat) (s : State) : Answers true s (execMctpControl cmd arg s) := by
  refine .next fun h => State.inv_ite h (State.inv_mod ?_ _)
  exact State.inv_ite (State.inv_same h.kept s s.mod rfl rfl rfl rfl) h

theorem execPldmRequest_answers (sensor : Nat) (s : State) : Answers true s (execPldmRequest sensor s) := by
  refine .next fun h => State.inv_ite ?_ (State.inv_ite h ?_)
  · split
    · exact State.inv_ite (State.inv_mod h _) (State.inv_mod h _)
    · exact h
  · exact State.inv_ite (State.inv_mod h _) (State.inv_ite (State.inv_mod h _) (State.inv_ite (State.inv_mod h _) (State.inv_ite (State.inv_mod h _)
      (State.inv_ite (State.inv_mod h _) (State.inv_ite (State.inv_mod h _) (State.inv_mod h _))))))

/-! ### Rings, PERF pages and the host port -/

theorem execPerfCounterWrap_answers (die page k : Nat) (s : State) : Answers (isPerfPage die page) s (execPerfCounterWrap die page k s) := by
  unfold execPerfCounterWrap
  split
  · next n hb =>
    have present : isPerfPage die page = true := by simp only [isPerfPage, hb]
    rw [present]
    exact .next fun h => State.inv_ite (State.inv_mod h _) h
  · next hb =>
    have missing : isPerfPage die page = false := by
      unfold isPerfPage
      split
      · next n h => exact absurd h (hb n)
      · rfl
    rw [missing]
    exact .absent s page

theorem execTaskCompletion_answers (i : Nat) (s : State) : Answers true s (execTaskCompletion i s) := by
  unfold execTaskCompletion
  split
  · exact .stays s
  · split
    · exact .stays s
    · exact .mod s _

theorem execCompletionEntry_answers (r : Nat) (s : State) : Answers (decide (r < 16)) s (execCompletionEntry r s) := by
  refine .ifAbsent (by simp) ?_
  dsimp only
  split
  · exact .stays s
  · refine .ite (.stays s) ?_
    split
    · exact .mod s _
    · exact .ite (.mod s _) (.mod s _)

theorem execHostLinkTraining_answers (rate width : Nat) (s : State) : Answers true s (execHostLinkTraining rate width s) :=
  .next fun h => State.inv_ite (State.inv_mod h _) h

theorem execHostLinkDown_answers (s : State) : Answers true s (execHostLinkDown s) := .next fun h => State.inv_ite (State.inv_mod h _) h

theorem execUnsupportedRequest_answers (tag hdr : Nat) (s : State) : Answers true s (execUnsupportedRequest tag hdr s) :=
  .next fun h => State.inv_ite (State.inv_mod h _) h

theorem execUnexpectedCompletion_answers (ecrc : Bool) (hdr : Nat) (s : State) : Answers true s (execUnexpectedCompletion ecrc hdr s) :=
  .next fun h => State.inv_ite (State.inv_mod h _) h

theorem execMalformedTlp_answers (kind hdr : Nat) (s : State) : Answers true s (execMalformedTlp kind hdr s) :=
  .next fun h => State.inv_ite (State.inv_mod h _) h

theorem execReceiverError_answers (kind : Nat) (s : State) : Answers true s (execReceiverError kind s) :=
  .next fun h => State.inv_ite (State.inv_mod h _) h

theorem execHostMemoryWrite_answers (bar off len data : Nat) (ep : Bool) (hdr test dead : Nat) (s : State) :
    Answers true s (execHostMemoryWrite bar off len data ep hdr test dead s) := by
  refine .next fun h => State.inv_ite h (State.inv_ite (State.inv_mod h _) (State.inv_ite (State.inv_mod h _) ?_))
  dsimp only
  split
  · exact State.inv_ite (State.inv_mod h _) (State.inv_mod h _)
  · split
    · exact State.inv_ite (State.inv_mod h _) (regAccess_inv (State.inv_mod h _) _ _ _ _ _ _ _ _ _)
    · exact State.inv_mod h _
  · exact State.inv_mod h _
  · exact State.inv_mod h _

theorem execHostMemoryRead_answers (bar off len tag : Nat) (s : State) : Answers true s (execHostMemoryRead bar off len tag s) := by
  refine .next fun h => State.inv_ite h (State.inv_ite (State.inv_mod h _) ?_)
  dsimp only
  split
  · exact State.inv_mod h _
  · exact State.inv_mod h _
  · exact State.inv_mod h _
  · split
    · split <;> exact State.inv_mod h _
    · exact State.inv_mod h _

theorem execHostWindowAccess_answers (id : Nat) (s : State) : Answers true s (execHostWindowAccess id s) := by
  unfold execHostWindowAccess
  split
  · exact .stays s
  · refine .next fun h => ?_
    split
    · exact State.inv_ite h (State.inv_mod h _)
    · exact h

theorem execHostCompletion_answers (id status data : Nat) (s : State) : Answers true s (execHostCompletion id status data s) := by
  refine .next fun h => ?_
  split
  · exact h
  · exact State.inv_mod h _

theorem execCompletionTimeout_answers (id : Nat) (s : State) : Answers true s (execCompletionTimeout id s) := by
  refine .next fun h => ?_
  split
  · exact h
  · exact State.inv_mod h _

theorem execMsixUnmask_answers (v : Nat) (s : State) : Answers (decide (v < 256)) s (execMsixUnmask v s) :=
  .ifAbsent (by simp) (.next fun h => State.inv_ite (State.inv_mod h _) h)

theorem execBarResize_answers (n : Nat) (s : State) : Answers true s (execBarResize n s) := .next fun h => State.inv_ite (State.inv_mod h _) h

theorem execConfigurationRequest_answers (tag dw : Nat) (write : Bool) (v : BitVec 32) (s : State) :
    Answers true s (execConfigurationRequest tag dw write v s) :=
  .next fun h => State.inv_ite h (State.inv_ite (State.inv_mod h _) (State.inv_ite (State.inv_mod h _) (State.inv_mod h _)))

theorem execAuthorisedDebug_answers (op c x : Nat) (v : Word) (s : State) :
    Answers (decide (4 ≤ op) || isCpu c) s (execAuthorisedDebug op c x v s) := by
  refine .ifAbsent (by simp) (.next fun h => State.inv_ite h ?_)
  split
  · exact State.inv_mod h _
  · exact State.inv_mod h _
  · exact State.inv_ite (State.inv_mod h _) h
  · exact State.inv_ite (State.inv_mod h _) h
  · split
    · next die page off _ =>
      have acc := regAccess_inv h {} fwCode die page off 8 (op == 5) true v.toNat
      refine State.inv_ite h ?_
      dsimp only
      split
      · exact State.inv_mod acc _
      · exact acc
    · exact h

end Sys2Proof.Machine
end

section
/-! Every command, and every step. -/

namespace Sys2Proof.Machine

/-- Every command whose agents the module has answers with a next state that keeps the invariant; every other stops with the fault of an
absent agent. The commands that share a shape come first, then those of an own one. -/
theorem exec_answers (i : Instr) (s : State) : Answers i.wf s (exec i s) := by
  cases i with dsimp only [exec]
  | ill c _ _ | nop c _ _ | mov c _ _ | add c _ _ | sub c _ _ | and c _ _ | or c _ _ | xor c _ _ | shl c _ _ | shr c _ _ | sar c _ _
  | ror c _ _ | slt c _ _ | sltu c _ _ | seq c _ _ | not c _ _ | neg c _ _ | min c _ _ | max c _ _ | clz c _ _ | popc c _ _ | sxb c _ _
  | sxh c _ _ | sxw c _ _ | mul c _ _ | mulu c _ _ | mulh c _ _ | mac c _ _ | div c _ _ | divu c _ _ | muldivResult c | mfpl c _ _
  | mfph c _ _ | mtpl c _ _ | mtph c _ _ | ld c _ _ _ | ldu c _ _ _ | st c _ _ _ | jr c _ _ | mtp c _ _ | mfp c _ _ | addi c _ _ _
  | andi c _ _ _ | ori c _ _ _ | xori c _ _ _ | shli c _ _ _ | shri c _ _ _ | sari c _ _ _ | slti c _ _ _ | movi c _ _ | movk c _ _
  | alu3 c _ _ _ _ | ldFormM c _ _ _ _ | ldU c _ _ _ _ | stFormM c _ _ _ _ | ldp c _ _ _ _ _ _ | stp c _ _ _ _ _ _ | loadDataReturn c _
  | writeAcknowledge c _ | beq c _ _ _ | bne c _ _ _ | blt c _ _ _ | bge c _ _ _ | bltu c _ _ _ | bgeu c _ _ _ | bz c _ _ | bnz c _ _
  | j c _ _ | loop c _ _ _ _ | loopi c _ _ _ | mfs c _ | mts c _ | mtsCs c _ | csWriteCommit c | mtsPmseg c _ | pmld c _ | noticeRead c _
  | faultEntry c _ | interruptEntry c | reportEntry c | eret c _ | tmulComplete c | matxWalkBegin c | matxStep c | matxWriteout c
  | matxCompletion c | wcbWriteout c _ | cribFill c _ | translationWalk c | walkComplete c | tlbinv c _ | rangeEntryRelease c _ | fence c _
  | fenceRel c _ | fenceAcq c _ | sig c _ | wait c _ | waitComplete c | stookArrive c _ | stookWaitg c _ | stookWaitgComplete c | send c _
  | trysend c _ | chuteRequest c _ | chuteResponse c | sendRetry c | reservationTimeout c _ | recv c _ | recvTry c _ | recvFree c _
  | idle c _ | idleWake c | wdkick c _ | recvComplete c => exact onCpu_answers c s _
  | syscall c _ | gret c _ | vld c _ | vst c _ | vlds c _ | vsts c _ | vgath c _ | vscat c _ | vtrd c _ | vtwr c _ | vard c _ | vawr c _
  | tld c _ _ | tst c _ | tmul c _ | tsave c _ | trestore c _ | matx c _ | tyield c _ | tyieldR c _ => exact onCoreOnly_answers c _ s _
  | vcvt c _ | vsplat c _ | vcmp c _ | qop c _ | mtq c _ | mfq c _ | vsel c _ | vsf c _ | vred c _ | vperm c _ | vrot c _ | vins c _
  | vext c _ => exact vOp_answers c _ _ _ _ _ s
  | vadd c _ | vsub c _ | vmul c _ | vfma c _ | vmin c _ | vmax c _ | vabs c _ | vneg c _ | vshl c _ | vshr c _ | vsar c _ =>
    exact vArith_answers c _ _ _ _ _ s
  | vand c _ | vor c _ | vxor c _ => exact vBits_answers c _ _ s
  | furrowArmedEntry c | furrowEntryComplete c | ruleDispatch c | firingOutput c _ | tokenArrival c _ | injectorTake c _ | ejectorWrite c _
  | furrowDrained c => exact onFurrow_answers c s _
  | wainMove w | wainLoop w | wainWaitCounter w | wainWaitCadence w | wainSignalCounter w | wainSignalMessage w | wainPlane w | wainEnd w =>
    exact wainRun_answers w _ s _
  | wgoStart c _ | wgoStop c _ => exact wgoIssue_answers _ c _ s
  | intakeNop r | intakeRun r | intakeFence r | intakeSignal r => exact intake_answers _ r _ s
  | registerWrite _ a | registerReadClear a | lock a | freeze a | irqTest a | cfgEpochWrite a | perfClear a | perfSnap a | digestGo a
  | keeperCfgEpochWrite a | placeEntWrite a | corePmDataWrite a | corePmDataRead a | coreRunStart a | coreRunStop a | sheafInc a
  | stookMaskWrite a | watchCapture a | chuteEnable a | wainGo a | wainStop a | furrowEnter a | furrowDrain a | furrowExit a
  | dielinkRetrain a | lpEnter a | accEnable a | accDisable a | finalise a | zero a | granaryCtrlWrite a | secApply a | load a
  | cadTimeLowRead a | frameCfgWrite a | slotEnable a | msixSend a | bar2AperWrite a | ringEnable a | cr a | pr a | dr a | pmapWrite a
  | parkRequest a | parkClear a | dozeRequest a | dozeClear a | retire a | unretire a | stewardWatchdogKick a | status a | selfTest a
  | challenge a | random a | enrolCo a | enrolUser a | enrolCert a | update a | lifecycle a | debugUnlock a | zeroise a | recoveryGo a
  | pwrOpWrite a | pwrGrant a | ringRewrite a => exact regRow_answers _ _ a s
  | counterIncrement _ | stookArrival _ | barnRead _ | barnWrite _ | accumulatingWriteFast _ | accumulatingWriteExact _ => exact .mod s _
  | perfCounterWrap die page k => exact execPerfCounterWrap_answers die page k s
  | digestWalkDone die => exact execDigestWalkDone_answers die s
  | keeperDigestReport => exact execKeeperDigestReport_answers s
  | configStale d => exact execConfigStale_answers d s
  | keeperResetNotice => exact execKeeperResetNotice_answers s
  | coreStop c => exact execCoreStop_answers c s
  | loftWindowAccess id => exact execLoftWindowAccess_answers id s
  | stallDetected die g => exact execStallDetected_answers die g s
  | wainFetch w => exact execWainFetch_answers w s
  | wainWaitComplete w => exact execWainWaitComplete_answers w s
  | wainSignalRetry w => exact execWainSignalRetry_answers w s
  | wainWriteAck w id => exact execWainWriteAck_answers w id s
  | checkFrame die page k frames seq reply crc => exact execCheckFrame_answers die page k frames seq reply crc s
  | replay die page k => exact execReplay_answers die page k s
  | checkTimeout die page => exact execCheckTimeout_answers die page s
  | training l rxLow rxHigh => exact execTraining_answers l rxLow rxHigh s
  | trainAckTimeout die page => exact execTrainAckTimeout_answers die page s
  | downRetry die page => exact execDownRetry_answers die page s
  | beaconSend die page => exact execBeaconSend_answers die page s
  | beaconReceive die page => exact execBeaconReceive_answers die page s
  | beaconLost die page => exact execBeaconLost_answers die page s
  | resetNotice die page => exact execResetNotice_answers die page s
  | lpExit wake a => exact execLpExit_answers wake a s
  | patrolRead k l => exact execPatrolRead_answers k l s
  | finaliseComplete die n => exact execFinaliseComplete_answers die n s
  | zeroComplete die n => exact execZeroComplete_answers die n s
  | ppsEdge el => exact execPpsEdge_answers el s
  | ppsLost => exact execPpsLost_answers s
  | frameInEdge el => exact execFrameInEdge_answers el s
  | freeRunEdge => exact execFreeRunEdge_answers s
  | frameLost => exact execFrameLost_answers s
  | holdoverEdge => exact execHoldoverEdge_answers s
  | lineBoundary => exact execLineBoundary_answers s
  | tickWord die good => exact execTickWord_answers die good s
  | intakeReadResponse idx => exact execIntakeReadResponse_answers idx s
  | intakePeriodSample die => exact execIntakePeriodSample_answers die s
  | hostMemoryWrite bar off len data ep hdr test dead => exact execHostMemoryWrite_answers bar off len data ep hdr test dead s
  | hostMemoryRead bar off len tag => exact execHostMemoryRead_answers bar off len tag s
  | hostWindowAccess id => exact execHostWindowAccess_answers id s
  | hostCompletion id status data => exact execHostCompletion_answers id status data s
  | completionTimeout id => exact execCompletionTimeout_answers id s
  | msixUnmask v => exact execMsixUnmask_answers v s
  | barResize n => exact execBarResize_answers n s
  | taskCompletion idx => exact execTaskCompletion_answers idx s
  | completionEntry r => exact execCompletionEntry_answers r s
  | perstN test dead => exact execPerstN_answers test dead s
  | hotReset test dead => exact execHotReset_answers test dead s
  | flr test dead => exact execFlr_answers test dead s
  | d3hotEntry => exact execD3hotEntry_answers s
  | d0Return => exact execD0Return_answers s
  | doeDiscovery index => exact execDoeDiscovery_answers index s
  | getVersion doe => exact execGetVersion_answers doe s
  | getCapabilities doe => exact execGetCapabilities_answers doe s
  | negotiateAlgorithms doe => exact execNegotiateAlgorithms_answers doe s
  | getDigests doe => exact execGetDigests_answers doe s
  | getCertificate doe slot => exact execGetCertificate_answers doe slot s
  | spdmChallenge doe => exact execSpdmChallenge_answers doe s
  | getMeasurements doe index => exact execGetMeasurements_answers doe index s
  | keyExchange doe => exact execKeyExchange_answers doe s
  | mctpControl cmd arg => exact execMctpControl_answers cmd arg s
  | pldmRequest sensor => exact execPldmRequest_answers sensor s
  | po test dead => exact execPo_answers test dead s
  | sweepDone what n => exact execSweepDone_answers what n s
  | parkEnter c => exact execParkEnter_answers c s
  | dozeEnter die => exact execDozeEnter_answers die s
  | coreWatchdogExpiry c => exact execCoreWatchdogExpiry_answers c s
  | stewardWatchdogExpiry die test dead => exact execStewardWatchdogExpiry_answers die test dead s
  | updateDone => exact execUpdateDone_answers s
  | jtagExtest => exact execJtagExtest_answers s
  | vinUndervoltage vin => exact execVinUndervoltage_answers vin s
  | vinOvervoltage vin => exact execVinOvervoltage_answers vin s
  | pwrEnAssert => exact execPwrEnAssert_answers s
  | pwrEnDeassert => exact execPwrEnDeassert_answers s
  | opChangeDone die half => exact execOpChangeDone_answers die half s
  | droopDetect die half => exact execDroopDetect_answers die half s
  | droopStep die half up => exact execDroopStep_answers die half up s
  | powerReport die avg steps => exact execPowerReport_answers die avg steps s
  | powerWindow die mean => exact execPowerWindow_answers die mean s
  | budgetLost die => exact execBudgetLost_answers die s
  | overBudget mean => exact execOverBudget_answers mean s
  | thermalThrottleStep die half temps => exact execThermalThrottleStep_answers die half temps s
  | thermalTrip src => exact execThermalTrip_answers src s
  | hostLinkTraining rate width => exact execHostLinkTraining_answers rate width s
  | hostLinkDown => exact execHostLinkDown_answers s
  | configurationRequest tag dw write v => exact execConfigurationRequest_answers tag dw write v s
  | unsupportedRequest tag hdr => exact execUnsupportedRequest_answers tag hdr s
  | unexpectedCompletion ecrc hdr => exact execUnexpectedCompletion_answers ecrc hdr s
  | malformedTlp kind hdr => exact execMalformedTlp_answers kind hdr s
  | receiverError kind => exact execReceiverError_answers kind s
  | perstNDeassert => exact execPerstNDeassert_answers s
  | vinWarn vin => exact execVinWarn_answers vin s
  | thermAlert die n t => exact execThermAlert_answers die n t s
  | doubledRefresh k temp => exact execDoubledRefresh_answers k temp s
  | ecsRead k count => exact execEcsRead_answers k count s
  | stewardReload d => exact execStewardReload_answers d s
  | extestRelease test dead => exact execExtestRelease_answers test dead s
  | authorisedDebug op c x v => exact execAuthorisedDebug_answers op c x v s

/-- Nothing that the invariant speaks of changes while the queue is empty. -/
theorem idleStep_inv {s : State} (h : s.Inv) : (idleStep s).Inv := State.inv_ite (State.inv_aon (AlwaysOn.kept_advance h.kept 15) s.mod) h

theorem exec_inv {i : Instr} {s t : State} (h : s.Inv) (ht : exec i s = .next t) : t.Inv := by
  obtain ⟨present, absent⟩ := exec_answers i s
  cases hw : i.wf with
  | true =>
    obtain ⟨u, hu, keeps⟩ := present hw
    cases hu.symm.trans ht
    exact keeps h
  | false =>
    obtain ⟨n, hn⟩ := absent hw
    exact nomatch hn.symm.trans ht

/-- Settles O59: each command keeps the invariant, and so does the cycle that passes when none waits. -/
theorem stepsKeepInvariant : Obligations.StepsKeepInvariant := by
  intro s t h hs
  unfold step at hs
  split at hs
  · cases hs
    exact idleStep_inv h
  · next i rest _ => exact exec_inv (s := { s with pending := rest }) h hs

/-- Settles O60: what every command answers is decided by whether its agents exist (log entries 2 and 4). -/
theorem everyCommandAnswers : Obligations.EveryCommandAnswers := by
  intro i s
  obtain ⟨present, absent⟩ := exec_answers i s
  exact ⟨fun h => (present h).imp fun _ ht => ht.1, absent⟩

end Sys2Proof.Machine
end

section
/-! Commands that are register accesses: the register that a command's row names passes the command's own test. -/

namespace Sys2Proof.Machine

/-! ### Bits of a full-width write -/

theorem full_and (v : Word) : (2 ^ 64 - 1) &&& v.toNat = v.toNat := by
  rw [Nat.and_comm, Nat.and_two_pow_sub_one_eq_mod, Nat.mod_eq_of_lt v.isLt]

/-- Every bit of a full-width write is addressed. -/
theorem wrote_full (v : Word) (b : Nat) : wrote (2 ^ 64 - 1) v.toNat b = bitOn v b := by
  unfold wrote bitOn
  rw [full_and]

theorem bits_full {b : Nat} (hb : b < 64) : bits (2 ^ 64 - 1) b 1 = 1 := by
  unfold bits
  interval_cases b <;> rfl

theorem bitOn_eq_false (v : Word) (b : Nat) : bitOn v b = false ↔ bits v.toNat b 1 = 0 := by
  have h : bits v.toNat b 1 < 2 := bits_lt v.toNat b 1
  unfold bitOn
  rw [beq_eq_false_iff_ne]
  omega

theorem wrote0_full (v : Word) {b : Nat} (hb : b < 64) : wrote0 (2 ^ 64 - 1) v.toNat b = !bitOn v b := by
  unfold wrote0
  rw [bits_full hb]
  cases h : bitOn v b with
  | false => simp [(bitOn_eq_false v b).mp h]
  | true =>
    have h1 : bits v.toNat b 1 = 1 := by simpa [bitOn] using h
    simp [h1]

/-! ### Tests that a row's target passes -/

/-- A full-width access of `v` to a register that the row names passes the command's test. -/
def RegTest.Accepts (ok : RegTest) (tgt : RegTarget) (v : Word) : Prop :=
  ∀ die page off s, off % 8 = 0 → tgt die page off s = true → ok s die page off (2 ^ 64 - 1) v.toNat = true

theorem inBlock_eq (b : Block) (f : Nat → Nat → Nat → Bool) (s : State) (die page off we wv : Nat) :
    inBlock b f s die page off we wv = (pageOf b die page && f off we wv) := by
  unfold inBlock pageOf
  cases blockAt die page <;> rfl

theorem inBlock_accepts {b : Block} {f : Nat → Nat → Nat → Bool} {lo hi : Nat} {p : Bool} {v : Word}
    (hf : ∀ off, off % 8 = 0 → lo ≤ off → off ≤ hi → p = true → f off (2 ^ 64 - 1) v.toNat = true) :
    RegTest.Accepts (inBlock b f) (.of b lo hi p) v := by
  intro die page off s h8 ht
  simp only [RegTarget.of, Bool.and_eq_true, decide_eq_true_eq] at ht
  obtain ⟨⟨⟨hb, hlo⟩, hhi⟩, hp⟩ := ht
  rw [inBlock_eq, hb, hf off h8 hlo hhi hp, Bool.and_self]

/-- Any write of one register. -/
theorem inBlock_accepts_at (b : Block) (x : Nat) (v : Word) : RegTest.Accepts (inBlock b (fun o _ _ => o == x)) (.of b x x true) v :=
  inBlock_accepts fun off _ hlo hhi _ => beq_iff_eq.mpr (by omega)

theorem bitOf_accepts (b : Block) (x bit : Nat) (v : Word) : RegTest.Accepts (bitOf b x bit) (.of b x x (bitOn v bit)) v :=
  inBlock_accepts fun off _ hlo hhi hp => by
    rw [wrote_full, hp, Bool.and_true]
    exact beq_iff_eq.mpr (by omega)

/-- A write of one register that leaves a bit 0. -/
theorem inBlock_accepts_clear (b : Block) (x : Nat) {bit : Nat} (hb : bit < 64) (v : Word) :
    RegTest.Accepts (inBlock b (fun o we wv => o == x && wrote0 we wv bit)) (.of b x x (!bitOn v bit)) v :=
  inBlock_accepts fun off _ hlo hhi hp => by
    rw [wrote0_full v hb, hp, Bool.and_true]
    exact beq_iff_eq.mpr (by omega)

theorem accWord_accepts (i : Nat) {f : Nat → Nat → Bool} {p : Bool} {v : Word} (hf : p = true → f (2 ^ 64 - 1) v.toNat = true) :
    RegTest.Accepts (accWord i f) (.acc i p) v := by
  intro die page off s h8 ht
  simp only [RegTarget.acc, Bool.and_eq_true, decide_eq_true_eq] at ht
  obtain ⟨⟨⟨⟨hb, hlo⟩, hhi⟩, hi⟩, hp⟩ := ht
  unfold accWord
  rw [inBlock_eq, hb, hf hp]
  have hw : (off - 0x400) % 0x40 / 8 = i := by omega
  simp [hlo, hhi, hw]

/-- A register of a compute die's STEWARD page below an end that is a multiple of 8 after the last. -/
theorem stwReg_accepts {lo hi top : Nat} {f : Nat → Nat → Nat → Bool} {p : Nat → Bool} {v : Word} (htop : hi < top)
    (hf : ∀ old, old < 2 ^ 64 → p old = true → f old (2 ^ 64 - 1) v.toNat = true) : RegTest.Accepts (stwReg lo top f) (.stw lo hi p) v := by
  intro die page off s h8 ht
  simp only [RegTarget.stw, Bool.and_eq_true, decide_eq_true_eq] at ht
  obtain ⟨⟨⟨⟨hb, hd⟩, hlo⟩, hhi⟩, hp⟩ := ht
  unfold stwReg
  rw [inBlock_eq, hb, hf _ (Mod.reg_lt _ _ _ _) hp]
  simp only [hlo, hd, decide_true, Bool.and_true, Bool.true_and, decide_eq_true_eq]
  omega

theorem ringTest_accepts (a : RegAcc) (was : Nat) : RegTest.Accepts (ringTest was) (.ring a was) a.v := by
  intro die page off s h8 ht
  simp only [RegTarget.ring, Bool.and_eq_true, decide_eq_true_eq] at ht
  obtain ⟨⟨⟨⟨⟨hb, hlo⟩, hhi⟩, hm⟩, hw⟩, hv⟩ := ht
  unfold ringTest
  rw [inBlock_eq, hb, wrote_full, wrote0_full a.v (by decide), hv, hw]
  simp [hlo, hhi, hm]

theorem service_accepts (a : RegAcc) (code : Nat) : RegTest.Accepts (service code) (.service a code none) a.v := by
  intro die page off s h8 ht
  simp only [RegTarget.service, Bool.or_false, Bool.and_eq_true, decide_eq_true_eq] at ht
  obtain ⟨⟨hb, hd⟩, ⟨ho, hv⟩, hc⟩ := ht
  unfold service bitOf
  rw [inBlock_eq, hb, wrote_full, hv]
  simp [hd, ho, hc]

theorem serviceOr_accepts (a : RegAcc) (code bit : Nat) : RegTest.Accepts (serviceOr code bit) (.service a code (some bit)) a.v := by
  intro die page off s h8 ht
  simp only [RegTarget.service, Bool.and_eq_true, Bool.or_eq_true, decide_eq_true_eq] at ht
  obtain ⟨⟨hb, rfl⟩, hgo | ⟨ho, hv⟩⟩ := ht
  · unfold serviceOr
    rw [service_accepts a code 4 page off s h8 (by simpa [RegTarget.service, hb] using hgo), Bool.true_or]
  · unfold serviceOr bitOf
    rw [inBlock_eq .keeper _ s, hb, wrote_full, hv]
    simp [ho]

theorem chuteEnable_accepts (a : RegAcc) :
    RegTest.Accepts (fun s d p o we wv =>
      inBlock .chute (fun o we wv => decide (0x100 ≤ o) && decide (o < 0x200) && o % 0x20 == 0 && wrote we wv 0) s d p o we wv ||
      inBlock .steward (fun o we wv => decide (0x600 ≤ o) && decide (o < 0x700) && o % 0x20 == 0 && wrote we wv 0) s d p o we wv)
    (fun die page off _ => decide (off % 0x20 = 0) && bitOn a.v 0 &&
      ((pageOf .chute die page && decide (0x100 ≤ off) && decide (off < 0x200)) ||
        (pageOf .steward die page && decide (0x600 ≤ off) && decide (off < 0x700)))) a.v := by
  intro die page off s h8 ht
  simp only [Bool.and_eq_true, Bool.or_eq_true, decide_eq_true_eq] at ht
  obtain ⟨⟨hm, hv⟩, hc | hs⟩ := ht
  · simp only [inBlock_eq, wrote_full]
    simp [hm, hv, hc]
  · simp only [inBlock_eq, wrote_full]
    simp [hm, hv, hs]

/-- Setting bits: some bit of the value is 1. -/
theorem full_and_ne_zero {v : Word} (h : (v != 0) = true) : (((2 ^ 64 - 1) &&& v.toNat) != 0) = true := by
  rw [full_and]
  simp only [bne_iff_ne, ne_eq] at h ⊢
  exact fun e => h (BitVec.eq_of_toNat_eq e)

/-- Clearing bits: a full-width write addresses every bit that was 1. -/
theorem cleared_full {old : Nat} (ho : old < 2 ^ 64) (x : Nat) : old &&& (2 ^ 64 - 1) &&& x = old &&& x := by
  rw [Nat.and_two_pow_sub_one_eq_mod, Nat.mod_eq_of_lt ho]

/-! ### The commands -/

/-- Each command that is a register write is that write behind a test that its row's target passes. -/
theorem exec_writeCommand {i : Instr} {a : RegAcc} {tgt : RegTarget} (h : writeCommand i = some (a, tgt)) (s : State) :
    ∃ ok : RegTest, exec i s = regRow true ok a s ∧ ok.Accepts tgt a.v := by
  cases i with (dsimp only [writeCommand] at h; dsimp only [exec])
  | registerWrite w b =>
    cases w with
    | true => cases h; exact ⟨_, rfl, fun _ _ _ _ _ _ => rfl⟩
    | false => cases h
  | lpExit w b =>
    cases w with
    | none => cases h; exact ⟨_, rfl, inBlock_accepts_clear .dielink 0x100 (by decide) a.v⟩
    | some x => cases h
  | lock b =>
    cases h
    refine ⟨_, rfl, fun _ _ off _ _ ht => ?_⟩
    rw [wrote_full]
    simpa using ht
  | freeze b =>
    cases h
    refine ⟨_, rfl, fun _ _ off _ _ ht => ?_⟩
    rw [bits_full (by decide)]
    simpa using ht
  | irqTest b | cfgEpochWrite b =>
    cases h
    refine ⟨_, rfl, fun _ _ off _ _ ht => ?_⟩
    simpa using ht
  | perfClear b | perfSnap b | digestGo b | watchCapture b | wainGo b | wainStop b | furrowEnter b | furrowDrain b | furrowExit b | dielinkRetrain b
  | lpEnter b | secApply b | load b | stewardWatchdogKick b | recoveryGo b =>
    cases h
    exact ⟨_, rfl, bitOf_accepts _ _ _ a.v⟩
  | keeperCfgEpochWrite b | corePmDataWrite b | sheafInc b | granaryCtrlWrite b | frameCfgWrite b | msixSend b | bar2AperWrite b | pwrOpWrite b =>
    cases h
    exact ⟨_, rfl, inBlock_accepts_at _ _ a.v⟩
  | placeEntWrite b | pwrGrant b =>
    cases h
    refine ⟨_, rfl, inBlock_accepts fun off _ hlo hhi _ => ?_⟩
    simp only [Bool.and_eq_true, decide_eq_true_eq]
    omega
  | slotEnable b =>
    cases h
    refine ⟨_, rfl, inBlock_accepts fun off _ hlo hhi hp => ?_⟩
    rw [full_and_ne_zero hp, Bool.and_true]
    exact beq_iff_eq.mpr (by omega)
  | coreRunStart b =>
    cases h
    refine ⟨_, rfl, fun die page off s h8 ht => ?_⟩
    simp only [Bool.and_eq_true, decide_eq_true_eq] at ht
    obtain ⟨hb, hr⟩ := ht
    rw [bitOf_accepts .core 0x100 0 a.v die page off s h8 hb]
    simp [hr]
  | coreRunStop b =>
    cases h
    refine ⟨_, rfl, fun die page off s h8 ht => ?_⟩
    simp only [Bool.and_eq_true, decide_eq_true_eq] at ht
    obtain ⟨hb, hr⟩ := ht
    rw [inBlock_accepts_clear .core 0x100 (by decide) a.v die page off s h8 hb]
    simp [hr]
  | stookMaskWrite b =>
    cases h
    refine ⟨_, rfl, fun die page off s h8 ht => ?_⟩
    simpa [inBlock_eq] using ht
  | chuteEnable b => cases h; exact ⟨_, rfl, chuteEnable_accepts a⟩
  | accEnable b | finalise b | zero b =>
    cases h
    exact ⟨_, rfl, accWord_accepts _ fun hp => (wrote_full _ _).trans hp⟩
  | accDisable b =>
    cases h
    exact ⟨_, rfl, accWord_accepts 0 fun hp => (wrote0_full _ (by decide)).trans hp⟩
  | ringEnable b | ringRewrite b => cases h; exact ⟨_, rfl, ringTest_accepts a _⟩
  | cr b | pr b | dozeRequest b => cases h; exact ⟨_, rfl, stwReg_accepts (by decide) fun _ _ hp => (wrote_full _ _).trans hp⟩
  | dozeClear b => cases h; exact ⟨_, rfl, stwReg_accepts (by decide) fun _ _ hp => (wrote0_full _ (by decide)).trans hp⟩
  | pmapWrite b => cases h; exact ⟨_, rfl, stwReg_accepts (by decide) fun _ _ _ => rfl⟩
  | retire b | parkRequest b => cases h; exact ⟨_, rfl, stwReg_accepts (by decide) fun _ _ hp => full_and_ne_zero hp⟩
  | unretire b | parkClear b =>
    cases h
    refine ⟨_, rfl, stwReg_accepts (by decide) fun old ho hp => ?_⟩
    rw [cleared_full ho]
    exact hp
  | dr b =>
    cases h
    refine ⟨_, rfl, fun die page off s h8 ht => ?_⟩
    simp only [Bool.and_eq_true, decide_eq_true_eq] at ht
    obtain ⟨⟨⟨hb, hd⟩, ho⟩, hv⟩ := ht
    rw [bitOf_accepts .sweep 0x118 8 a.v die page off s h8 (by simp [RegTarget.of, hb, ho, hv])]
    simp [hd]
  | status b | challenge b | random b | enrolCo b | enrolUser b | enrolCert b | update b | lifecycle b | debugUnlock b =>
    cases h
    exact ⟨_, rfl, service_accepts a _⟩
  | selfTest b | zeroise b => cases h; exact ⟨_, rfl, serviceOr_accepts a _ _⟩
  | _ => cases h

/-- A command that is an admitted read of a register passes its test and reads the register. -/
theorem regRow_reads {ok : RegTest} {a : RegAcc} {s : State} {die page off v : Nat} (h : s.admits a die page off = true)
    (ht : ∀ we wv, ok s die page off we wv = true) (hr : (readReg s.aon s.mod a.q die page off 8).1 = some v) :
    regRow false ok a s = .next (s.upd (fun m => (readReg s.aon m a.q die page off 8).2)) := by
  simp only [State.admits, State.up, accessOf, Bool.and_eq_true, Bool.not_eq_true', decide_eq_true_eq, Option.isNone_iff_eq_none] at h
  obtain ⟨⟨⟨⟨⟨hp, hdue⟩, ⟨⟨⟨⟨⟨⟨⟨hid, hq⟩, hm⟩, hs⟩, hd⟩, hpg⟩, ho⟩, ho8⟩⟩, -⟩, -⟩, -⟩ := h
  have hoff : off / 8 * 8 = off := by omega
  simp only [regRow, hid, Option.isNone_none, hq, Bool.not_true, Bool.and_false, Bool.false_eq_true, ↓reduceIte, hp, hdue, Bool.or_self, hm,
    decodeMpa_regMpa hd hpg ho, hs, hoff, ht, regAccess, State.upd]
  split
  · next e => rw [e]
  · next e => rw [e] at hr; cases hr

/-- Each command that is a register read is that read behind a test that its row's target passes. -/
theorem exec_readCommand {i : Instr} {a : RegAcc} {tgt : RegTarget} (h : readCommand i = some (a, tgt)) (s : State) :
    ∃ ok : RegTest, exec i s = regRow false ok a s ∧ ∀ die page off s we wv, tgt die page off s = true → ok s die page off we wv = true := by
  cases i with (dsimp only [readCommand] at h; dsimp only [exec])
  | registerWrite w b =>
    cases w with
    | true => cases h
    | false => cases h; exact ⟨_, rfl, fun _ _ _ _ _ _ _ => rfl⟩
  | registerReadClear b => cases h; exact ⟨_, rfl, fun _ _ _ _ _ _ ht => ht⟩
  | corePmDataRead b =>
    cases h
    refine ⟨_, rfl, fun die page off s we wv ht => ?_⟩
    simp only [RegTarget.of, Bool.and_eq_true, decide_eq_true_eq] at ht
    obtain ⟨⟨⟨hb, hlo⟩, hhi⟩, -⟩ := ht
    rw [inBlock_eq, hb, Bool.true_and]
    exact beq_iff_eq.mpr (by omega)
  | _ => cases h

/-- The offset of an admitted access is a multiple of 8. -/
theorem State.admits_aligned {s : State} {a : RegAcc} {die page off : Nat} (h : s.admits a die page off = true) : off % 8 = 0 := by
  simp only [State.admits, accessOf, Bool.and_eq_true, decide_eq_true_eq] at h
  obtain ⟨⟨⟨⟨-, -, h8⟩, -⟩, -⟩, -⟩ := h
  exact h8

/-- Settles O29: each row's command is an access behind a test, which the row's own register passes. -/
theorem registerCommands : Obligations.RegisterCommands := by
  refine ⟨fun i a tgt die page off s hi ht hadm => ?_, fun i a tgt die page off v s hi ht hadm hr => ?_⟩
  · obtain ⟨ok, he, hok⟩ := exec_writeCommand hi s
    rw [he]
    exact regRow_admits hadm (hok die page off s (State.admits_aligned hadm) ht)
  · obtain ⟨ok, he, hok⟩ := exec_readCommand hi s
    rw [he]
    exact regRow_reads hadm (fun we wv => hok die page off s we wv ht) hr

end Sys2Proof.Machine
end

section
/-! A write of the FURROW page's IRQ_EN or IRQ_TEST, whose two states `regWrite` hands to `Mod.furTest` in the wrong order. -/

namespace Sys2Proof.Machine

/-- `regWrite` passes the written state as `furTest`'s state before and the old one as the state whose notice is sent, so a write of
a FURROW page's IRQ_EN is lost: outside stream mode nothing changes at all. -/
theorem regWrite_furrow_irqEn_lost (env : Env) (q we wv : Nat) {die page slot : Nat} {s : State} (hb : blockAt die page = some (.furrow, slot))
    (hs : (s.mod.fur (die * 256 + slot)).stream = false) : regWrite env q die page 0x028 we wv s = s := by
  unfold regWrite
  dsimp only
  split
  · rfl
  · simp only [hb, Mod.furTest, Mod.furNotice, hs, Bool.false_and, Bool.false_eq_true, ↓reduceIte]

/-- Core 0 writes 1 to IRQ_EN of its own FURROW page. -/
def furrowIrqEnAcc : RegAcc := { id := none, q := 0, mpa := regMpa 0 (furPage 0) 0x028, size := 8, v := 1, test := 0, dead := 0 }

/-- The reset state, powered, with its power-on reset performed. -/
def poweredState : State := { pending := [], aon := { powered := true, poDue := false }, mod := {} }

theorem poweredState_admits_furrowIrqEnAcc : poweredState.admits furrowIrqEnAcc 0 (furPage 0) 0x028 = true := by decide

/-- The write leaves the powered state as it is. -/
theorem exec_furrowIrqEnAcc : exec (.registerWrite true furrowIrqEnAcc) poweredState = .next poweredState := by
  have performed : exec (.registerWrite true furrowIrqEnAcc) poweredState = .next (regWrite _ _ _ _ _ _ _ _) :=
    regRow_admits (ok := anyReg) poweredState_admits_furrowIrqEnAcc rfl
  rw [performed, regWrite_furrow_irqEn_lost _ _ _ _ (slot := 0) (by decide) (by decide)]

/-- Refutes O30: an admitted write of 1 to IRQ_EN of a FURROW page is lost, and the register still reads 0. -/
theorem not_registerAccesses : ¬ Obligations.RegisterAccesses := by
  unfold Obligations.RegisterAccesses
  rintro ⟨⟨-, -, irqEn, -⟩, -⟩
  obtain ⟨t, ht, hreg, -⟩ := irqEn furrowIrqEnAcc 0 (furPage 0) poweredState poweredState_admits_furrowIrqEnAcc
  rw [exec_furrowIrqEnAcc] at ht
  cases ht
  exact absurd hreg (by decide)

end Sys2Proof.Machine
end

section
/-! A host read that reaches the Barn to which its own table does not give the granule (R14, R15): HOSTPORT records the error, not PLACE. -/

namespace Sys2Proof.Machine

theorem Mod.ejected_clean {m : Mod} {r : Req} (h : r.path.flit = .clean) : m.ejected r = (m, false) := by
  unfold Mod.ejected Mod.flitSeen
  rw [h]
  rfl

/-- The Barn that turns a host request away records nothing in its PLACE page. -/
theorem Mod.barnRead_host_elsewhere {m : Mod} {barn mpa : Nat} (len : Nat) (h : m.homeBarn (4 + barn) mpa ≠ barn) :
    m.barnRead hostCode barn mpa len false = (.err, m) := by
  unfold Mod.barnRead Mod.wrongBarn
  rw [if_pos ⟨rfl, h⟩, if_pos rfl]

/-- Granule `n` of a host read of 128 bytes at 0x1000, which BW's table has sent to BE. -/
def hostGranule (n : Nat) : Req :=
  { id := n, use := .host 0, q := hostCode, die := 4, mpa := 0x1000 + 64 * n, len := 64, op := .read, sent := true, resp := none, home := 5, owned := false }

/-- BW's table spreads entry 0 and BE's does not; both granules of the host's read have reached BE. -/
def splitTables : State :=
  { poweredState with mod :=
      ({ net := [hostGranule 0, hostGranule 1], hostQ := [{ id := 0, write := false, len := 128, tag := 0 }] } : Mod).setReg 4 placePage 0x200 1 }

theorem splitTables_steers : splitTables.mod.homeBarn 4 0x1000 = 1 ∧ splitTables.mod.homeBarn 5 0x1000 = 0 := by decide

/-- The other granule of the host's read is still unanswered. -/
theorem splitTables_hostOther : splitTables.mod.hostOther 0 := by
  intro h hh
  rw [List.mem_singleton.mp hh]
  exact ⟨hostGranule 1, List.mem_cons_of_mem _ (List.mem_singleton.mpr rfl), rfl, by decide, rfl⟩

theorem splitTables_granuleOk : splitTables.mod.granuleOk 1 (0x1000 % 2 ^ 38) :=
  ⟨by decide, fun _ h => by cases h⟩

/-- The answer to the first granule sets out, and nothing is recorded. -/
theorem exec_barnRead_splitTables : exec (.barnRead 0) splitTables = .next { splitTables with mod := splitTables.mod.respond 0 .err } := by
  have found : splitTables.mod.findReq 0 = some (hostGranule 0) := rfl
  have space : decodeMpa (hostGranule 0).mpa = .hbm 0x1000 := by decide
  have arrived : (hostGranule 0).waiting = true := rfl
  have first : splitTables.mod.mustFollow (hostGranule 0) = false := by decide
  have ready : splitTables.mod.farWaits (hostGranule 0).mpa = false := by decide
  have isRead : (hostGranule 0).op = .read := rfl
  have refused : splitTables.mod.barnRead (hostGranule 0).q ((hostGranule 0).home - 4) (hostGranule 0).mpa (hostGranule 0).len (hostGranule 0).owned =
      (.err, splitTables.mod) := Mod.barnRead_host_elsewhere 64 (by decide)
  simp only [exec, execBarnRead, serveHbm, found, space, arrived, first, ready, Mod.ejected_clean (r := hostGranule 0) rfl, isRead, refused]
  rfl

theorem splitTables_respond_reg : (splitTables.mod.respond 0 .err).reg 5 placePage 0x038 = 0 := by decide

/-- Refutes O42: HOSTPORT records the access error of a host's read (R14), so a host's read of a granule that the Barn's own table gives to
the other Barn sets no WRONG_BARN in PLACE. -/
theorem not_barnMemory : ¬ Obligations.BarnMemory := by
  unfold Obligations.BarnMemory
  rintro ⟨reads, -⟩
  obtain ⟨-, -, elsewhere⟩ := reads 0 (hostGranule 0) 0x1000 splitTables rfl (by decide) rfl rfl rfl splitTables_hostOther (by decide) (by decide) rfl
    (.inr rfl) splitTables_granuleOk
  obtain ⟨t, ht, -, hrec, -⟩ := elsewhere rfl (by decide) rfl
  rw [exec_barnRead_splitTables] at ht
  cases ht
  unfold Mod.errSet at hrec
  rw [show (hostGranule 0).home = 5 from rfl] at hrec
  simp only [splitTables_respond_reg] at hrec
  exact absurd hrec (by decide)

end Sys2Proof.Machine
end

section
/-! A write of the FURROW page's IRQ_TEST, which takes the same path as one of its IRQ_EN (see `regWrite_furrow_irqEn_lost`). -/

namespace Sys2Proof.Machine

/-- `regWrite` passes the written state as `furTest`'s state before and the old one as the state whose notice is sent, so a write of
a FURROW page's IRQ_TEST sets no cause: outside stream mode nothing changes at all. -/
theorem regWrite_furrow_irqTest_lost (env : Env) (q we wv : Nat) {die page slot : Nat} {s : State} (hb : blockAt die page = some (.furrow, slot))
    (hs : (s.mod.fur (die * 256 + slot)).stream = false) : regWrite env q die page 0x030 we wv s = s := by
  unfold regWrite
  dsimp only
  split
  · rfl
  · simp only [hb, Mod.furTest, Mod.furNotice, hs, Bool.false_and, Bool.false_eq_true, ↓reduceIte]

/-- Core 0 writes 1 to IRQ_TEST of its own FURROW page. -/
def furrowIrqTestAcc : RegAcc := { furrowIrqEnAcc with mpa := regMpa 0 (furPage 0) 0x030 }

theorem poweredState_admits_furrowIrqTestAcc : poweredState.admits furrowIrqTestAcc 0 (furPage 0) 0x030 = true := by decide

/-- The write leaves the powered state as it is. -/
theorem exec_furrowIrqTestAcc : exec (.irqTest furrowIrqTestAcc) poweredState = .next poweredState := by
  have performed : exec (.irqTest furrowIrqTestAcc) poweredState = .next (regWrite _ _ _ _ _ _ _ _) :=
    regRow_admits (ok := fun _ _ _ o _ _ => o == 0x030) poweredState_admits_furrowIrqTestAcc rfl
  rw [performed, regWrite_furrow_irqTest_lost _ _ _ _ (slot := 0) (by decide) (by decide)]

/-- Refutes O31: an admitted write of 1 to IRQ_TEST of a FURROW page is lost, and IRQ_STAT still reads 0 (R19). -/
theorem not_pageHeaderAndCounters : ¬ Obligations.PageHeaderAndCounters := by
  unfold Obligations.PageHeaderAndCounters
  rintro ⟨⟨-, -, -, irqTest, -⟩, -⟩
  obtain ⟨t, ht, hreg⟩ := irqTest furrowIrqTestAcc 0 (furPage 0) poweredState poweredState_admits_furrowIrqTestAcc
  rw [exec_furrowIrqTestAcc] at ht
  cases ht
  exact absurd hreg (by decide)

end Sys2Proof.Machine
end

section
/-! Retiring an instruction (R64, R66, R68): where execution goes on, which parts of the core ageing results write, and what of the module an
ended instruction changes beside its core, counting its event among it (R28). -/

namespace Sys2Proof.Machine

/-! ### Results in flight -/

/-- Scalar loads that come due write general registers and report, and nothing else of the core; a register that no load names stays. -/
theorem matureLoads_frame : ∀ (ls : List Load) (held : List Nat) (k : Core), ∃ g l r,
    matureLoads ls held k = { k with g := g, loads := l, reports := r } ∧ ∀ j, (∀ x ∈ ls, x.dest ≠ j) → SMap.get 0 g j = k.gr j := by
  intro ls
  induction ls with
  | nil => exact fun _ k => ⟨k.g, k.loads, k.reports, rfl, fun _ _ => rfl⟩
  | cons x t ih =>
    have next (held : List Nat) (k : Core) (l : List Load) (r : List Report) : ∃ g' l' r',
        matureLoads t held { k with loads := l, reports := r } = { k with g := g', loads := l', reports := r' } ∧
          ∀ j, (∀ y ∈ x :: t, y.dest ≠ j) → SMap.get 0 g' j = k.gr j := by
      obtain ⟨g', l', r', e, hg⟩ := ih held { k with loads := l, reports := r }
      exact ⟨g', l', r', e, fun j hj => hg j fun y hy => hj y (List.mem_cons_of_mem x hy)⟩
    intro held k
    unfold matureLoads
    split
    · exact next held k _ k.reports
    · split
      · exact next held k k.loads _
      · split
        · split
          · exact next held k k.loads k.reports
          · exact next held k _ k.reports
        · split
          · split
            · obtain ⟨g', l', r', e, hg⟩ := ih held (k.putG x.dest _)
              refine ⟨g', l', r', e, fun j hj => (hg j fun y hy => hj y (List.mem_cons_of_mem x hy)).trans ?_⟩
              exact SMap.get_put_ne 0 k.g _ (hj x List.mem_cons_self).symm
            · exact next _ k _ k.reports
          · exact next _ k _ k.reports

/-- Vector loads that come due write vector registers and report. -/
theorem matureVLoads_frame : ∀ (ls : List VLoad) (held : List Nat) (k : Core), ∃ v l r,
    matureVLoads ls held k = { k with v := v, vloads := l, reports := r } := by
  intro ls
  induction ls with
  | nil => exact fun _ k => ⟨k.v, k.vloads, k.reports, rfl⟩
  | cons x t ih =>
    intro held k
    unfold matureVLoads
    dsimp only
    split
    · split <;> split <;> exact ih held _
    · exact ih _ _

/-- What one instruction's ageing of the results in flight can change. -/
theorem Core.ageLoads_frame (k : Core) : ∃ g l v vl r,
    k.ageLoads = { k with g := g, loads := l, v := v, vloads := vl, reports := r } ∧ ∀ j, (∀ x ∈ k.loads, x.dest ≠ j) → SMap.get 0 g j = k.gr j := by
  unfold Core.ageLoads Core.mature
  dsimp only
  obtain ⟨g, l, r, e, hg⟩ := matureLoads_frame (k.loads.map (fun (x : Load) => { x with age := x.age + 1 })) []
    { k with loads := [], vloads := k.vloads.map (fun (x : VLoad) => { x with age := x.age + 1 }) }
  rw [e]
  obtain ⟨v, vl, r', e'⟩ := matureVLoads_frame (k.vloads.map (fun (x : VLoad) => { x with age := x.age + 1 })) []
    { k with g := g, loads := l, vloads := [], reports := r }
  refine ⟨g, l, v, vl, r', e', fun j hj => hg j fun y hy => ?_⟩
  obtain ⟨x, hx, rfl⟩ := List.mem_map.mp hy
  exact hj x hx

theorem Core.ageLoads_lpc (k : Core) : k.ageLoads.lpc = k.lpc := by
  obtain ⟨g, l, v, vl, r, e, -⟩ := k.ageLoads_frame
  rw [e]

/-! ### The loop-end check (R68) -/

/-- The check writes loop counts only. -/
theorem loopCheck_frame : ∀ (ns : List Nat) (seq dflt : PAddr) (k : Core), ∃ lpc, (loopCheck ns seq dflt k).1 = { k with lpc := lpc } := by
  intro ns seq dflt
  induction ns with
  | nil => exact fun k => ⟨k.lpc, rfl⟩
  | cons n t ih =>
    intro k
    unfold loopCheck
    dsimp only
    split
    · split
      · exact ⟨_, rfl⟩
      · exact ih _
    · exact ih k

/-- Levels that are inactive, or end elsewhere, are passed over. -/
theorem loopCheck_append {ns : List Nat} {seq : PAddr} {k : Core} (h : ∀ j ∈ ns, SMap.get 0 k.lpc j = 0 ∨ SMap.get 0 k.lpe j ≠ seq) (ms : List Nat)
    (dflt : PAddr) : loopCheck (ns ++ ms) seq dflt k = loopCheck ms seq dflt k := by
  induction ns with
  | nil => rfl
  | cons n t ih =>
    have passed : ¬(SMap.get 0 k.lpc n ≠ 0 ∧ seq = SMap.get 0 k.lpe n) := by
      rintro ⟨hc, he⟩
      exact (h n List.mem_cons_self).elim hc fun hne => hne he.symm
    rw [List.cons_append, loopCheck]
    dsimp only
    rw [if_neg passed]
    exact ih fun j hj => h j (List.mem_cons_of_mem n hj)

/-- A level that ends here with passes left begins its body again. -/
theorem loopCheck_repeats {n : Nat} {seq : PAddr} {k : Core} (he : SMap.get 0 k.lpe n = seq) (hc : 2 ≤ (SMap.get 0 k.lpc n).toNat) (ns : List Nat)
    (dflt : PAddr) : loopCheck (n :: ns) seq dflt k = ({ k with lpc := SMap.put 0 k.lpc n (SMap.get 0 k.lpc n - 1) }, SMap.get 0 k.lps n) := by
  have active : SMap.get 0 k.lpc n ≠ 0 := fun h0 => by rw [h0] at hc; exact absurd hc (by decide)
  have left : SMap.get 0 k.lpc n - 1 ≠ 0 := by bv_omega
  rw [loopCheck]
  dsimp only
  rw [if_pos ⟨active, he.symm⟩, if_pos left]

/-- The levels that are checked before level `n`, and those after it. -/
theorem loopLevels_split {n : Nat} (h : n < 4) : ∃ before after, [3, 2, 1, 0] = before ++ n :: after ∧ ∀ j ∈ before, n < j ∧ j < 4 := by
  interval_cases n
  · exact ⟨[3, 2, 1], [], rfl, by decide⟩
  · exact ⟨[3, 2], [0], rfl, by decide⟩
  · exact ⟨[3], [1, 0], rfl, by decide⟩
  · exact ⟨[], [2, 1, 0], rfl, by decide⟩

/-! ### Where execution goes on -/

/-- The delay slot of a taken branch makes no loop-end check (R64). -/
theorem Core.retire_taken {k : Core} {b : Branch} {t : PAddr} (hb : k.branch = some b) (ht : b.target = some t) (seq dflt : PAddr) :
    (k.retire seq dflt).pc = t ∧ (k.retire seq dflt).lpc = k.lpc := by
  simp [Core.retire, hb, ht, Core.ageCs, Core.ageLoads_lpc]

/-- With CS.LE clear no level is checked. -/
theorem Core.retire_unlooped {k : Core} (hb : k.branch = none) (hl : k.cs.le = false) (seq dflt : PAddr) :
    (k.retire seq dflt).pc = dflt ∧ (k.retire seq dflt).lpc = k.lpc := by
  simp [Core.retire, hb, hl, Core.ageCs, Core.ageLoads_lpc]

/-- With CS.LE set and no branch, the loop-end check gives the next address and the counts. -/
theorem Core.retire_looped {k : Core} (hb : k.branch = none) (hl : k.cs.le = true) (seq dflt : PAddr) :
    (k.retire seq dflt).pc = (loopCheck [3, 2, 1, 0] seq dflt k).2 ∧ (k.retire seq dflt).lpc = (loopCheck [3, 2, 1, 0] seq dflt k).1.lpc := by
  simp [Core.retire, hb, hl, Core.ageCs, Core.ageLoads_lpc]

/-- The highest active level that ends here, with passes left, begins its body again with one pass fewer. -/
theorem Core.retire_repeats {k : Core} {n : Nat} {seq : PAddr} (hn : n < 4) (hb : k.branch = none) (hl : k.cs.le = true)
    (above : ∀ j, n < j → j < 4 → (SMap.get 0 k.lpc j = 0 ∨ SMap.get 0 k.lpe j ≠ seq)) (he : SMap.get 0 k.lpe n = seq)
    (hc : 2 ≤ (SMap.get 0 k.lpc n).toNat) (dflt : PAddr) :
    (k.retire seq dflt).pc = SMap.get 0 k.lps n ∧ SMap.get 0 (k.retire seq dflt).lpc n = SMap.get 0 k.lpc n - 1 := by
  obtain ⟨before, after, levels, hbefore⟩ := loopLevels_split hn
  obtain ⟨hpc, hlpc⟩ := Core.retire_looped hb hl seq dflt
  rw [levels, loopCheck_append (fun j hj => above j (hbefore j hj).1 (hbefore j hj).2), loopCheck_repeats he hc] at hpc hlpc
  exact ⟨hpc, by rw [hlpc, SMap.get_put_same]⟩

/-- Where no active level ends, no count changes. -/
theorem Core.retire_unended {k : Core} {seq : PAddr} (hb : k.branch = none) (hl : k.cs.le = true)
    (none_ends : ∀ j, j < 4 → (SMap.get 0 k.lpc j = 0 ∨ SMap.get 0 k.lpe j ≠ seq)) (dflt : PAddr) :
    (k.retire seq dflt).pc = dflt ∧ (k.retire seq dflt).lpc = k.lpc := by
  have levels : ∀ j ∈ [3, 2, 1, 0], j < 4 := by decide
  have checked : loopCheck [3, 2, 1, 0] seq dflt k = (k, dflt) := loopCheck_append (fun j hj => none_ends j (levels j hj)) [] dflt
  simpa only [checked] using Core.retire_looped hb hl seq dflt

/-- Everything that retiring can write: results in flight, the PC, loop counts and the age of CS writes. -/
theorem Core.retire_frame (k : Core) (seq dflt : PAddr) : ∃ g l v vl r lpc csq pc,
    k.retire seq dflt = { k with g := g, loads := l, v := v, vloads := vl, reports := r, lpc := lpc, csq := csq, branch := none, pc := pc, xlat := [] } ∧
      ∀ j, (∀ x ∈ k.loads, x.dest ≠ j) → SMap.get 0 g j = k.gr j := by
  have checked (p : Bool) : ∃ lpc, (if p then loopCheck [3, 2, 1, 0] seq dflt k else (k, dflt)).1 = { k with lpc := lpc } := by
    cases p
    · exact ⟨k.lpc, rfl⟩
    · exact loopCheck_frame _ seq dflt k
  have shape : ∃ (p : Bool) (pc : PAddr), k.retire seq dflt =
      { (if p then loopCheck [3, 2, 1, 0] seq dflt k else (k, dflt)).1.ageLoads.ageCs with branch := none, pc := pc, xlat := [] } := ⟨_, _, rfl⟩
  obtain ⟨p, pc, shape⟩ := shape
  obtain ⟨lpc, e⟩ := checked p
  obtain ⟨g, l, v, vl, r, aged, hg⟩ := Core.ageLoads_frame { k with lpc := lpc }
  rw [e, aged] at shape
  exact ⟨g, l, v, vl, r, lpc, _, pc, shape, hg⟩

/-! ### The end of an instruction -/

theorem Mod.core_onCore_ne (m : Mod) {c c' : Nat} (f : Core → Core) (h : c' ≠ c) : (m.onCore c f).core c' = m.core c' :=
  SMap.get_put_ne Core.reset m.cores _ h

/-- Counting events changes registers of one page of one die. -/
theorem Mod.perf_reg_elsewhere (m : Mod) (die page ev inst n : Nat) (hpg : page < 8192) {d p o : Nat} (hp : p < 8192) (ho : o < 4096)
    (hne : d ≠ die ∨ p ≠ page) : (m.perf die page ev inst n).reg d p o = m.reg d p o := by
  have kept (x : Mod) {off : Nat} (v : Nat) (hoff : off < 4096) : (x.setReg die page off v).reg d p o = x.reg d p o :=
    Mod.reg_setReg_ne x v (regKey_page hp hpg ho hoff hne)
  have added (x : Mod) (k : Nat) (hk : k < 8) : (x.perfAdd die page k n).reg d p o = x.reg d p o := by
    unfold Mod.perfAdd Mod.orReg
    dsimp only
    split
    · rw [kept _ _ (by omega), kept _ _ (by omega)]
    · rw [kept _ _ (by omega)]
  unfold Mod.perf
  split
  · rfl
  · refine List.foldlRecOn (motive := fun x : Mod => x.reg d p o = m.reg d p o) _ _ rfl fun x hx k hk => ?_
    dsimp only
    split
    · exact (added x k (List.mem_range.mp hk)).trans hx
    · exact hx

theorem corePage_lt (c : Nat) {k : Nat} (hk : k < 8) : corePage c k < 8192 := by
  unfold corePage
  omega

/-- An event of a core changes registers of its PERF page only; a steward has none. -/
theorem Mod.coreEv_frame (m : Mod) (c ev n : Nat) : (∃ r, m.coreEv c ev n = { m with regs := r }) ∧ (m.coreEv c ev n).sameRegs m c := by
  unfold Mod.sameRegs Mod.coreEv
  cases isStw c with
  | true => exact ⟨⟨m.regs, rfl⟩, fun _ _ _ _ _ _ => rfl⟩
  | false =>
    refine ⟨Mod.perf_regs m _ _ _ _ _, fun die page off hp ho h => ?_⟩
    exact Mod.perf_reg_elsewhere m _ _ _ _ _ (corePage_lt c (by decide)) hp ho (h.resolve_left Bool.false_ne_true)

/-- An instruction that ends writes its own core, and registers of that core's PERF page. -/
theorem Mod.ends_frame (m : Mod) (c : Nat) (seq dflt : PAddr) :
    (∃ k r, m.ends c seq dflt = { m.setCore c k with regs := r }) ∧ (m.ends c seq dflt).sameRegs m c := by
  obtain ⟨⟨r, e⟩, same⟩ := Mod.coreEv_frame (m.onCore c fun k => (k.retire seq dflt).routineStep) c 0x01 1
  exact ⟨⟨_, r, e⟩, same⟩

/-- Settles O9: the branch target or the loop-end check gives the next address, and beside its core only the PERF page changes. -/
theorem retirement : Obligations.Retirement := by
  unfold Obligations.Retirement
  refine ⟨fun k seq dflt => ?_, fun m c seq dflt => ?_⟩
  · have taken (b : Branch) (t : PAddr) (hb : k.branch = some b) (ht : b.target = some t) := Core.retire_taken hb ht seq dflt
    have unlooped (hb : k.branch = none) (hl : k.cs.le = false) := Core.retire_unlooped hb hl seq dflt
    have repeats (n : Nat) hn hb hl above he hc := Core.retire_repeats (k := k) (n := n) (seq := seq) hn hb hl above he hc dflt
    have unended hb hl none_ends := Core.retire_unended (k := k) (seq := seq) hb hl none_ends dflt
    obtain ⟨g, l, v, vl, r, lpc, csq, pc, e, hg⟩ := Core.retire_frame k seq dflt
    rw [e] at taken unlooped repeats unended ⊢
    exact ⟨rfl, taken, unlooped, repeats, unended, hg, rfl, rfl, rfl, rfl, rfl, rfl, rfl, rfl, rfl, rfl, rfl, rfl, rfl, rfl, rfl⟩
  · obtain ⟨⟨k, r, e⟩, same⟩ := Mod.ends_frame m c seq dflt
    refine ⟨fun c' hc => ?_, fun a => ?_, same, ?_⟩
    · rw [e]
      exact Mod.core_onCore_ne m (fun _ => k) hc
    · rw [e]
      rfl
    · rw [e]
      exact ⟨rfl, rfl, rfl, rfl, rfl⟩

end Sys2Proof.Machine
end

section
/-! Fields of page registers: what replacing one field leaves in every other, and in every other register; and which registers raising a cause
or recording an error reaches. -/

namespace Sys2Proof.Machine

/-! ### Bits -/

theorem testBit_bits (v lo w i : Nat) : (bits v lo w).testBit i = (decide (i < w) && v.testBit (lo + i)) := by
  unfold bits
  rw [Nat.testBit_mod_two_pow, Nat.testBit_div_two_pow, Nat.add_comm]

/-- A single bit of a number, as the statements read it. -/
theorem bits_one_iff (v b : Nat) : bits v b 1 = 1 ↔ v.testBit b = true := by
  unfold bits
  rw [Nat.testBit_eq_decide_div_mod_eq, pow_one, decide_eq_true_eq]

/-- Cutting a number at a power of two leaves the bits below it. -/
theorem bits_mod {lo w n : Nat} (h : lo + w ≤ n) (v : Nat) : bits (v % 2 ^ n) lo w = bits v lo w := by
  refine Nat.eq_of_testBit_eq fun i => ?_
  rw [testBit_bits, testBit_bits, Nat.testBit_mod_two_pow]
  by_cases hi : i < w
  · simp [show lo + i < n by omega]
  · simp [hi]

/-- `setBits` puts the bits of `x` where they belong and leaves the others. -/
theorem testBit_setBits (v lo w x i : Nat) :
    (setBits v lo w x).testBit i = if lo ≤ i ∧ i < lo + w then x.testBit (i - lo) else v.testBit i := by
  have top : v / 2 ^ lo = 2 ^ w * (v / 2 ^ lo / 2 ^ w) + bits v lo w := (Nat.div_add_mod _ _).symm
  have all : v = 2 ^ lo * (v / 2 ^ lo) + v % 2 ^ lo := (Nat.div_add_mod _ _).symm
  have shape : setBits v lo w x = 2 ^ lo * (2 ^ w * (v / 2 ^ lo / 2 ^ w) + x % 2 ^ w) + v % 2 ^ lo := by
    have split : v = 2 ^ lo * (2 ^ w * (v / 2 ^ lo / 2 ^ w)) + bits v lo w * 2 ^ lo + v % 2 ^ lo := by
      rw [Nat.mul_comm (bits v lo w), ← Nat.mul_add, ← top]
      exact all
    unfold setBits
    rw [Nat.mul_add, Nat.mul_comm (x % 2 ^ w)]
    omega
  rw [shape, Nat.testBit_two_pow_mul_add _ (Nat.mod_lt _ (Nat.two_pow_pos lo)), Nat.testBit_two_pow_mul_add _ (Nat.mod_lt _ (Nat.two_pow_pos w))]
  rcases Nat.lt_or_ge i lo with hi | hi
  · simp [hi, Nat.testBit_mod_two_pow, Nat.not_le.mpr hi]
  · rcases Nat.lt_or_ge i (lo + w) with hw | hw
    · have hiw : i - lo < w := by omega
      simp [hi, hw, hiw, Nat.not_lt.mpr hi, Nat.testBit_mod_two_pow]
    · have hiw : ¬ i - lo < w := by omega
      have back : w + (i - lo - w) + lo = i := by omega
      simp [Nat.not_lt.mpr hi, Nat.not_lt.mpr hw, hiw, Nat.testBit_div_two_pow, Nat.add_comm, back]

theorem bits_setBits_same (v lo w x : Nat) : bits (setBits v lo w x) lo w = x % 2 ^ w := by
  refine Nat.eq_of_testBit_eq fun i => ?_
  rw [testBit_bits, testBit_setBits, Nat.testBit_mod_two_pow]
  by_cases hi : i < w <;> simp [hi]

theorem bits_setBits_apart {lo w lo' w' : Nat} (h : lo' + w' ≤ lo ∨ lo + w ≤ lo') (v x : Nat) : bits (setBits v lo w x) lo' w' = bits v lo' w' := by
  refine Nat.eq_of_testBit_eq fun i => ?_
  rw [testBit_bits, testBit_bits, testBit_setBits]
  by_cases hi : i < w'
  · rw [if_neg (by omega)]
  · simp [hi]

/-! ### Fields -/

theorem Mod.fld_setFld_same (m : Mod) (die page off : Nat) {lo w : Nat} (h : lo + w ≤ 64) (v : Nat) :
    (m.setFld die page off lo w v).fld die page off lo w = v % 2 ^ w := by
  unfold Mod.fld Mod.setFld
  rw [Mod.reg_setReg_same, bits_mod h, bits_setBits_same]

theorem Mod.fld_setFld_apart (m : Mod) (die page off : Nat) {lo w lo' w' : Nat} (h : lo' + w' ≤ lo ∨ lo + w ≤ lo') (hw : lo' + w' ≤ 64) (v : Nat) :
    (m.setFld die page off lo w v).fld die page off lo' w' = m.fld die page off lo' w' := by
  unfold Mod.fld Mod.setFld
  rw [Mod.reg_setReg_same, bits_mod hw, bits_setBits_apart h]

/-- A write of one register leaves the other registers of its page. -/
theorem Mod.reg_setReg_off (m : Mod) (die page : Nat) {off off' : Nat} (h : off' / 8 ≠ off / 8) (v : Nat) :
    (m.setReg die page off v).reg die page off' = m.reg die page off' := Mod.reg_setReg_ne m v (regKey_off h)

theorem Mod.reg_setFld_off (m : Mod) (die page : Nat) {off off' : Nat} (h : off' / 8 ≠ off / 8) (lo w v : Nat) :
    (m.setFld die page off lo w v).reg die page off' = m.reg die page off' := Mod.reg_setReg_off m die page h _

theorem Mod.fld_setReg_off (m : Mod) (die page : Nat) {off off' : Nat} (h : off' / 8 ≠ off / 8) (v lo w : Nat) :
    (m.setReg die page off v).fld die page off' lo w = m.fld die page off' lo w := by
  unfold Mod.fld
  rw [Mod.reg_setReg_off m die page h]

/-- Setting bits of a register sets those below 64, and clears none. -/
theorem Mod.testBit_orReg (m : Mod) (die page off : Nat) {bit : Nat} (hb : bit < 64) (b : Nat) :
    ((m.orReg die page off (2 ^ bit)).reg die page off).testBit b = ((m.reg die page off).testBit b || decide (bit = b)) := by
  have small : m.reg die page off ||| 2 ^ bit < 2 ^ 64 := Nat.or_lt_two_pow (Mod.reg_lt _ _ _ _) (Nat.pow_lt_pow_right (by decide) hb)
  unfold Mod.orReg
  rw [Mod.reg_setReg_same, Nat.mod_eq_of_lt small, Nat.testBit_or, Nat.testBit_two_pow]

/-! ### Causes and errors -/

/-- A page whose counters a message of the host port moves: HOSTPORT, and the PERF page of BW (R27, R402). -/
def tlpPage (page : Nat) : Prop := page = hostportPage ∨ page = diePerfPage 4

theorem Mod.raiseVector_reg (m : Mod) (v : Nat) {die page off : Nat} (hp : page < 8192) (ho : off < 4096) (hc : ¬ tlpPage page) :
    (m.raiseVector v).reg die page off = m.reg die page off := by
  unfold Mod.raiseVector Mod.sendVector
  split
  · rfl
  · unfold Mod.tlp Mod.dieEv
    rw [Mod.perf_reg _ _ _ _ _ _ (by decide) hp ho fun h => hc (.inr h)]
    exact Mod.reg_setReg_ne _ _ (regKey_page hp (by decide) ho (by decide) (.inr fun h => hc (.inl h)))

/-- Raising a cause sets its bit of IRQ_STAT, and reaches no register beyond, but for the counters of the message that it may send. -/
theorem Mod.irq_reg (m : Mod) (die page bit : Nat) {die' page' off : Nat} (hp : page' < 8192) (ho : off < 4096) (hc : ¬ tlpPage page') :
    (m.irq die page bit).reg die' page' off = (m.orReg die page 0x020 (2 ^ bit)).reg die' page' off := by
  unfold Mod.irq Mod.vectorEdge
  split
  · rfl
  · split
    · rfl
    · exact Mod.raiseVector_reg _ _ hp ho hc

/-- An error of a page that raises no interrupt for it: its bit is set, and beside the three registers of the record no register of the page
changes (R23). -/
theorem Mod.err_reg (m : Mod) {die page : Nat} (hi : errIrq die page = none) {bit : Nat} (hb : bit < 64) (q detail addr : Nat) :
    bits ((m.err die page bit q detail addr).reg die page 0x038) bit 1 = 1 ∧
      ∀ off, off / 8 ≠ 7 → off / 8 ≠ 8 → off / 8 ≠ 9 → (m.err die page bit q detail addr).reg die page off = m.reg die page off := by
  have set (x : Nat) : bits ((m.reg die page 0x038 ||| 2 ^ bit ||| x) % 2 ^ 64) bit 1 = 1 := by
    rw [bits_one_iff, Nat.testBit_mod_two_pow, Nat.testBit_or, Nat.testBit_or, Nat.testBit_two_pow]
    simp [hb]
  unfold Mod.err
  rw [hi]
  dsimp only
  split
  · refine ⟨?_, fun off h7 h8 h9 => ?_⟩
    · rw [Mod.reg_setReg_off _ _ _ (by decide), Mod.reg_setReg_off _ _ _ (by decide), Mod.reg_setReg_same]
      simpa only [Nat.or_zero] using set 0
    · rw [Mod.reg_setReg_off _ _ _ h9, Mod.reg_setReg_off _ _ _ h8, Mod.reg_setReg_off _ _ _ h7]
  · refine ⟨?_, fun off h7 _ _ => Mod.reg_setReg_off _ _ _ h7 _⟩
    rw [Mod.reg_setReg_same]
    exact set 4

end Sys2Proof.Machine
end

section
/-! The Keeper's classification of reports (R36, R37): what one die's result depends on, and that the results of the six dies are set one beside
the other. -/

namespace Sys2Proof.Machine

/-! ### What a classification reads -/

/-- `t` holds the Keeper's state of `m`, and its page outside IRQ_STAT and KEEPER_CFG_RESULT. -/
def Mod.agreesKeeper (t m : Mod) : Prop :=
  t.keeper = m.keeper ∧ ∀ off, off < 4096 → off / 8 ≠ 0x020 / 8 → off / 8 ≠ 0x410 / 8 → t.reg 4 keeperPage off = m.reg 4 keeperPage off

/-- The result of die `d`. -/
def Mod.result (m : Mod) (d : Nat) : Nat := m.kp 0x410 (4 * d) 4

theorem Mod.agreesKeeper_refl (m : Mod) : m.agreesKeeper m := ⟨rfl, fun _ _ _ _ => rfl⟩

theorem Mod.agreesKeeper_trans {t u m : Mod} (h : t.agreesKeeper u) (g : u.agreesKeeper m) : t.agreesKeeper m :=
  ⟨h.1.trans g.1, fun off ho h4 h82 => (h.2 off ho h4 h82).trans (g.2 off ho h4 h82)⟩

theorem Mod.kp_congr {t m : Mod} (h : t.agreesKeeper m) {off : Nat} (ho : off < 4096) (h4 : off / 8 ≠ 0x020 / 8) (h82 : off / 8 ≠ 0x410 / 8)
    (lo w : Nat) : t.kp off lo w = m.kp off lo w := by
  unfold Mod.kp Mod.fld
  rw [h.2 off ho h4 h82]

theorem Mod.expected_congr {t m : Mod} (h : t.agreesKeeper m) {d : Nat} (hd : d < 6) : t.expected d = m.expected d := by
  unfold Mod.expected
  refine List.foldl_ext _ _ 0 fun v i hi => ?_
  have hi8 : i < 8 := List.mem_range.mp hi
  rw [h.2 (0x440 + d * 0x40 + 8 * i) (by omega) (by omega) (by omega)]

theorem Mod.classify_congr {t m : Mod} (h : t.agreesKeeper m) {d : Nat} (hd : d < 6) : t.classify d = m.classify d := by
  unfold Mod.classify
  rw [Mod.kp_congr h (by decide) (by decide) (by decide), Mod.expected_congr h hd, h.1]

/-- A die that has not reported reads STALE once its time has passed, and PENDING before. -/
theorem Mod.classify_unreported {m : Mod} {d : Nat} (h : SMap.get none m.keeper.reports d = none) :
    m.classify d = if m.keeper.expired.contains d then 3 else 0 := by
  unfold Mod.classify
  rw [h]

/-- A report at the module epoch, neither ahead nor disturbed, matches or diverges. -/
theorem Mod.classify_current {m : Mod} {d : Nat} {r : Report0} (h : SMap.get none m.keeper.reports d = some r) (he : r.epoch = m.kp 0x400 0 32)
    (ha : r.ahead = false) (hd : r.disturbed = false) : m.classify d = if r.digest = m.expected d then 1 else 2 := by
  have level : ¬(m.kp 0x400 0 32 < r.epoch ∨ r.ahead = true) := by simp [he, ha]
  unfold Mod.classify
  rw [h]
  dsimp only
  rw [if_neg level, if_pos ⟨he, hd⟩]

theorem Mod.classify_ahead {m : Mod} {d : Nat} {r : Report0} (h : SMap.get none m.keeper.reports d = some r)
    (ha : m.kp 0x400 0 32 < r.epoch ∨ r.ahead = true) : m.classify d = 4 := by
  unfold Mod.classify
  rw [h]
  exact if_pos ha

theorem Mod.classify_lt (m : Mod) (d : Nat) : m.classify d < 16 := by
  have late : (if m.keeper.expired.contains d then 3 else 0) < 16 := by split <;> decide
  have matched (r : Report0) : (if r.digest = m.expected d then 1 else 2) < 16 := by split <;> decide
  unfold Mod.classify
  dsimp only
  generalize (if m.keeper.expired.contains d then 3 else 0) = unreported at late ⊢
  split
  · exact late
  · split
    · decide
    · split
      · exact matched _
      · exact late

/-! ### Setting one result -/

theorem Mod.agreesKeeper_setKp (m : Mod) (lo w v : Nat) : (m.setKp 0x410 lo w v).agreesKeeper m :=
  ⟨rfl, fun _ _ _ h82 => Mod.reg_setFld_off m 4 keeperPage h82 lo w v⟩

theorem Mod.result_setKp_same (m : Mod) {d v : Nat} (hd : d < 6) (hv : v < 16) : (m.setKp 0x410 (4 * d) 4 v).result d = v :=
  (Mod.fld_setFld_same m 4 keeperPage 0x410 (by omega) v).trans (Nat.mod_eq_of_lt hv)

theorem Mod.result_setKp_other (m : Mod) {d e : Nat} (v : Nat) (hd : d < 6) (h : d ≠ e) : (m.setKp 0x410 (4 * e) 4 v).result d = m.result d :=
  Mod.fld_setFld_apart m 4 keeperPage 0x410 (by omega) (by omega) v

/-- A cause of the KEEPER page reaches its IRQ_STAT only. -/
theorem Mod.irq_keeper (m : Mod) (bit : Nat) {off : Nat} (ho : off < 4096) :
    (m.irq 4 keeperPage bit).reg 4 keeperPage off = (m.orReg 4 keeperPage 0x020 (2 ^ bit)).reg 4 keeperPage off :=
  Mod.irq_reg m 4 keeperPage bit (by decide) ho (by unfold tlpPage; decide)

theorem Mod.agreesKeeper_irq (m : Mod) (bit : Nat) : (m.irq 4 keeperPage bit).agreesKeeper m := by
  obtain ⟨-, -, -, -, -, -, keeper, -⟩ := Mod.irq_frame m 4 keeperPage bit
  exact ⟨keeper, fun off ho h4 _ => (Mod.irq_keeper m bit ho).trans (Mod.reg_setReg_off m 4 keeperPage h4 _)⟩

theorem Mod.result_irq (m : Mod) (bit d : Nat) : (m.irq 4 keeperPage bit).result d = m.result d := by
  unfold Mod.result Mod.kp Mod.fld
  rw [Mod.irq_keeper m bit (by decide)]
  exact congrArg (bits · (4 * d) 4) (Mod.reg_setReg_off m 4 keeperPage (by decide) _)

/-- Nothing that the Keeper holds of die `d` changes, and no cause of its page is cleared. -/
def Mod.spares (t m : Mod) (d : Nat) : Prop :=
  t.agreesKeeper m ∧ t.result d = m.result d ∧
    ∀ b, bits (m.reg 4 keeperPage 0x020) b 1 = 1 → bits (t.reg 4 keeperPage 0x020) b 1 = 1

theorem Mod.spares_refl (m : Mod) (d : Nat) : m.spares m d := ⟨m.agreesKeeper_refl, rfl, fun _ h => h⟩

theorem Mod.spares_trans {t u m : Mod} {d : Nat} (h : t.spares u d) (g : u.spares m d) : t.spares m d :=
  ⟨Mod.agreesKeeper_trans h.1 g.1, h.2.1.trans g.2.1, fun b hb => h.2.2 b (g.2.2 b hb)⟩

theorem Mod.spares_irq (m : Mod) {bit : Nat} (hb : bit < 64) (d : Nat) : (m.irq 4 keeperPage bit).spares m d := by
  refine ⟨Mod.agreesKeeper_irq m bit, Mod.result_irq m bit d, fun b h => ?_⟩
  rw [Mod.irq_keeper m bit (by decide)]
  rw [bits_one_iff] at h ⊢
  rw [Mod.testBit_orReg m 4 keeperPage 0x020 hb, h, Bool.true_or]

theorem Mod.spares_setKp (m : Mod) {d e : Nat} (v : Nat) (hd : d < 6) (h : d ≠ e) : (m.setKp 0x410 (4 * e) 4 v).spares m d := by
  refine ⟨Mod.agreesKeeper_setKp m _ _ v, Mod.result_setKp_other m v hd h, fun b hb => ?_⟩
  rwa [show (m.setKp 0x410 (4 * e) 4 v).reg 4 keeperPage 0x020 = m.reg 4 keeperPage 0x020 from Mod.reg_setFld_off m 4 keeperPage (by decide) _ _ v]

/-- The result of one die leaves what is held of the others. -/
theorem Mod.spares_setResult (m : Mod) {d e v : Nat} (hv : v < 16) (hd : d < 6) (h : d ≠ e) : (m.setResult e v).spares m d := by
  have stored := Mod.spares_setKp m v hd h
  unfold Mod.setResult
  dsimp only
  split
  · exact stored
  · split
    · exact Mod.spares_trans (Mod.spares_irq _ (by omega) d) stored
    · exact stored

/-- A result is stored; one above MATCH that is new raises its cause (R37). -/
theorem Mod.setResult_stores (m : Mod) {d v : Nat} (hd : d < 6) (hv : v < 16) :
    (m.setResult d v).agreesKeeper m ∧ (m.setResult d v).result d = v ∧
      (m.result d ≠ v → 2 ≤ v → bits ((m.setResult d v).reg 4 keeperPage 0x020) (v - 1) 1 = 1) := by
  have stored := Mod.result_setKp_same m hd hv
  have agrees := Mod.agreesKeeper_setKp m (4 * d) 4 v
  unfold Mod.setResult
  dsimp only
  split
  case isTrue same => exact ⟨agrees, stored, fun hne => absurd same hne⟩
  case isFalse =>
    split
    case isTrue =>
      obtain ⟨agreesIrq, resultIrq, -⟩ := Mod.spares_irq (m.setKp 0x410 (4 * d) 4 v) (show v - 1 < 64 by omega) d
      refine ⟨Mod.agreesKeeper_trans agreesIrq agrees, resultIrq.trans stored, fun _ _ => ?_⟩
      rw [Mod.irq_keeper _ _ (by decide), bits_one_iff, Mod.testBit_orReg _ _ _ _ (by omega), decide_eq_true rfl, Bool.or_true]
    case isFalse low => exact ⟨agrees, stored, fun _ h2 => absurd h2 low⟩

/-! ### Evaluating every die -/

/-- The evaluation of one die: its DIVERGE stays unless its own report has just come. -/
def Mod.judge (who : Option Nat) (m : Mod) (d : Nat) : Mod := if m.result d = 2 ∧ who ≠ some d then m else m.setResult d (m.classify d)

theorem Mod.classifyAll_running {m : Mod} (hk : m.kState = 1) (who : Option Nat) : m.classifyAll who = (List.range 6).foldl (Mod.judge who) m :=
  if_pos hk

theorem Mod.classifyAll_halted {m : Mod} (hk : m.kState ≠ 1) (who : Option Nat) : m.classifyAll who = m := if_neg hk

theorem Mod.spares_judge (who : Option Nat) (m : Mod) {d e : Nat} (hd : d < 6) (h : d ≠ e) : (m.judge who e).spares m d := by
  unfold Mod.judge
  split
  · exact m.spares_refl d
  · exact Mod.spares_setResult m (m.classify_lt e) hd h

theorem Mod.spares_foldl {f : Mod → Nat → Mod} {d : Nat} (hf : ∀ x e, d ≠ e → (f x e).spares x d) (m : Mod) {l : List Nat} (hl : d ∉ l) :
    (l.foldl f m).spares m d :=
  List.foldlRecOn (motive := fun x : Mod => x.spares m d) l f (m.spares_refl d) fun x hx e he =>
    Mod.spares_trans (hf x e fun h => hl (h ▸ he)) hx

/-- The dies before `d` and those after it. -/
theorem dies_split {d : Nat} (h : d < 6) : ∃ before after, List.range 6 = before ++ d :: after ∧ d ∉ before ∧ d ∉ after := by
  obtain ⟨before, after, e⟩ := List.append_of_mem (List.mem_range.mpr h)
  have nodup := e ▸ List.nodup_range (n := 6)
  refine ⟨before, after, e, fun hm => ?_, ?_⟩
  · exact (List.disjoint_of_nodup_append nodup) hm List.mem_cons_self
  · exact (List.nodup_cons.mp (List.nodup_append.mp nodup).2.1).1

/-- A pass over the six dies treats die `d` once, and all else that it does leaves what is held of `d`. -/
theorem Mod.foldl_dies {f : Mod → Nat → Mod} {d : Nat} (hd : d < 6) (hf : ∀ x e, d ≠ e → (f x e).spares x d) (m : Mod) :
    ∃ x, x.spares m d ∧ ((List.range 6).foldl f m).spares (f x d) d := by
  obtain ⟨before, after, e, hb, ha⟩ := dies_split hd
  rw [e, List.foldl_append, List.foldl_cons]
  exact ⟨_, Mod.spares_foldl hf m hb, Mod.spares_foldl hf _ ha⟩

/-- The evaluation sets the result of a die whose DIVERGE it does not hold to its classification, and a new one above MATCH raises its cause. -/
theorem Mod.classifyAll_result {m : Mod} (hk : m.kState = 1) {who : Option Nat} {d : Nat} (hd : d < 6) (free : ¬(m.result d = 2 ∧ who ≠ some d)) :
    (m.classifyAll who).result d = m.classify d ∧
      (m.result d ≠ m.classify d → 2 ≤ m.classify d → bits ((m.classifyAll who).reg 4 keeperPage 0x020) (m.classify d - 1) 1 = 1) := by
  obtain ⟨x, ⟨agrees, result, -⟩, -, result', causes⟩ := Mod.foldl_dies hd (fun x e h => Mod.spares_judge who x hd h) m
  have judged : x.judge who d = x.setResult d (m.classify d) := by
    unfold Mod.judge
    rw [result, if_neg free, Mod.classify_congr agrees hd]
  obtain ⟨-, stored, raised⟩ := Mod.setResult_stores x hd (m.classify_lt d)
  rw [judged] at result' causes
  rw [Mod.classifyAll_running hk]
  exact ⟨result'.trans stored, fun hne h2 => causes _ (raised (result ▸ hne) h2)⟩

theorem Mod.classifyAll_agrees (m : Mod) (who : Option Nat) : (m.classifyAll who).agreesKeeper m := by
  by_cases hk : m.kState = 1
  · rw [Mod.classifyAll_running hk]
    refine List.foldlRecOn (motive := fun x : Mod => x.agreesKeeper m) _ _ m.agreesKeeper_refl fun x hx d hd => Mod.agreesKeeper_trans ?_ hx
    unfold Mod.judge
    split
    · exact x.agreesKeeper_refl
    · exact (Mod.setResult_stores x (List.mem_range.mp hd) (x.classify_lt d)).1
  · rw [Mod.classifyAll_halted hk]
    exact m.agreesKeeper_refl

/-- Every result becomes PENDING. -/
def Mod.allPending (m : Mod) : Mod := (List.range 6).foldl (fun (x : Mod) d => x.setKp 0x410 (4 * d) 4 0) m

theorem Mod.allPending_result (m : Mod) {d : Nat} (hd : d < 6) : m.allPending.result d = 0 := by
  obtain ⟨x, -, -, result, -⟩ := Mod.foldl_dies hd (fun x e h => Mod.spares_setKp x 0 hd h) m
  exact result.trans (Mod.result_setKp_same x hd (by decide))

theorem Mod.allPending_agrees (m : Mod) : m.allPending.agreesKeeper m :=
  List.foldlRecOn (motive := fun x : Mod => x.agreesKeeper m) _ _ m.agreesKeeper_refl fun x hx _ _ =>
    Mod.agreesKeeper_trans (Mod.agreesKeeper_setKp x _ _ 0) hx

end Sys2Proof.Machine
end

section
/-! Configuration agreement (R32 to R38): the digest walk from GO to its report, and what reports, time, resets and a new epoch do to the results. -/

namespace Sys2Proof.Machine

theorem Mod.walkOn_setWalk (m : Mod) (die : Nat) (w : DigestWalk) : (m.setWalk die w).walkOn die = w := SMap.get_put_same _ _ _ _

theorem Mod.reg_setWalk (m : Mod) (die : Nat) (w : DigestWalk) (d page off : Nat) : (m.setWalk die w).reg d page off = m.reg d page off := rfl

theorem Mod.fld_setWalk (m : Mod) (die : Nat) (w : DigestWalk) (d page off lo n : Nat) : (m.setWalk die w).fld d page off lo n = m.fld d page off lo n := rfl

theorem Mod.keeper_setWalk (m : Mod) (die : Nat) (w : DigestWalk) : (m.setWalk die w).keeper = m.keeper := rfl

theorem Mod.keeper_onKeeper (m : Mod) (f : Keeper → Keeper) : (m.onKeeper f).keeper = f m.keeper := rfl

theorem Mod.reg_onKeeper (m : Mod) (f : Keeper → Keeper) (d page off : Nat) : (m.onKeeper f).reg d page off = m.reg d page off := rfl

/-! ### The start of a walk (R32, R33) -/

theorem blockAt_digestPage {die : Nat} (hd : die < 6) : blockAt die (digestPage die) = some (.digest, 0) := by
  interval_cases die <;> rfl

/-- DIGEST_CTRL holds the epoch, and GO starts the walk. -/
theorem regFields_digestCtrl {die : Nat} (hd : die < 6) : regFields die (digestPage die) 0x100 =
    [{ off := 0x100, lo := 0, width := 32, acc := .rw, cls := .v }, { off := 0x100, lo := 32, width := 1, acc := .w1z, cls := .v }] := by
  unfold regFields pageFields
  rw [blockAt_digestPage hd]
  rfl

/-- A full write of DIGEST_CTRL stores the low word: GO reads zero. -/
theorem Mod.commonWrite_digestCtrl (m : Mod) (q : Nat) {die : Nat} (hd : die < 6) (v : Word) :
    ∃ x, m.commonWrite q die (digestPage die) 0x100 (2 ^ 64 - 1) v.toNat = m.setReg die (digestPage die) 0x100 x ∧ bits x 0 32 = v.toNat % 2 ^ 32 := by
  have mask : popMask die (digestPage die) 0x100 = 2 ^ 64 - 1 := by
    unfold popMask
    rw [blockAt_digestPage hd]
  have written (locked : Bool) (old : Nat) : writeFields [{ off := 0x100, lo := 0, width := 32, acc := .rw, cls := .v },
      { off := 0x100, lo := 32, width := 1, acc := .w1z, cls := .v }] locked old (2 ^ 64 - 1) v.toNat =
      (setBits (setBits old 0 32 (v.toNat % 2 ^ 32)) 32 1 0, false) := by
    have whole : bits (2 ^ 64 - 1) 0 32 = 2 ^ 32 - 1 := by decide
    have cut : bits v.toNat 0 32 % 2 ^ 32 = v.toNat % 2 ^ 32 := by simp [bits]
    simp only [writeFields, List.foldl_cons, List.foldl_nil, Fld.write, Norm.apply, whole, Nat.sub_self, Nat.and_zero, Nat.zero_or,
      Nat.and_two_pow_sub_one_eq_mod, cut]
    rfl
  refine ⟨setBits (setBits (m.reg die (digestPage die) 0x100) 0 32 (v.toNat % 2 ^ 32)) 32 1 0 &&& (2 ^ 64 - 1), ?_, ?_⟩
  · unfold Mod.commonWrite
    rw [regFields_digestCtrl hd, mask]
    dsimp only
    rw [written]
    simp [cMask]
  · rw [Nat.and_two_pow_sub_one_eq_mod, bits_mod (by decide), bits_setBits_apart (by decide), bits_setBits_same, Nat.mod_mod]

/-- A walk begins at GO of an enabled page when none is in progress. -/
theorem Mod.digestCtrl_go {m : Mod} (q : Nat) {die : Nat} (hd : die < 6) {v : Word} (go : bits v.toNat 32 1 = 1)
    (idle : m.fld die (digestPage die) 0x108 0 1 = 0) :
    (m.digestCtrl q die (2 ^ 64 - 1) v.toNat).fld die (digestPage die) 0x108 0 5 = 1 ∧
      (m.digestCtrl q die (2 ^ 64 - 1) v.toNat).walkOn die = { epoch := v.toNat % 2 ^ 32 } := by
  obtain ⟨x, e, hx⟩ := m.commonWrite_digestCtrl q hd v
  have epoch : (m.setReg die (digestPage die) 0x100 x).fld die (digestPage die) 0x100 0 32 = v.toNat % 2 ^ 32 := by
    unfold Mod.fld
    rw [Mod.reg_setReg_same, bits_mod (by decide), hx]
  have free : (m.setReg die (digestPage die) 0x100 x).walkBusy die = false := by
    unfold Mod.walkBusy
    rw [Mod.fld_setReg_off _ _ _ (by decide), idle]
    rfl
  have starts : ¬(bits (2 ^ 64 - 1) 32 1 = 0 ∨ bits v.toNat 32 1 = 0 ∨ (m.setReg die (digestPage die) 0x100 x).walkBusy die = true) := by
    rw [bits_full (by decide), go, free]
    decide
  unfold Mod.digestCtrl
  dsimp only
  rw [e, if_neg starts, epoch]
  rw [Mod.fld_setWalk, Mod.fld_setFld_same _ _ _ _ (by decide), Mod.walkOn_setWalk]
  exact ⟨rfl, rfl⟩

/-- A write of DIGEST_CTRL on an enabled page is the write of that register and nothing else. -/
theorem regWrite_digestCtrl (env : Env) (q wv : Nat) {die : Nat} (hd : die < 6) {s : State} (on : s.mod.enabled die (digestPage die) = true) :
    regWrite env q die (digestPage die) 0x100 (2 ^ 64 - 1) wv s = s.upd (fun m => m.digestCtrl q die (2 ^ 64 - 1) wv) := by
  have beyond : (decide (die < 4) && decide (digestPage die < 2048) && s.mod.coreSweep (die * 256 + digestPage die / 8)) = false := by
    have far : ¬ digestPage die < 2048 := by unfold digestPage; split <;> decide
    rw [decide_eq_false far, Bool.and_false, Bool.false_and]
  unfold regWrite
  dsimp only
  rw [beyond, on]
  unfold blockWrite
  rw [blockAt_digestPage hd]
  rfl

/-! ### The end of a walk (R33) -/

/-- The record of a walk that has visited the pages `l`. -/
def Mod.visited (m : Mod) (die : Nat) (l : List Nat) : DigestWalk :=
  let w := m.walkOn die
  let recs := l.map (fun p => m.digestPageRec die p w.epoch)
  { w with next := (match l.getLast? with | some p => p + 1 | none => w.next), bytes := w.bytes ++ recs.flatMap (fun r => r.1)
           pages := w.pages + recs.length, ahead := w.ahead || recs.any (fun r => r.2.1), dirty := w.dirty || recs.any (fun r => r.2.2) }

theorem Mod.digestVisit_walkOn (m : Mod) (die : Nat) (l : List Nat) : (m.digestVisit die l).walkOn die = m.visited die l := SMap.get_put_same _ _ _ _

theorem Mod.digestVisit_keeper (m : Mod) (die : Nat) (l : List Nat) : (m.digestVisit die l).keeper = m.keeper := by
  unfold Mod.digestVisit
  dsimp only
  rw [Mod.setFld_keeper, Mod.setFld_keeper, Mod.setFld_keeper, Mod.keeper_setWalk]

theorem Mod.digestVisit_stat (m : Mod) (die : Nat) (l : List Nat) :
    (m.digestVisit die l).fld die (digestPage die) 0x108 2 1 = m.fld die (digestPage die) 0x108 2 1 ∧
      (m.digestVisit die l).fld die (digestPage die) 0x108 16 14 = (m.visited die l).pages % 2 ^ 14 := by
  refine ⟨?_, Mod.fld_setFld_same _ _ _ _ (by decide) _⟩
  unfold Mod.digestVisit
  dsimp only
  rw [Mod.fld_setFld_apart _ _ _ _ (by decide) (by decide), Mod.fld_setFld_apart _ _ _ _ (by decide) (by decide),
    Mod.fld_setFld_apart _ _ _ _ (by decide) (by decide)]
  rfl

/-- The eight words of a digest in DIGEST_VALUE. -/
def Mod.storeDigest (m : Mod) (die digest : Nat) : Mod :=
  (List.range 8).foldl (fun (x : Mod) i => x.setReg die (digestPage die) (0x110 + 8 * i) (bits digest (64 * i) 64)) m

/-- Words written to consecutive registers read back, and the registers below them stay. -/
theorem Mod.reg_setRegs (m : Mod) (die page base : Nat) (f : Nat → Nat) : ∀ n : Nat,
    let t := (List.range n).foldl (fun (x : Mod) i => x.setReg die page (base + 8 * i) (f i)) m
    t.keeper = m.keeper ∧ (∀ i, i < n → t.reg die page (base + 8 * i) = f i % 2 ^ 64) ∧
      ∀ off, off / 8 < base / 8 → t.reg die page off = m.reg die page off := by
  intro n
  induction n with
  | zero => exact ⟨rfl, fun i hi => absurd hi (Nat.not_lt_zero i), fun _ _ => rfl⟩
  | succ n ih =>
    obtain ⟨keeper, written, below⟩ := ih
    rw [List.range_succ, List.foldl_append, List.foldl_cons, List.foldl_nil]
    refine ⟨keeper, fun i hi => ?_, fun off ho => ?_⟩
    · rcases Nat.lt_succ_iff_lt_or_eq.mp hi with hlt | rfl
      · rw [Mod.reg_setReg_off _ _ _ (by omega), written i hlt]
      · exact Mod.reg_setReg_same _ _ _ _ _
    · rw [Mod.reg_setReg_off _ _ _ (by omega), below off ho]

theorem Mod.storeDigest_spec (m : Mod) (die digest : Nat) : (m.storeDigest die digest).keeper = m.keeper ∧
    (∀ i, i < 8 → (m.storeDigest die digest).reg die (digestPage die) (0x110 + 8 * i) = bits digest (64 * i) 64) ∧
      ∀ lo w, (m.storeDigest die digest).fld die (digestPage die) 0x108 lo w = m.fld die (digestPage die) 0x108 lo w := by
  obtain ⟨keeper, written, below⟩ := Mod.reg_setRegs m die (digestPage die) 0x110 (fun i => bits digest (64 * i) 64) 8
  refine ⟨keeper, fun i hi => (written i hi).trans (Nat.mod_eq_of_lt (bits_lt _ _ _)), fun lo w => ?_⟩
  exact congrArg (bits · lo w) (below 0x108 (by decide))

/-- The walk's record when its last pages have been visited, as its report tells it (R33). -/
theorem Mod.visited_report (m : Mod) (die : Nat) (l : List Nat) : (m.visited die l).report =
    { epoch := (m.walkOn die).epoch
      digest := leNat (sha512 ((m.walkOn die).bytes ++ l.flatMap fun p => leBytes 8 (idWord die p) ++
        leBytes 8 (if m.pageDisabled die p then 2 ^ 64 - 1 else m.cfgSum die p)))
      disturbed := (m.walkOn die).disturbed
      ahead := (m.walkOn die).ahead || l.any fun p => decide ((m.walkOn die).epoch < m.reg die p 0x058)
      dirty := (m.walkOn die).dirty || l.any fun p => m.fld die p 0x018 5 1 == 1 } := by
  unfold Mod.visited DigestWalk.report
  simp only [List.flatMap_map, List.any_map]
  rfl

/-- A walk of die `die` ends: digest and DONE stand in the DIGEST page, and the report `r` leaves for the Keeper. -/
def Mod.sendReport (m : Mod) (die : Nat) (r : Report0) : Mod :=
  (((m.storeDigest die r.digest).setFld die (digestPage die) 0x108 0 2 2).setWalk die {}).onKeeper
    fun k => ({ k with inbox := k.inbox ++ [(die, r)] } : Keeper)

theorem Mod.sendReport_reg (m : Mod) (die : Nat) (r : Report0) (d page off : Nat) :
    (m.sendReport die r).reg d page off = ((m.storeDigest die r.digest).setFld die (digestPage die) 0x108 0 2 2).reg d page off := by
  unfold Mod.sendReport
  rw [Mod.reg_onKeeper, Mod.reg_setWalk]

theorem Mod.sendReport_fld (m : Mod) (die : Nat) (r : Report0) (d page off lo w : Nat) :
    (m.sendReport die r).fld d page off lo w = ((m.storeDigest die r.digest).setFld die (digestPage die) 0x108 0 2 2).fld d page off lo w :=
  congrArg (bits · lo w) (m.sendReport_reg die r d page off)

theorem Mod.sendReport_spec (m : Mod) (die : Nat) (r : Report0) : (m.sendReport die r).keeper.inbox = m.keeper.inbox ++ [(die, r)] ∧
    (∀ i, i < 8 → (m.sendReport die r).reg die (digestPage die) (0x110 + 8 * i) = bits r.digest (64 * i) 64) ∧
      (m.sendReport die r).fld die (digestPage die) 0x108 0 2 = 2 ∧
        ∀ lo w, 2 ≤ lo → lo + w ≤ 64 → (m.sendReport die r).fld die (digestPage die) 0x108 lo w = m.fld die (digestPage die) 0x108 lo w := by
  obtain ⟨keeper, words, stat⟩ := m.storeDigest_spec die r.digest
  refine ⟨?_, fun i hi => ?_, ?_, fun lo w h2 h64 => ?_⟩
  · unfold Mod.sendReport
    rw [Mod.keeper_onKeeper, Mod.keeper_setWalk, Mod.setFld_keeper, keeper]
  · rw [Mod.sendReport_reg, Mod.reg_setFld_off _ _ _ (by omega), words i hi]
  · rw [Mod.sendReport_fld, Mod.fld_setFld_same _ _ _ _ (by decide)]
    rfl
  · rw [Mod.sendReport_fld, Mod.fld_setFld_apart _ _ _ _ (.inr h2) h64, stat]

/-- A walk in progress visits its last pages, and ends. -/
theorem execDigestWalkDone_busy {die : Nat} (hd : die < 6) {s : State} (hb : s.mod.walkBusy die = true) {l : List Nat}
    (hl : (diePages die).filter (fun p => decide ((s.mod.walkOn die).next ≤ p)) = l) :
    execDigestWalkDone die s = .next { s with mod := (s.mod.digestVisit die l).sendReport die (s.mod.visited die l).report } := by
  unfold execDigestWalkDone
  rw [if_neg (by omega), hb, if_neg (by decide)]
  dsimp only
  unfold Mod.digestRest
  rw [hl, Mod.digestVisit_walkOn]
  rfl

theorem Mod.visited_pages (m : Mod) (die : Nat) (l : List Nat) : (m.visited die l).pages = (m.walkOn die).pages + l.length := by
  simp [Mod.visited]

/-- What the end of a walk leaves: DONE, the flag DISTURBED as it was, the count of pages, the digest, and the report on its way. -/
theorem execDigestWalkDone_reports {die : Nat} (hd : die < 6) {s : State} (hb : s.mod.walkBusy die = true) {l : List Nat}
    (hl : (diePages die).filter (fun p => decide ((s.mod.walkOn die).next ≤ p)) = l) :
    ∃ t, execDigestWalkDone die s = .next t ∧ t.mod.fld die (digestPage die) 0x108 0 2 = 2 ∧
      t.mod.fld die (digestPage die) 0x108 2 1 = s.mod.fld die (digestPage die) 0x108 2 1 ∧
      t.mod.fld die (digestPage die) 0x108 16 14 = ((s.mod.walkOn die).pages + l.length) % 2 ^ 14 ∧
      (∀ i, i < 8 → t.mod.reg die (digestPage die) (0x110 + 8 * i) = bits (s.mod.visited die l).report.digest (64 * i) 64) ∧
      t.mod.keeper.inbox = s.mod.keeper.inbox ++ [(die, (s.mod.visited die l).report)] := by
  obtain ⟨disturbed, pages⟩ := s.mod.digestVisit_stat die l
  obtain ⟨inbox, words, done, stat⟩ := (s.mod.digestVisit die l).sendReport_spec die (s.mod.visited die l).report
  rw [Mod.digestVisit_keeper] at inbox
  refine ⟨_, execDigestWalkDone_busy hd hb hl, done, ?_, ?_, words, inbox⟩
  · exact (stat 2 1 (by decide) (by decide)).trans disturbed
  · rw [← Mod.visited_pages]
    exact (stat 16 14 (by decide) (by decide)).trans pages

/-! ### The Keeper's commands (R35 to R38) -/

/-- The report `r` of die `d` has come, and `q` is left on the way. -/
def Mod.reported (m : Mod) (d : Nat) (r : Report0) (q : List (Nat × Report0)) : Mod :=
  m.onKeeper fun k => ({ k with inbox := q, reports := SMap.put none k.reports d (some r) } : Keeper)

/-- A report that has come is classified, whatever the die's result was. -/
theorem execKeeperDigestReport_taken {s : State} {d : Nat} {r : Report0} {q : List (Nat × Report0)} (hi : s.mod.keeper.inbox = (d, r) :: q)
    (hk : s.mod.kState = 1) (hd : d < 6) : ∃ t, execKeeperDigestReport s = .next t ∧ t.mod.keeper.inbox = q ∧
      (r.epoch = s.mod.kp 0x400 0 32 → r.ahead = false → r.disturbed = false → t.mod.result d = if r.digest = s.mod.expected d then 1 else 2) ∧
      (s.mod.kp 0x400 0 32 < r.epoch ∨ r.ahead = true → t.mod.result d = 4) := by
  have latest : SMap.get none (s.mod.reported d r q).keeper.reports d = some r := SMap.get_put_same none s.mod.keeper.reports d (some r)
  have performed : execKeeperDigestReport s = .next { s with mod := (s.mod.reported d r q).classifyAll (some d) } := by
    unfold execKeeperDigestReport
    rw [hi]
    dsimp only
    rw [if_neg (fun h => h hk)]
    rfl
  have judged := (Mod.classifyAll_result (m := s.mod.reported d r q) (who := some d) hk hd fun h => h.2 rfl).1
  refine ⟨_, performed, ?_, fun he ha hdist => ?_, fun ha => ?_⟩
  · exact congrArg Keeper.inbox (Mod.classifyAll_agrees _ (some d)).1
  · exact judged.trans (Mod.classify_current latest he ha hdist)
  · exact judged.trans (Mod.classify_ahead latest ha)

/-- The time of die `d` has passed. -/
def Mod.timedOut (m : Mod) (d : Nat) : Mod :=
  m.onKeeper fun k => ({ k with expired := if k.expired.contains d then k.expired else k.expired ++ [d] } : Keeper)

theorem Mod.timedOut_expired (m : Mod) (d : Nat) : (m.timedOut d).keeper.expired.contains d = true := by
  unfold Mod.timedOut Mod.onKeeper
  dsimp only
  split
  · assumption
  · simp

/-- A PENDING result is held back by nothing. -/
theorem Mod.pending_free {m : Mod} {d : Nat} (hp : m.result d = 0) (who : Option Nat) : ¬(m.result d = 2 ∧ who ≠ some d) := by
  rw [hp]
  exact fun h => absurd h.1 (by decide)

/-- The time of a die that has not reported passes: its result becomes STALE, and CONFIG_STALE is raised. -/
theorem execConfigStale_pending {s : State} {d : Nat} (hd : d < 6) (hk : s.mod.kState = 1) (hp : s.mod.result d = 0)
    (hr : SMap.get none s.mod.keeper.reports d = none) :
    ∃ t, execConfigStale d s = .next t ∧ t.mod.result d = 3 ∧ bits (t.mod.reg 4 keeperPage 0x020) 2 1 = 1 := by
  have performed : execConfigStale d s = .next { s with mod := (s.mod.timedOut d).classifyAll none } := by
    unfold execConfigStale
    rw [if_pos hd, if_pos ⟨hk, hp⟩]
    rfl
  have stale : (s.mod.timedOut d).classify d = 3 :=
    (Mod.classify_unreported (m := s.mod.timedOut d) hr).trans (if_pos (s.mod.timedOut_expired d))
  have pending : (s.mod.timedOut d).result d = 0 := hp
  obtain ⟨judged, raised⟩ := Mod.classifyAll_result (m := s.mod.timedOut d) hk hd (Mod.pending_free pending none)
  rw [stale, pending] at raised
  exact ⟨_, performed, judged.trans stale, raised (by decide) (by decide)⟩

/-- A die that has neither reported nor run out of time stays PENDING. -/
theorem Mod.classifyAll_pending {m : Mod} {d : Nat} (hd : d < 6) (hp : m.result d = 0) (hr : SMap.get none m.keeper.reports d = none)
    (he : m.keeper.expired.contains d = false) : (m.classifyAll none).result d = 0 := by
  by_cases hk : m.kState = 1
  · have judged := (Mod.classifyAll_result hk hd (Mod.pending_free hp none)).1
    rw [judged, Mod.classify_unreported hr, he]
    rfl
  · rw [Mod.classifyAll_halted hk, hp]

/-- The notice of a DR of die `d` has come, and `q` is left on the way. -/
def Mod.resetNoticed (m : Mod) (d : Nat) (q : List Nat) : Mod :=
  (m.onKeeper fun k =>
    ({ k with notices := q, reports := SMap.put none k.reports d none, expired := k.expired.filter fun e => e != d } : Keeper)).setKp 0x410 (4 * d) 4 0

/-- The notice of a DR: the report of the die is discarded, and its result is PENDING (R38). -/
theorem execKeeperResetNotice_taken {s : State} {d : Nat} {q : List Nat} (hn : s.mod.keeper.notices = d :: q) (hd : d < 6) :
    ∃ t, execKeeperResetNotice s = .next t ∧ t.mod.keeper.notices = q ∧ SMap.get none t.mod.keeper.reports d = none ∧ t.mod.result d = 0 := by
  have performed : execKeeperResetNotice s = .next { s with mod := (s.mod.resetNoticed d q).classifyAll none } := by
    unfold execKeeperResetNotice
    rw [hn]
    rfl
  have discarded : SMap.get none (s.mod.resetNoticed d q).keeper.reports d = none := SMap.get_put_same none s.mod.keeper.reports d none
  have unexpired : (s.mod.resetNoticed d q).keeper.expired.contains d = false := by
    unfold Mod.resetNoticed Mod.onKeeper Mod.setKp
    simp
  have keeper := (Mod.classifyAll_agrees (s.mod.resetNoticed d q) none).1
  refine ⟨_, performed, congrArg Keeper.notices keeper, ?_, ?_⟩
  · rw [keeper]
    exact discarded
  · exact Mod.classifyAll_pending hd (Mod.result_setKp_same _ hd (by decide)) discarded unexpired

/-! ### A new module epoch (R35, R36) -/

/-- A full write of KEEPER_CFG_EPOCH, whatever ENABLE of the page holds. -/
theorem regWrite_keeperEpoch (env : Env) (q wv : Nat) (s : State) :
    regWrite env q 4 keeperPage 0x400 (2 ^ 64 - 1) wv s = s.upd (fun m => m.keeperEpoch q (2 ^ 64 - 1) wv) := by
  have starts : startMask 4 keeperPage 0x400 = 0 := by decide
  have whole : (if s.mod.enabled 4 keeperPage then 2 ^ 64 - 1 else (2 ^ 64 - 1) &&& (2 ^ 64 - 1 - startMask 4 keeperPage 0x400)) = 2 ^ 64 - 1 := by
    rw [starts]
    split <;> decide
  unfold regWrite
  dsimp only
  rw [whole]
  rfl

/-- The module with the epoch raised to `e`: no time has passed, and every result is PENDING. -/
def Mod.atEpoch (m : Mod) (e : Nat) : Mod := ((m.setReg 4 keeperPage 0x400 e).onKeeper fun k => ({ k with expired := [] } : Keeper)).allPending

/-- A full write stores a raise by exactly 1, and evaluates every report anew; any other is an error. -/
theorem Mod.keeperEpoch_full (m : Mod) (q wv : Nat) : m.keeperEpoch q (2 ^ 64 - 1) wv =
    if wv % 2 ^ 32 = m.kp 0x400 0 32 + 1 then (m.atEpoch (wv % 2 ^ 32)).classifyAll none
    else m.err 4 keeperPage 3 q 0 (regMpa 4 keeperPage 0x400) := by
  have low : (m.kp 0x400 0 32 &&& (2 ^ 32 - 1 - (2 ^ 64 - 1) % 2 ^ 32)) ||| (wv &&& (2 ^ 64 - 1)) % 2 ^ 32 = wv % 2 ^ 32 := by
    rw [Nat.and_two_pow_sub_one_eq_mod, Nat.mod_mod_of_dvd wv (by decide)]
    simp
  have fits : wv % 2 ^ 32 < 2 ^ 32 := Nat.mod_lt _ (by decide)
  unfold Mod.keeperEpoch
  dsimp only
  rw [low]
  simp only [fits, and_true]
  rfl

/-- What a raise of the epoch leaves for the evaluation. -/
theorem Mod.atEpoch_spec (m : Mod) {e : Nat} (he : e < 2 ^ 32) : (m.atEpoch e).keeper = { m.keeper with expired := [] } ∧
    (m.atEpoch e).kp 0x400 0 32 = e ∧ (m.atEpoch e).kState = m.kState ∧
      ∀ d, d < 6 → (m.atEpoch e).result d = 0 ∧ (m.atEpoch e).expected d = m.expected d := by
  have agrees := Mod.allPending_agrees ((m.setReg 4 keeperPage 0x400 e).onKeeper fun k => ({ k with expired := [] } : Keeper))
  have others (off : Nat) (h : off / 8 ≠ 0x400 / 8) (ho : off < 4096) (h4 : off / 8 ≠ 0x020 / 8) (h82 : off / 8 ≠ 0x410 / 8) :
      (m.atEpoch e).reg 4 keeperPage off = m.reg 4 keeperPage off := (agrees.2 off ho h4 h82).trans (Mod.reg_setReg_off m 4 keeperPage h e)
  refine ⟨agrees.1, ?_, congrArg (bits · 0 4) (others 0x100 (by decide) (by decide) (by decide) (by decide)), fun d hd => ⟨Mod.allPending_result _ hd, ?_⟩⟩
  · refine (Mod.kp_congr agrees (by decide) (by decide) (by decide) 0 32).trans ?_
    change bits ((m.setReg 4 keeperPage 0x400 e).reg 4 keeperPage 0x400) 0 32 = e
    rw [Mod.reg_setReg_same, bits_mod (by decide)]
    simpa [bits] using he
  · unfold Mod.expected
    refine List.foldl_ext _ _ 0 fun v i hi => ?_
    have hi8 : i < 8 := List.mem_range.mp hi
    rw [others (0x440 + d * 0x40 + 8 * i) (by omega) (by omega) (by omega) (by omega)]

/-- The results that a new epoch finds: PENDING without a report, the digest's verdict with one at the epoch. -/
theorem Mod.classifyAll_atEpoch (m : Mod) {e d : Nat} (he : e < 2 ^ 32) (hd : d < 6) :
    (SMap.get none m.keeper.reports d = none → ((m.atEpoch e).classifyAll none).result d = 0) ∧
      ∀ r, m.kState = 1 → SMap.get none m.keeper.reports d = some r → r.ahead = false → r.disturbed = false → r.epoch = e →
        ((m.atEpoch e).classifyAll none).result d = if r.digest = m.expected d then 1 else 2 := by
  obtain ⟨keeper, epoch, state, results⟩ := m.atEpoch_spec he
  obtain ⟨pending, expected⟩ := results d hd
  have kept : (m.atEpoch e).keeper.reports = m.keeper.reports := by rw [keeper]
  refine ⟨fun hr => ?_, fun r hk hr ha hdist hre => ?_⟩
  · exact Mod.classifyAll_pending hd pending (by rw [kept, hr]) (by rw [keeper, List.contains_nil])
  · have judged := (Mod.classifyAll_result (state.trans hk) hd (Mod.pending_free pending none)).1
    rw [judged, Mod.classify_current (by rw [kept, hr]) (hre.trans epoch.symm) ha hdist, expected]

theorem Mod.classifyAll_atEpoch_epoch (m : Mod) {e : Nat} (he : e < 2 ^ 32) :
    ((m.atEpoch e).classifyAll none).kp 0x400 0 32 = e ∧ ((m.atEpoch e).classifyAll none).keeper.expired = [] := by
  obtain ⟨keeper, epoch, -, -⟩ := m.atEpoch_spec he
  have agrees := (m.atEpoch e).classifyAll_agrees none
  exact ⟨(Mod.kp_congr agrees (by decide) (by decide) (by decide) 0 32).trans epoch, by rw [agrees.1, keeper]⟩

theorem exec_keeperCfgEpochWrite {a : RegAcc} {s : State} (h : s.admits a 4 keeperPage 0x400 = true) :
    exec (.keeperCfgEpochWrite a) s = .next { s with mod := s.mod.keeperEpoch a.q (2 ^ 64 - 1) a.v.toNat } :=
  (registerCommands.1 _ a _ 4 keeperPage 0x400 s rfl rfl h).trans (congrArg _ (regWrite_keeperEpoch _ _ _ _))

theorem exec_digestGo {a : RegAcc} {die : Nat} {s : State} (hd : die < 6) (h : s.admits a die (digestPage die) 0x100 = true)
    (on : s.mod.enabled die (digestPage die) = true) (go : bits a.v.toNat 32 1 = 1) :
    exec (.digestGo a) s = .next (s.upd fun m => m.digestCtrl a.q die (2 ^ 64 - 1) a.v.toNat) := by
  have named : RegTarget.of .digest 0x100 0x100 (bitOn a.v 32) die (digestPage die) 0x100 s = true := by
    simp [RegTarget.of, pageOf, blockAt_digestPage hd, bitOn, go]
  exact (registerCommands.1 _ a _ die (digestPage die) 0x100 s rfl named h).trans (congrArg _ (regWrite_digestCtrl _ _ _ hd on))

theorem State.admits_die {s : State} {a : RegAcc} {die page off : Nat} (h : s.admits a die page off = true) : die < 6 := by
  simp only [State.admits, accessOf, Bool.and_eq_true, decide_eq_true_eq] at h
  tauto

/-- Settles O32: a walk goes from GO to its report, and each event of R36 to R38 evaluates the dies' latest reports. -/
theorem configurationAgreement : Obligations.ConfigurationAgreement := by
  unfold Obligations.ConfigurationAgreement
  refine ⟨?_, ?_, ?_, ?_, ?_, ?_⟩
  case refine_1 =>
    intro a die s hadm on go idle
    have hd := State.admits_die hadm
    exact ⟨_, exec_digestGo hd hadm on go, Mod.digestCtrl_go a.q hd go idle⟩
  case refine_2 =>
    intro die s hd busy
    have reports := execDigestWalkDone_reports hd busy rfl
    rw [Mod.visited_report] at reports
    exact reports
  case refine_3 =>
    intro d r q s hi hk hd
    obtain ⟨t, ht, inbox, current, ahead⟩ := execKeeperDigestReport_taken hi hk hd
    refine ⟨t, ht, inbox, fun he ha hdist hmatch => ?_, fun he ha hdist hdiff => ?_, ahead⟩
    · exact (current he ha hdist).trans (if_pos hmatch)
    · exact (current he ha hdist).trans (if_neg hdiff)
  case refine_4 => exact fun d s hd hk hp hr => execConfigStale_pending hd hk hp hr
  case refine_5 => exact fun d q s hn hd => execKeeperResetNotice_taken hn hd
  case refine_6 =>
    intro a s hadm
    have performed := exec_keeperCfgEpochWrite hadm
    refine ⟨fun raise => ?_, fun other => ?_⟩
    · have fits : s.mod.kp 0x400 0 32 + 1 < 2 ^ 32 := raise ▸ Nat.mod_lt _ (by decide)
      have raised : s.mod.keeperEpoch a.q (2 ^ 64 - 1) a.v.toNat = (s.mod.atEpoch (s.mod.kp 0x400 0 32 + 1)).classifyAll none := by
        rw [Mod.keeperEpoch_full, if_pos raise, raise]
      obtain ⟨epoch, expired⟩ := s.mod.classifyAll_atEpoch_epoch fits
      have results {d : Nat} (hd : d < 6) := s.mod.classifyAll_atEpoch fits hd
      rw [raised] at performed
      exact ⟨_, performed, epoch, fun d hd => (results hd).1, fun d r hd => (results hd).2 r, expired⟩
    · have refused : s.mod.keeperEpoch a.q (2 ^ 64 - 1) a.v.toNat = s.mod.err 4 keeperPage 3 a.q 0 (regMpa 4 keeperPage 0x400) := by
        rw [Mod.keeperEpoch_full, if_neg other]
      obtain ⟨recorded, kept⟩ := Mod.err_reg s.mod (show errIrq 4 keeperPage = none by decide) (show 3 < 64 by decide) a.q 0 (regMpa 4 keeperPage 0x400)
      rw [refused] at performed
      exact ⟨_, performed, congrArg (bits · 0 32) (kept 0x400 (by decide) (by decide) (by decide)), recorded⟩

end Sys2Proof.Machine
end

section
/-! Gates (R95, R96): what committing CS writes, jumping and correcting errors leave of a core, the checks of SYSCALL, and the core and memory on
the two sides of a gate. -/

namespace Sys2Proof.Machine

/-! ### Registers and CS -/

theorem Core.gr_setG (k : Core) (i : Nat) (v : Word) (j : Nat) : (k.setG i v).gr j = if j = i then v else k.gr j := by
  split
  · next e => exact e ▸ SMap.get_put_same _ _ _ _
  · next e => exact SMap.get_put_ne _ _ _ e

theorem Core.loads_setG_nil {k : Core} (h : k.loads = []) (i : Nat) (v : Word) : (k.setG i v).loads = [] := by simp [Core.setG, Core.putG, h]

/-- The branch whose delay slot is next, and what the loop-end check reads beside CS (R64, R68), agree. -/
def Core.sameFlow (u k : Core) : Prop := u.branch = k.branch ∧ u.lpc = k.lpc ∧ u.lpe = k.lpe

theorem Core.sameFlow_refl (k : Core) : k.sameFlow k := ⟨rfl, rfl, rfl⟩

theorem Core.sameFlow_trans {u v k : Core} (h : u.sameFlow v) (g : v.sameFlow k) : u.sameFlow k := by
  obtain ⟨hb, hc, he⟩ := h
  obtain ⟨gb, gc, ge⟩ := g
  exact ⟨hb.trans gb, hc.trans gc, he.trans ge⟩

theorem Core.sameFlow_straight {u k : Core} {seq : PAddr} (h : u.sameFlow k) (straight : k.branch = none ∧ k.loopLast seq = false) :
    u.branch = none ∧ u.loopLast seq = false := by
  obtain ⟨hb, hc, he⟩ := h
  rwa [Core.loopLast, hb, hc, he]

theorem Core.sameFlow_setG (k : Core) (i : Nat) (v : Word) : (k.setG i v).sameFlow k := ⟨rfl, rfl, rfl⟩

theorem Core.cs_setCs (k : Core) (x : Cs) : (k.setCs x).cs = x := by
  unfold Core.cs Core.setCs Core.setBank Core.bankOf
  split
  · simp
  · split <;> simp_all

/-- A write of CS leaves registers, loads, the branch and the loops. -/
theorem Core.setCs_frame (k : Core) (x : Cs) : (k.setCs x).sameFlow k ∧ (k.setCs x).g = k.g ∧ (k.setCs x).loads = k.loads := by
  unfold Core.setCs Core.setBank
  split
  · exact ⟨k.sameFlow_refl, rfl, rfl⟩
  · split <;> exact ⟨k.sameFlow_refl, rfl, rfl⟩

theorem Core.sameFlow_commitCs (k : Core) : k.commitCs.sameFlow k := by
  unfold Core.commitCs
  refine List.foldlRecOn (motive := fun u : Core => u.sameFlow k) _ _ k.sameFlow_refl fun u hu e _ => ?_
  obtain ⟨flow, -⟩ := u.setCs_frame e.1
  exact Core.sameFlow_trans flow hu

/-! ### Issue and the end of a jump -/

/-- A command of a core that issues ready and legal. -/
theorem onCoreOnly_ready {s : State} {c n len : Nat} {ctl last : Bool} {rs : List Nat} (hc : isCore c = true)
    (h : s.mod.ready c len ctl last rs = true) (body : Mod → Core → Res) :
    onCoreOnly c n s (issue c len [] ctl last rs body) = .next { s with mod := s.mod.answers c len (body (s.mod.due c) (s.mod.at c)) } := by
  simp only [onCoreOnly, hc, ↓reduceIte, issue_ready h]

/-- A ready control instruction stands in no delay slot and ends no active loop (R64, R69). -/
theorem Mod.ready_straight {m : Mod} {c len : Nat} {rs : List Nat} (h : m.ready c len true true rs = true) :
    (m.at c).branch = none ∧ (m.at c).loopLast ((m.at c).pc + BitVec.ofNat 16 len) = false := by
  simp only [Mod.ready, Bool.and_eq_true, Bool.not_eq_true', Bool.true_and, Option.isSome_eq_false_iff, Option.isNone_iff_eq_none] at h
  obtain ⟨⟨⟨-, hb⟩, hl⟩, -⟩ := h
  exact ⟨hb, hl⟩

theorem Core.loopLast_false {k : Core} {seq : PAddr} (h : k.loopLast seq = false) {j : Nat} (hj : j < 4) :
    SMap.get 0 k.lpc j = 0 ∨ SMap.get 0 k.lpe j ≠ seq := by
  rw [Core.loopLast, List.any_eq_false] at h
  have level := h j (by interval_cases j <;> decide)
  simp only [Bool.and_eq_true, bne_iff_ne, beq_iff_eq, not_and] at level
  exact or_iff_not_imp_left.mpr fun hc he => level hc he.symm

/-- With no branch and no active level that ends here, execution goes on where the instruction says. -/
theorem Core.retire_straight {k : Core} {seq : PAddr} (hb : k.branch = none) (hl : k.loopLast seq = false) (dflt : PAddr) :
    (k.retire seq dflt).pc = dflt := by
  cases le : k.cs.le with
  | false =>
    obtain ⟨pc, -⟩ := Core.retire_unlooped hb le seq dflt
    exact pc
  | true =>
    obtain ⟨pc, -⟩ := Core.retire_unended hb le (fun _ hj => Core.loopLast_false hl hj) dflt
    exact pc

/-- The PC, CS and the general registers agree. -/
def Core.samePlace (u k : Core) : Prop := u.pc = k.pc ∧ u.cs = k.cs ∧ u.g = k.g

theorem Core.samePlace_ite {p : Prop} [Decidable p] {u v k : Core} (hu : u.samePlace k) (hv : v.samePlace k) : (if p then u else v).samePlace k := by
  split
  · exact hu
  · exact hv

theorem Core.samePlace_raise (k : Core) (cause sub addr : Nat) (rs : Bool) : (k.raise cause sub addr rs).samePlace k := by
  have stop : k.tldStop.samePlace k := by
    unfold Core.tldStop
    split
    · exact Core.samePlace_ite ⟨rfl, rfl, rfl⟩ ⟨rfl, rfl, rfl⟩
    · exact ⟨rfl, rfl, rfl⟩
  exact stop

/-- A routine's step counts, or raises a fault of the routine (R299). -/
theorem Core.samePlace_routineStep (k : Core) : k.routineStep.samePlace k := by
  unfold Core.routineStep
  split
  · exact ⟨rfl, rfl, rfl⟩
  · exact Core.samePlace_ite (Core.samePlace_raise _ _ _ _ _) (Core.samePlace_ite (Core.samePlace_raise _ _ _ _ _) ⟨rfl, rfl, rfl⟩)

theorem Mod.core_setCore (m : Mod) (c : Nat) (k : Core) : (m.setCore c k).core c = k := SMap.get_put_same _ _ _ _

theorem Mod.core_ends (m : Mod) (c : Nat) (seq dflt : PAddr) : (m.ends c seq dflt).core c = ((m.core c).retire seq dflt).routineStep := by
  obtain ⟨⟨r, e⟩, -⟩ := Mod.coreEv_frame (m.onCore c fun k => (k.retire seq dflt).routineStep) c 0x01 1
  rw [Mod.ends, Mod.retires, e]
  exact m.core_setCore c _

theorem Mod.ends_mem (m : Mod) (c : Nat) (seq dflt : PAddr) : (m.ends c seq dflt).mem = m.mem := by
  obtain ⟨⟨k, r, e⟩, -⟩ := Mod.ends_frame m c seq dflt
  rw [e]
  rfl

theorem Mod.ends_rd (m : Mod) (c : Nat) (seq dflt : PAddr) (key n : Nat) : (m.ends c seq dflt).rd key n = m.rd key n := by
  rw [Mod.rd, Mod.ends_mem, Mod.rd]

/-- After a jump of core `k` the PC is the target, CS is `k`'s, and so are the general registers when no load is in flight. -/
theorem Mod.ends_jump {m : Mod} {c : Nat} {k : Core} {seq : PAddr} (hb : k.branch = none) (hl : k.loopLast seq = false) (target : PAddr) :
    let u := ((m.setCore c k).ends c seq target).core c
    u.pc = target ∧ u.cs = k.cs ∧ (k.loads = [] → ∀ j, u.gr j = k.gr j) := by
  have pc := Core.retire_straight hb hl target
  obtain ⟨pc', cs', g'⟩ := (k.retire seq target).samePlace_routineStep
  obtain ⟨g, l, v, vl, r, lpc, csq, next, retired, regs⟩ := k.retire_frame seq target
  rw [Mod.core_ends, Mod.core_setCore]
  refine ⟨pc'.trans pc, ?_, fun hno j => ?_⟩
  · rw [cs', retired]
    rfl
  · rw [Core.gr, g', retired]
    exact regs j (by simp [hno])

/-! ### Memory and single-bit errors -/

theorem Mod.firstBad_clean {m : Mod} (h : m.bad = []) (key n : Nat) : m.firstBad key n = none := by simp [Mod.firstBad, h]

/-- Bytes below a write read as before. -/
theorem Mod.rd_wr_below (m : Mod) {key n key' : Nat} (v n' : Nat) (h : key + n ≤ key') : (m.wr key' n' v).rd key n = m.rd key n := by
  have apart : ∀ (n a : Nat), a + n ≤ key' → rdBytes (wrBytes m.mem key' n' v) a n = rdBytes m.mem a n := by
    intro n
    induction n with
    | zero => exact fun _ _ => rfl
    | succ n ih =>
      intro a ha
      rw [rdBytes, rdBytes, get_wrBytes_ne n' _ _ _ a (by omega), ih (a + 1) (by omega)]
  exact apart n key h

theorem Mod.scrub_rd (m : Mod) (key n key' n' : Nat) : (m.scrub key n).rd key' n' = m.rd key' n' := by rw [Mod.rd, Mod.scrub_mem, Mod.rd]

/-- Correcting single-bit errors writes their list and the counter (R195). -/
theorem Mod.scrub_setCore (m : Mod) (key n c : Nat) (k : Core) : (m.setCore c k).scrub key n = (m.scrub key n).setCore c k := by
  unfold Mod.scrub
  dsimp only [Mod.setCore]
  split <;> rfl

theorem Mod.scrub_core (m : Mod) (key n c : Nat) : (m.scrub key n).core c = m.core c := by
  unfold Mod.scrub
  dsimp only
  split <;> rfl

theorem Mod.scrub_due (m : Mod) (key n c : Nat) : (m.scrub key n).due c = (m.due c).scrub key n := by
  rw [Mod.due, Mod.onCore, Mod.scrub_core, Mod.due, Mod.onCore, Mod.scrub_setCore]

/-! ### SYSCALL -/

/-- The first word of the descriptor of gate `n` in the table of core `k`. -/
def Mod.gateD0 (m : Mod) (c n : Nat) (k : Core) : Nat := m.rd (loftKey c + k.gateBase + 16 * n) 8

/-- The number of arguments that a descriptor word gives. -/
def gateArgc (d0 : Nat) : Nat := d0 / 2 ^ 16 % 8

/-- Where the frame of gate `n` is written: below the stack pointer, the descriptor's for a caller at task level. -/
def Mod.gateFp (m : Mod) (c n : Nat) (k : Core) : Nat :=
  ((if k.cs.level then (k.gr 15).toNat else m.rd (loftKey c + k.gateBase + 16 * n + 8) 8) + 2 ^ 64 - 16) % 2 ^ 64

/-- Gate `n` lets core `k` pass: R95 finds no fault and nothing to wait for, as in `test_syscall`. -/
structure Mod.GateOpen (m : Mod) (c n : Nat) (k : Core) : Prop where
  above : k.kloft ≤ k.gateBase
  below : k.gateBase + 0x400 ≤ 0x400000
  clean : m.bad = []
  valid : m.gateD0 c n k / 2 ^ 63 % 2 = 1
  argc : gateArgc (m.gateD0 c n k) ≤ 6
  args : k.cs.level = true ∨ ∀ j, j < gateArgc (m.gateD0 c n k) → bits (m.gateD0 c n k / 2 ^ 19) j 1 = 1 →
    k.argIn (j + 1) (if j < 5 ∧ bits (m.gateD0 c n k / 2 ^ 25 % 32) j 1 = 1 then (k.gr (j + 2)).toNat else 1)
  aligned : m.gateFp c n k % 16 = 0
  inLoft : m.gateFp c n k < 0x400000
  frameFree : k.rtBlocks c false (m.gateFp c n k) 16 true = false
  tableFree : k.rtBlocks c false (k.gateBase + 16 * n) 16 false = false

/-- The frame of R95 at `key`: g15, and the caller's level with the address that follows. -/
def Mod.gateFrame (m : Mod) (key : Nat) (k : Core) : Mod :=
  (m.wr key 8 (k.gr 15).toNat).wr (key + 8) 8 (b2n k.cs.level * 65536 + (k.pc.toNat + 3) % 65536)

/-- Those of the argument registers `l` (from 0) that are not among the first `argc` are zeroed. -/
def Core.zeroArgs (argc : Nat) (l : List Nat) (k : Core) : Core := l.foldl (fun (x : Core) i => if argc < i + 1 then x.setG (i + 1) 0 else x) k

/-- Core `k` behind a gate with `argc` arguments and a frame at `fp`. -/
def Core.throughGate (k : Core) (argc fp : Nat) (level : Bool) : Core :=
  ((k.zeroArgs argc (List.range 6)).setG 15 (BitVec.ofNat 64 fp)).setCs { k.cs with level := level }

/-- Every pointer argument in the task's region passes the checks of R95. -/
theorem gateArg_none {k : Core} {ptr sized argc : Nat}
    (h : ∀ j, j < argc → bits ptr j 1 = 1 → k.argIn (j + 1) (if j < 5 ∧ bits sized j 1 = 1 then (k.gr (j + 2)).toNat else 1)) :
    gateArg k ptr sized argc = none := by
  rw [gateArg, List.findSome?_eq_none_iff]
  intro n hn
  obtain ⟨j, hj, rfl⟩ := List.mem_map.mp hn
  dsimp only
  rw [Nat.add_sub_cancel]
  split
  · next pointer =>
    have inRegion := h j (List.mem_range.mp hj) pointer
    simp only [Nat.add_one_le_iff]
    generalize (if j < 5 ∧ bits sized j 1 = 1 then (k.gr (j + 2)).toNat else 1) = len at inRegion ⊢
    obtain ⟨lo, hi, span⟩ := inRegion
    exact if_neg (by omega)
  · rfl

/-- Zeroing arguments writes their registers and cancels loads to them. -/
theorem Core.zeroArgs_frame (argc : Nat) : ∀ (l : List Nat) (k : Core), (k.zeroArgs argc l).sameFlow k ∧
    (k.loads = [] → (k.zeroArgs argc l).loads = []) ∧
    ∀ j, (k.zeroArgs argc l).gr j = if ∃ i ∈ l, argc ≤ i ∧ j = i + 1 then 0 else k.gr j := by
  intro l
  induction l with
  | nil => exact fun k => ⟨k.sameFlow_refl, id, fun j => by simp [Core.zeroArgs]⟩
  | cons i t ih =>
    intro k
    have first : k.zeroArgs argc (i :: t) = (if argc ≤ i then k.setG (i + 1) 0 else k).zeroArgs argc t := by
      simp only [Core.zeroArgs, List.foldl_cons, Nat.lt_succ_iff]
    rw [first]
    by_cases hi : argc ≤ i
    · obtain ⟨flow, noLoads, regs⟩ := ih (k.setG (i + 1) 0)
      rw [if_pos hi]
      refine ⟨Core.sameFlow_trans flow (k.sameFlow_setG _ _), fun h => noLoads (Core.loads_setG_nil h _ _), fun j => ?_⟩
      rw [regs, Core.gr_setG]
      simp only [List.mem_cons, exists_eq_or_imp, hi, true_and, ite_or]
      split_ifs <;> rfl
    · obtain ⟨flow, noLoads, regs⟩ := ih k
      rw [if_neg hi]
      refine ⟨flow, noLoads, fun j => ?_⟩
      rw [regs]
      simp only [List.mem_cons, exists_eq_or_imp, hi, false_and, false_or]

theorem Core.throughGate_cs (k : Core) (argc fp : Nat) (level : Bool) : (k.throughGate argc fp level).cs = { k.cs with level := level } :=
  Core.cs_setCs _ _

/-- Behind a gate g15 is the frame's address, and unused argument registers are zero. -/
theorem Core.throughGate_frame (k : Core) (argc fp : Nat) (level : Bool) : (k.throughGate argc fp level).sameFlow k ∧
    (k.loads = [] → (k.throughGate argc fp level).loads = []) ∧
    ∀ j, (k.throughGate argc fp level).gr j = if j = 15 then BitVec.ofNat 64 fp else if argc < j ∧ j ≤ 6 then 0 else k.gr j := by
  obtain ⟨flow, noLoads, regs⟩ := Core.zeroArgs_frame argc (List.range 6) k
  obtain ⟨set, setG, setLoads⟩ := ((k.zeroArgs argc (List.range 6)).setG 15 (BitVec.ofNat 64 fp)).setCs_frame { k.cs with level := level }
  have unused (j : Nat) : (∃ i ∈ List.range 6, argc ≤ i ∧ j = i + 1) ↔ argc < j ∧ j ≤ 6 := by
    simp only [List.mem_range]
    exact ⟨by omega, fun h => ⟨j - 1, by omega⟩⟩
  refine ⟨Core.sameFlow_trans set (Core.sameFlow_trans (Core.sameFlow_setG _ _ _) flow),
    fun h => setLoads.trans (Core.loads_setG_nil (noLoads h) _ _), fun j => ?_⟩
  rw [← if_congr (unused j) rfl rfl, ← regs, Core.gr, Core.throughGate, setG]
  exact Core.gr_setG _ _ _ j

/-- The two words of a frame read back, and every other byte stays. -/
theorem Mod.gateFrame_mem (m : Mod) (key : Nat) (k : Core) : (m.gateFrame key k).rd key 8 = (k.gr 15).toNat ∧
    (m.gateFrame key k).rd (key + 8) 8 = b2n k.cs.level * 65536 + (k.pc.toNat + 3) % 65536 ∧
    ∀ a, (a < key ∨ key + 16 ≤ a) → SMap.get 0 (m.gateFrame key k).mem a = SMap.get 0 m.mem a := by
  have level : b2n k.cs.level ≤ 1 := by unfold b2n; split <;> omega
  refine ⟨?_, ?_, fun a ha => ?_⟩
  · rw [Mod.gateFrame, Mod.rd_wr_below _ _ _ (Nat.le_refl _), Mod.rd_wr]
    exact Nat.mod_eq_of_lt (k.gr 15).isLt
  · rw [Mod.gateFrame, Mod.rd_wr]
    exact Nat.mod_eq_of_lt (by omega)
  · exact (get_wrBytes_ne 8 _ _ _ a (by omega)).trans (get_wrBytes_ne 8 _ _ _ a (by omega))

/-- An open gate: SYSCALL writes the frame and goes on behind the gate at its entry. -/
theorem exec_syscall_open {c n : Nat} {f : SysF} {s : State} (hc : isCore c = true) (h : s.mod.ready c 3 true true [1, 2, 3, 4, 5, 6, 15] = true)
    (legal : marked [f.a.toNat, f.b.toNat, f.c.toNat, f.imm.toNat / 64] = []) (hn : f.imm.toNat % 64 = n)
    (g : (s.mod.due c).GateOpen c n (s.mod.at c).commitCs) :
    let k := (s.mod.at c).commitCs
    let m := s.mod.due c
    let d0 := m.gateD0 c n k
    exec (.syscall c f) s = .next { s with mod := (((m.scrub (loftKey c + k.gateBase + 16 * n) 16).gateFrame (loftKey c + m.gateFp c n k) k).setCore c
      (k.throughGate (gateArgc d0) (m.gateFp c n k) (bits d0 30 1 == 1))).ends c ((s.mod.at c).pc + BitVec.ofNat 16 3) (BitVec.ofNat 16 d0) } := by
  obtain ⟨above, below, clean, valid, argc, args, aligned, inLoft, frameFree, tableFree⟩ := g
  dsimp only
  change execSyscall c f s = _
  rw [execSyscall, legal, onCoreOnly_ready hc h]
  dsimp only
  rw [hn]
  generalize (s.mod.at c).commitCs = k at *
  generalize s.mod.due c = m at *
  have valid : bits (m.gateD0 c n k) 63 1 ≠ 0 := by
    rw [show bits (m.gateD0 c n k) 63 1 = 1 from valid]
    decide
  have pointers : (if k.cs.level then none else gateArg k (bits (m.gateD0 c n k) 19 6) (bits (m.gateD0 c n k) 25 5) (gateArgc (m.gateD0 c n k))) = none := by
    rcases args with level | args
    · exact if_pos level
    · have inRegion : gateArg k (bits (m.gateD0 c n k) 19 6) (bits (m.gateD0 c n k) 25 5) (gateArgc (m.gateD0 c n k)) = none :=
        gateArg_none fun j hj pointer => args j hj ((bits_mod (n := 6) (by omega) _).symm.trans pointer)
      rw [inRegion, ite_self]
  have fp : ((if k.cs.level then (k.gr 15).toNat else m.rd (loftKey c + k.gateBase + 16 * n + 8) 8) + 2 ^ 64 - 16) % 2 ^ 64 = m.gateFp c n k := rfl
  have d0 : m.rd (loftKey c + k.gateBase + 16 * n) 8 = m.gateD0 c n k := rfl
  have nargs : bits (m.gateD0 c n k) 16 3 = gateArgc (m.gateD0 c n k) := rfl
  rw [if_neg (by omega), if_neg (by simp [tableFree]), Mod.firstBad_clean clean]
  dsimp only
  rw [Mod.scrub_rd, Mod.scrub_rd, fp, d0, nargs, if_neg valid, if_neg (by omega), pointers]
  dsimp only
  rw [if_neg (by omega), if_neg (by simp [frameFree])]
  rfl

/-! ### GRET -/

/-- GRET finds its frame at g15: aligned, in the Loft, free of errors and with nothing to wait for, as in `test_gret`. -/
structure Mod.FrameOpen (m : Mod) (c : Nat) (k : Core) : Prop where
  aligned : (k.gr 15).toNat % 16 = 0
  inLoft : (k.gr 15).toNat < 0x400000
  clean : m.bad = []
  free : k.rtBlocks c false (k.gr 15).toNat 16 false = false

/-- GRET takes g15, the level and the PC from the frame; at task level a frame of kernel level is a forgery, which raises PRIVILEGE SUB 3. -/
theorem exec_gret_open {c : Nat} {f : SysF} {s : State} (hc : isCore c = true) (h : s.mod.ready c 3 true true [15] = true)
    (legal : marked [f.a.toNat, f.b.toNat, f.c.toNat, f.imm.toNat] = []) (g : (s.mod.due c).FrameOpen c (s.mod.at c).commitCs) :
    let k := (s.mod.at c).commitCs
    let key := loftKey c + (k.gr 15).toNat
    let r := (s.mod.due c).rd (key + 8) 8
    ((k.cs.level = true ∨ r / 65536 % 2 = 0) → exec (.gret c f) s = .next (s.jumps c 3 (fun m _ => (m.scrub key 16).setCore c
      ((k.setG 15 (BitVec.ofNat 64 (m.rd key 8))).setCs { k.cs with level := decide (r / 65536 % 2 = 1) })) (BitVec.ofNat 16 r))) ∧
    (k.cs.level = false → r / 65536 % 2 = 1 → exec (.gret c f) s = .next ((s.upd (fun m => m.scrub (key + 8) 8)).traps c 3 3 0)) := by
  obtain ⟨aligned, inLoft, clean, free⟩ := g
  have bit (r : Nat) : bits r 16 1 = r / 65536 % 2 := rfl
  change (_ → execGret c f s = _) ∧ (_ → _ → execGret c f s = _)
  rw [execGret, legal, onCoreOnly_ready hc h]
  dsimp only
  rw [if_neg (by omega), if_neg (by simp [free]), Mod.firstBad_clean clean, Mod.firstBad_clean clean]
  dsimp only
  rw [bit]
  refine ⟨fun allowed => ?_, fun task kernel => ?_⟩
  · rw [if_neg (by rcases allowed with level | level <;> simp [level]), beq_eq_decide]
    rfl
  · rw [if_pos (by simp [task, kernel])]
    simp only [State.traps, State.upd, Mod.answers, Mod.at, Mod.scrub_due, Mod.onCore, Mod.scrub_core]

/-- Settles O15: the gate's frame is written and read back, and CS, the registers and the PC are those of its descriptor or frame. -/
theorem gates : Obligations.Gates := by
  unfold Obligations.Gates
  refine ⟨fun c f n s hc h ha hb hcc hn hlt => ?_, fun c f s hc h ha hb hcc hi => ?_⟩
  · intro k m key d0 nsp argc fp above below clean valid hargc args aligned inLoft frameFree tableFree
    have legal : marked [f.a.toNat, f.b.toNat, f.c.toNat, f.imm.toNat / 64] = [] := by
      rw [ha, hb, hcc, Nat.div_eq_of_lt (by omega)]
      rfl
    have entered := exec_syscall_open hc h legal (n := n) (by omega) ⟨above, below, clean, valid, hargc, args, aligned, inLoft, frameFree, tableFree⟩
    obtain ⟨flow, loads, regs⟩ := k.throughGate_frame argc fp (bits d0 30 1 == 1)
    obtain ⟨branch, ends⟩ := Core.sameFlow_straight (Core.sameFlow_trans flow (s.mod.at c).sameFlow_commitCs) (Mod.ready_straight h)
    obtain ⟨pc, cs, kept⟩ :=
      Mod.ends_jump (m := (m.scrub (key + k.gateBase + 16 * n) 16).gateFrame (key + fp) k) (c := c) branch ends (BitVec.ofNat 16 d0)
    obtain ⟨g15, caller, elsewhere⟩ := Mod.gateFrame_mem (m.scrub (key + k.gateBase + 16 * n) 16) (key + fp) k
    refine ⟨_, entered, pc, ?_, fun noLoads => ?_, ?_, ?_, fun a ha => ?_⟩
    · exact (congrArg Cs.level (cs.trans (k.throughGate_cs argc fp _))).trans (beq_eq_decide _ _)
    · have after (j : Nat) := (kept (loads noLoads) j).trans (regs j)
      refine ⟨(after 15).trans (if_pos rfl), fun j hj unused => ?_, fun j h1 hj => ?_⟩
      · exact (after (j + 1)).trans (by rw [if_neg (by omega), if_pos (by omega)])
      · exact (after j).trans (by rw [if_neg (by omega), if_neg (by omega)])
    · exact (Mod.ends_rd _ _ _ _ _ _).trans g15
    · exact (Mod.ends_rd _ _ _ _ _ _).trans caller
    · exact (congrArg (SMap.get 0 · a) (Mod.ends_mem _ _ _ _)).trans ((elsewhere a ha).trans (congrArg (SMap.get 0 · a) (Mod.scrub_mem _ _ _)))
  · intro k m fp r aligned inLoft clean free
    have legal : marked [f.a.toNat, f.b.toNat, f.c.toNat, f.imm.toNat] = [] := by
      rw [ha, hb, hcc, hi]
      rfl
    obtain ⟨leaves, forged⟩ := exec_gret_open hc h legal ⟨aligned, inLoft, clean, free⟩
    exact ⟨leaves, forged⟩

end Sys2Proof.Machine
end

section
/-! Bytes, writes of Loft and the pieces of a span (R195). -/

namespace Sys2Proof.Machine

/-! ### Bytes of a number -/

/-- Byte `j` of a number. -/
def byteOf (d j : Nat) : Byte := BitVec.ofNat 8 (d / 256 ^ j)

theorem getLsbD_byteOf (d j i : Nat) : (byteOf d j).getLsbD i = (decide (i < 8) && d.testBit (8 * j + i)) := by
  rw [byteOf, BitVec.getLsbD_ofNat, show 256 ^ j = 2 ^ (8 * j) by rw [Nat.pow_mul], Nat.testBit_div_two_pow, Nat.add_comm]

/-- Numbers that agree in the bits of a byte agree in the byte. -/
theorem byteOf_congr {d e j k : Nat} (h : ∀ i, i < 8 → d.testBit (8 * j + i) = e.testBit (8 * k + i)) : byteOf d j = byteOf e k := by
  refine BitVec.eq_of_getLsbD_eq fun i hi => ?_
  rw [getLsbD_byteOf, getLsbD_byteOf, h i hi]

/-- A byte of a field that begins and ends at bytes. -/
theorem byteOf_bits {lo w j off n : Nat} (d : Nat) (hj : j < n) (hlo : lo = 8 * off) (hw : w = 8 * n) :
    byteOf (bits d lo w) j = byteOf d (off + j) := by
  refine byteOf_congr fun i hi => ?_
  rw [testBit_bits, decide_eq_true (by omega), Bool.true_and, show lo + (8 * j + i) = 8 * (off + j) + i by omega]

theorem maskBits_length (n : Nat) : ∀ x, (maskBits n x).length = n := by
  induction n with
  | zero => exact fun _ => rfl
  | succ n ih => exact fun x => congrArg (· + 1) (ih (x / 2))

theorem get_wrMasked_maskBits (n : Nat) : ∀ (m : SMap Byte) (x v a j : Nat), j < n →
    SMap.get 0 (wrMasked m a (maskBits n x) v) (a + j) = if x.testBit j then byteOf v j else SMap.get 0 m (a + j) := by
  induction n with
  | zero => intro m x v a j h; omega
  | succ n ih =>
    intro m x v a j h
    rw [maskBits, wrMasked]
    cases j with
    | zero =>
      rw [get_wrMasked_ne _ _ _ _ _ (by omega), Nat.testBit_zero, byteOf, Nat.pow_zero, Nat.div_one]
      by_cases odd : x % 2 = 1
      · simp [odd]
      · simp [odd]
    | succ j =>
      rw [show a + (j + 1) = a + 1 + j by omega, ih _ _ _ _ _ (by omega), Nat.testBit_div_two, byteOf, byteOf, Nat.div_div_eq_div_mul,
        Nat.pow_succ, Nat.mul_comm 256]
      congr 1
      split
      · exact SMap.get_put_ne 0 m _ (by omega)
      · rfl

/-! ### Writes of own Loft -/

/-- `t` has the cores of `m` and, like it, no word in error. -/
def Mod.SameCores (t m : Mod) : Prop := t.cores = m.cores ∧ (m.bad = [] → t.bad = [])

theorem Mod.sameCores_refl (m : Mod) : m.SameCores m := ⟨rfl, id⟩

theorem Mod.sameCores_trans {t u m : Mod} (h : t.SameCores u) (g : u.SameCores m) : t.SameCores m := ⟨h.1.trans g.1, h.2 ∘ g.2⟩

theorem Mod.core_sameCores {t m : Mod} (h : t.SameCores m) (c : Nat) : t.core c = m.core c := by rw [Mod.core, h.1, Mod.core]

/-- Correcting single-bit errors writes their list and the counter (R195). -/
theorem Mod.sameCores_scrub (m : Mod) (key n : Nat) : (m.scrub key n).SameCores m := by
  unfold Mod.scrub
  dsimp only
  split
  · exact m.sameCores_refl
  · exact ⟨rfl, id⟩

/-- A masked write of one bank word that holds no error (R195). -/
theorem Mod.loftWord_clean {m : Mod} (clean : m.bad = []) (key data : Nat) {mask : Nat} (small : mask < 2 ^ 8) :
    (m.loftWord key mask data).2 = none ∧ (m.loftWord key mask data).1.SameCores m ∧
      ∀ a, SMap.get 0 (m.loftWord key mask data).1.mem a =
        if key ≤ a ∧ a < key + 8 ∧ mask.testBit (a - key) then byteOf data (a - key) else SMap.get 0 m.mem a := by
  unfold Mod.loftWord
  split
  · next h => subst h; exact ⟨rfl, m.sameCores_refl, fun a => by simp⟩
  · split
    · next h =>
      subst h
      refine ⟨rfl, ⟨rfl, fun h => by simp [Mod.wr, h]⟩, fun a => ?_⟩
      by_cases inside : key ≤ a ∧ a < key + 8
      · obtain ⟨j, rfl⟩ := Nat.exists_eq_add_of_le inside.1
        have hj : j < 8 := by omega
        have bit : Nat.testBit 255 j = true := (Nat.testBit_two_pow_sub_one 8 j).trans (decide_eq_true hj)
        rw [Nat.add_sub_cancel_left, if_pos ⟨inside.1, inside.2, bit⟩]
        exact get_wrBytes 8 m.mem key data j hj
      · rw [if_neg (fun h => inside ⟨h.1, h.2.1⟩)]
        exact get_wrBytes_ne 8 m.mem key data a (by omega)
    · rw [clean]
      refine ⟨rfl, (m.sameCores_scrub key 8).imp id id, fun a => ?_⟩
      change SMap.get 0 (wrMasked (m.scrub key 8).mem key (maskBits 8 mask) data) a = _
      rw [Mod.scrub_mem]
      by_cases inside : key ≤ a ∧ a < key + 8
      · obtain ⟨j, rfl⟩ := Nat.exists_eq_add_of_le inside.1
        rw [get_wrMasked_maskBits 8 _ _ _ _ _ (by omega), Nat.add_sub_cancel_left]
        simp only [inside, true_and]
      · rw [if_neg (fun h => inside ⟨h.1, h.2.1⟩)]
        exact get_wrMasked_ne _ _ _ _ _ (by rw [maskBits_length]; omega)

/-- One bank word of a write of Loft, as `Mod.loftWrite` goes through them: bank word `i` from `base`. -/
def loftStep (base mk dt : Nat) (r : Mod × List Nat) (i : Nat) : Mod × List Nat :=
  let x := r.1.loftWord (base + 8 * i) (bits mk (8 * i) 8) (bits dt (64 * i) 64)
  (x.1, match x.2 with | some b => r.2 ++ [b] | none => r.2)

theorem Mod.loftWrite_eq (m : Mod) (key n mask data : Nat) : m.loftWrite key n mask data =
    (List.range ((key % 8 + n + 7) / 8)).foldl (loftStep (key / 8 * 8) (mask % 2 ^ n * 2 ^ (key % 8)) (data * 2 ^ (8 * (key % 8)))) (m, []) := rfl

theorem loftSteps_clean {m : Mod} (clean : m.bad = []) (base mk dt : Nat) : ∀ w,
    let r := (List.range w).foldl (loftStep base mk dt) (m, [])
    r.2 = [] ∧ r.1.SameCores m ∧ ∀ a, SMap.get 0 r.1.mem a =
      if base ≤ a ∧ a < base + 8 * w ∧ mk.testBit (a - base) then byteOf dt (a - base) else SMap.get 0 m.mem a := by
  intro w
  induction w with
  | zero => exact ⟨rfl, m.sameCores_refl, fun a => by rw [if_neg (by omega)]; rfl⟩
  | succ w ih =>
    rw [List.range_succ, List.foldl_append, List.foldl_cons, List.foldl_nil]
    generalize (List.range w).foldl (loftStep base mk dt) (m, []) = r at ih ⊢
    obtain ⟨none_bad, same, read⟩ := ih
    obtain ⟨stored, same', read'⟩ := Mod.loftWord_clean (same.2 clean) (base + 8 * w) (bits dt (64 * w) 64) (bits_lt mk (8 * w) 8)
    unfold loftStep
    dsimp only
    refine ⟨by rw [stored]; exact none_bad, Mod.sameCores_trans same' same, fun a => ?_⟩
    rw [read' a]
    by_cases here : base + 8 * w ≤ a ∧ a < base + 8 * w + 8
    · obtain ⟨j, rfl⟩ := Nat.exists_eq_add_of_le here.1
      have hj : j < 8 := by omega
      rw [read, Nat.add_sub_cancel_left, testBit_bits, byteOf_bits dt hj (by omega : 64 * w = 8 * (8 * w)) rfl,
        show base + 8 * w + j - base = 8 * w + j by omega, decide_eq_true hj, Bool.true_and, if_neg (c := base ≤ _ ∧ _) (by omega)]
      exact if_congr (by simp only [here, true_and, show base ≤ base + 8 * w + j ∧ base + 8 * w + j < base + 8 * (w + 1) by omega]) rfl rfl
    · rw [if_neg (fun h => here ⟨h.1, h.2.1⟩), read]
      exact if_congr ⟨fun h => ⟨h.1, by omega, h.2.2⟩, fun h => ⟨h.1, by omega, h.2.2⟩⟩ rfl rfl

/-- A write of `n` whole bytes to Loft that holds no error (R195). -/
theorem Mod.loftWrite_clean {m : Mod} (clean : m.bad = []) (key n data : Nat) :
    (m.loftWrite key n (byteMask n) data).2 = [] ∧ (m.loftWrite key n (byteMask n) data).1.SameCores m ∧
      ∀ a, SMap.get 0 (m.loftWrite key n (byteMask n) data).1.mem a =
        if key ≤ a ∧ a < key + n then byteOf data (a - key) else SMap.get 0 m.mem a := by
  rw [Mod.loftWrite_eq]
  obtain ⟨none_bad, same, read⟩ := loftSteps_clean clean (key / 8 * 8) (byteMask n % 2 ^ n * 2 ^ (key % 8)) (data * 2 ^ (8 * (key % 8)))
    ((key % 8 + n + 7) / 8)
  refine ⟨none_bad, same, fun a => ?_⟩
  rw [read]
  have enabled : (byteMask n % 2 ^ n * 2 ^ (key % 8)).testBit (a - key / 8 * 8) = true ↔
      key % 8 ≤ a - key / 8 * 8 ∧ a - key / 8 * 8 - key % 8 < n := by
    rw [Nat.testBit_mul_two_pow, Nat.testBit_mod_two_pow, byteMask, Nat.testBit_two_pow_sub_one]
    simp
  by_cases inside : key ≤ a ∧ a < key + n
  · rw [if_pos inside, if_pos ⟨by omega, by omega, enabled.mpr (by omega)⟩]
    refine byteOf_congr fun i hi => ?_
    rw [Nat.testBit_mul_two_pow, decide_eq_true (by omega), Bool.true_and,
      show 8 * (a - key / 8 * 8) + i - 8 * (key % 8) = 8 * (a - key) + i by omega]
  · rw [if_neg inside, if_neg fun h => inside (by have := enabled.mp h.2.2; omega)]

/-! ### The pieces of a span -/

/-- Bytes read one range after another. -/
theorem rdBytes_append (m : SMap Byte) (n k : Nat) : ∀ a, rdBytes m a (n + k) = rdBytes m a n + rdBytes m (a + n) k * 2 ^ (8 * n) := by
  induction n with
  | zero => intro a; rw [Nat.zero_add, rdBytes]; simp
  | succ n ih =>
    intro a
    rw [Nat.succ_add, rdBytes, rdBytes, ih (a + 1), show a + 1 + n = a + (n + 1) by omega, Nat.mul_add 8 n 1, Nat.pow_add]
    ring

/-- The pieces `l` of a span at `ea` cover its bytes from `off` to `n`, in order and without gaps. -/
def Covers (ea n : Nat) : Nat → List (Nat × Nat × Nat) → Prop
  | off, [] => off = n
  | off, p :: t => p.1 = ea + off ∧ p.2.2 = off ∧ 0 < p.2.1 ∧ Covers ea n (off + p.2.1) t

theorem Covers.le {ea n : Nat} : ∀ {l : List (Nat × Nat × Nat)} {off : Nat}, Covers ea n off l → off ≤ n
  | [], _, h => Nat.le_of_eq h
  | _ :: _, _, ⟨_, _, _, h⟩ => Nat.le_trans (Nat.le_add_right _ _) h.le

theorem Covers.concat {ea n len : Nat} (pos : 0 < len) : ∀ {l : List (Nat × Nat × Nat)} {off : Nat}, Covers ea n off l →
    Covers ea (n + len) off (l ++ [(ea + n, len, n)])
  | [], _, h => by cases h; exact ⟨rfl, rfl, pos, rfl⟩
  | _ :: _, _, ⟨at_, start, held, rest⟩ => ⟨at_, start, held, rest.concat pos⟩

/-- Every piece lies in its span. -/
theorem Covers.mem_le {ea n : Nat} : ∀ {l : List (Nat × Nat × Nat)} {off : Nat}, Covers ea n off l → ∀ p ∈ l, ea ≤ p.1 ∧ p.1 < ea + n
  | q :: t, off, ⟨at_, start, pos, rest⟩, p, hp => by
    rcases List.mem_cons.mp hp with rfl | hp
    · have := rest.le
      omega
    · exact rest.mem_le p hp

/-- The bytes of a span of `n` at `ea` that its first `w` granules hold. -/
def covered (ea n w : Nat) : Nat := min n (64 * (ea / 64 + w) - ea)

/-- The part of a span that its granule `i` holds, as `pieces` gives it. -/
def granulePiece (ea n i : Nat) : Nat × Nat × Nat :=
  let lo := Nat.max ea ((ea / 64 + i) * 64)
  let hi := Nat.min (ea + n) ((ea / 64 + i) * 64 + 64)
  (lo % 2 ^ 64, hi - lo, lo - ea)

theorem granulePiece_len (ea n i : Nat) : (granulePiece ea n i).2.1 = covered ea n (i + 1) - covered ea n i := by
  change min (ea + n) ((ea / 64 + i) * 64 + 64) - max ea ((ea / 64 + i) * 64) = _
  unfold covered
  omega

theorem granulePiece_eq {ea n i : Nat} (h : ea + n ≤ 2 ^ 64) (pos : 0 < (granulePiece ea n i).2.1) :
    granulePiece ea n i = (ea + covered ea n i, covered ea n (i + 1) - covered ea n i, covered ea n i) := by
  have len := granulePiece_len ea n i
  rw [len] at pos
  unfold covered at pos
  have start : max ea ((ea / 64 + i) * 64) = ea + covered ea n i := by
    unfold covered
    omega
  refine Prod.ext ?_ (Prod.ext len ?_)
  · change max ea ((ea / 64 + i) * 64) % 2 ^ 64 = _
    rw [start, Nat.mod_eq_of_lt (by unfold covered; omega)]
  · change max ea ((ea / 64 + i) * 64) - ea = _
    rw [start, Nat.add_sub_cancel_left]

/-- The pieces that `pieces` makes of a span below 2^64 cover it. -/
theorem pieces_covers {ea n : Nat} (h : ea + n ≤ 2 ^ 64) : Covers ea n 0 (pieces ea n) := by
  have upTo (w : Nat) : Covers ea (covered ea n w) 0 (((List.range w).map (granulePiece ea n)).filter (fun p => p.2.1 != 0)) := by
    induction w with
    | zero => exact (by unfold covered; omega : 0 = covered ea n 0)
    | succ w ih =>
      have grows : covered ea n w ≤ covered ea n (w + 1) := by
        unfold covered
        omega
      rw [List.range_succ, List.map_append, List.filter_append, List.map_singleton]
      rcases Nat.eq_zero_or_pos (granulePiece ea n w).2.1 with empty | pos
      · rw [List.filter_cons_of_neg (by simp [empty]), List.filter_nil, List.append_nil]
        rw [granulePiece_len] at empty
        rwa [show covered ea n (w + 1) = covered ea n w by omega]
      · rw [List.filter_cons_of_pos (by simp; omega), List.filter_nil, granulePiece_eq h pos]
        rw [granulePiece_len] at pos
        have longer := ih.concat pos
        rwa [Nat.add_sub_cancel' grows] at longer
  have whole := upTo ((ea % 64 + n + 63) / 64)
  rwa [show covered ea n ((ea % 64 + n + 63) / 64) = n by unfold covered; omega] at whole

end Sys2Proof.Machine
end

section
/-! What far reads that begin leave of memory and of a core, and reads of own Loft that none of them makes wait (R156, R196). -/

namespace Sys2Proof.Machine

/-! ### What the far reads of a core leave -/

theorem Mod.raiseVector_outside (m : Mod) (v : Nat) : ∃ r o p, m.raiseVector v = { m with regs := r, out := o, pba := p } := by
  unfold Mod.raiseVector Mod.sendVector
  split
  · exact ⟨m.regs, m.out, _, rfl⟩
  · obtain ⟨r, e⟩ := Mod.tlp_regs m (Out.msix v (SMap.get 0 m.msixTab (3 * v)).toNat (SMap.get 0 m.msixTab (3 * v + 1)).toNat)
    exact ⟨r, _, m.pba, e⟩

theorem Mod.irq_outside (m : Mod) (die page bit : Nat) : ∃ r o p, m.irq die page bit = { m with regs := r, out := o, pba := p } := by
  unfold Mod.irq Mod.vectorEdge
  split
  · exact ⟨_, m.out, m.pba, rfl⟩
  · split
    · exact ⟨_, m.out, m.pba, rfl⟩
    · obtain ⟨r, o, p, e⟩ := Mod.raiseVector_outside (m.orReg die page 0x020 (2 ^ bit)) _
      exact ⟨r, o, p, e⟩

/-- Recording an error reaches registers and, through MSI-X, what leaves the module. -/
theorem Mod.err_outside (m : Mod) (die page bit q detail addr : Nat) :
    ∃ r o p, m.err die page bit q detail addr = { m with regs := r, out := o, pba := p } := by
  have recorded (a b c d : Nat) (x : Prop) [Decidable x] :
      ∃ r, (if x then ((m.setReg die page 0x038 a).setReg die page 0x040 b).setReg die page 0x048 c
      else m.setReg die page 0x038 d) = { m with regs := r } := by
    split <;> exact ⟨_, rfl⟩
  unfold Mod.err
  dsimp only
  obtain ⟨r, e⟩ := recorded (m.reg die page 0x038 ||| 2 ^ bit) (bit * 2 ^ 48 + q % 65536 * 2 ^ 32 + detail % 2 ^ 32) (addr % 2 ^ 44)
    (m.reg die page 0x038 ||| 2 ^ bit ||| 4) (m.reg die page 0x038 % 4 = 0 ∧ m.reg die page 0x038 / 8 = 0)
  rw [e]
  split
  · split
    · exact Mod.irq_outside { m with regs := r } die page _
    · exact ⟨r, m.out, m.pba, rfl⟩
  · exact ⟨r, m.out, m.pba, rfl⟩

/-- `t` has the memory and the cores of `m`. -/
def Mod.SameState (t m : Mod) : Prop := t.mem = m.mem ∧ t.bad = m.bad ∧ t.cores = m.cores

/-- A request that is put into flight changes the network, and what the error of an unpopulated address reaches. -/
theorem Mod.sameState_post (m : Mod) (use : Use) (q die mpa len : Nat) (op : Op) : (m.post use q die mpa len op).SameState m := by
  have unpopulated (b : Bool) : (if b then m.errUnpopulated q die mpa else m).SameState m := by
    unfold Mod.errUnpopulated
    split
    · split
      · exact ⟨rfl, rfl, rfl⟩
      · obtain ⟨r, o, p, e⟩ := Mod.err_outside m die (stewardPage die) 0 q 0 mpa
        rw [e]
        exact ⟨rfl, rfl, rfl⟩
    · exact ⟨rfl, rfl, rfl⟩
  have counted (b : Bool) (x : Mod) : (if b then x.laneCount q else x).SameState x := by split <;> exact ⟨rfl, rfl, rfl⟩
  obtain ⟨mem, bad, cores⟩ := unpopulated (decide (decodeMpa mpa = .none))
  exact ⟨(counted _ _).1.trans mem, (counted _ _).2.1.trans bad, (counted _ _).2.2.trans cores⟩

theorem Mod.sameState_coreEv (m : Mod) (c ev n : Nat) : (m.coreEv c ev n).SameState m := by
  obtain ⟨⟨r, e⟩, -⟩ := m.coreEv_frame c ev n
  rw [e]
  exact ⟨rfl, rfl, rfl⟩

theorem Mod.core_sameState {t m : Mod} (h : t.SameState m) (c : Nat) : t.core c = m.core c := by
  obtain ⟨-, -, cores⟩ := h
  rw [Mod.core, cores, Mod.core]

/-- No entry of the range tracker, and no far read of the instruction at issue: nothing makes an access to own Loft wait. -/
def Core.Unhindered (k : Core) : Prop := k.rt = [] ∧ ∀ p ∈ k.pieces, p.own ≠ 0

/-- What a TLD leaves of core `k`, which has become `u`, while it writes the tile storage rows `T`. -/
structure Core.KeepsBut (T : Nat → Prop) (u k : Core) : Prop where
  acc : u.acc = k.acc
  tag : u.tag = k.tag
  regs : k.loads = [] → u.g = k.g ∧ u.loads = []
  unhindered : k.Unhindered → u.Unhindered
  tiles : ∀ j, ¬ T j → SMap.get 0 u.tiles j = SMap.get 0 k.tiles j

/-- The same of the module, with memory and its errors. -/
structure Mod.KeepsBut (c : Nat) (T : Nat → Prop) (t m : Mod) : Prop where
  mem : t.mem = m.mem
  bad : t.bad = m.bad
  core : (t.core c).KeepsBut T (m.core c)

section
variable {T : Nat → Prop} {c : Nat}

theorem Core.KeepsBut.refl (k : Core) : k.KeepsBut T k := ⟨rfl, rfl, fun h => ⟨rfl, h⟩, id, fun _ _ => rfl⟩

theorem Core.KeepsBut.trans {u v k : Core} (h : u.KeepsBut T v) (g : v.KeepsBut T k) : u.KeepsBut T k where
  acc := h.acc.trans g.acc
  tag := h.tag.trans g.tag
  regs := fun idle => by
    obtain ⟨same, idle'⟩ := g.regs idle
    obtain ⟨same', idle''⟩ := h.regs idle'
    exact ⟨same'.trans same, idle''⟩
  unhindered := h.unhindered ∘ g.unhindered
  tiles := fun j hj => (h.tiles j hj).trans (g.tiles j hj)

theorem Core.KeepsBut.mono {S : Nat → Prop} {u k : Core} (h : u.KeepsBut S k) (sub : ∀ j, S j → T j) : u.KeepsBut T k :=
  ⟨h.acc, h.tag, h.regs, h.unhindered, fun j hj => h.tiles j fun hs => hj (sub j hs)⟩

theorem Mod.KeepsBut.refl (m : Mod) : m.KeepsBut c T m := ⟨rfl, rfl, .refl _⟩

theorem Mod.KeepsBut.trans {t u m : Mod} (h : t.KeepsBut c T u) (g : u.KeepsBut c T m) : t.KeepsBut c T m :=
  ⟨h.mem.trans g.mem, h.bad.trans g.bad, h.core.trans g.core⟩

theorem Mod.KeepsBut.mono {S : Nat → Prop} {t m : Mod} (h : t.KeepsBut c S m) (sub : ∀ j, S j → T j) : t.KeepsBut c T m :=
  ⟨h.mem, h.bad, h.core.mono sub⟩

/-- A change outside memory and the cores. -/
theorem Mod.keepsBut_of_sameState {t m : Mod} (h : t.SameState m) : t.KeepsBut c T m := by
  obtain ⟨mem, bad, -⟩ := id h
  exact ⟨mem, bad, core_sameState h c ▸ .refl _⟩

theorem Mod.keepsBut_onCore {m : Mod} {f : Core → Core} (h : (f (m.core c)).KeepsBut T (m.core c)) : (m.onCore c f).KeepsBut c T m := by
  refine ⟨rfl, rfl, ?_⟩
  rw [Mod.onCore, Mod.core_setCore]
  exact h

theorem Mod.keepsBut_post (m : Mod) (use : Use) (q die mpa len : Nat) (op : Op) : (m.post use q die mpa len op).KeepsBut c T m :=
  keepsBut_of_sameState (m.sameState_post use q die mpa len op)

theorem Mod.keepsBut_coreEv (m : Mod) (c' ev n : Nat) : (m.coreEv c' ev n).KeepsBut c T m :=
  keepsBut_of_sameState (m.sameState_coreEv c' ev n)

theorem Mod.keepsBut_scrub (m : Mod) (key n : Nat) : (m.scrub key n).KeepsBut c T m := by
  unfold Mod.scrub
  dsimp only
  split
  · exact .refl m
  · exact keepsBut_of_sameState ⟨rfl, rfl, rfl⟩

theorem Mod.keepsBut_satFld (m : Mod) (die page off lo w n : Nat) : (m.satFld die page off lo w n).KeepsBut c T m :=
  keepsBut_of_sameState ⟨rfl, rfl, rfl⟩

theorem Mod.keepsBut_cribCheck (m : Mod) (line : Nat) : (m.cribCheck c line).KeepsBut c T m := by
  unfold Mod.cribCheck
  dsimp only
  split
  · have dropped : (m.onCore c fun k => { k with crib := k.crib.filter (fun l => !(l.line == line && l.bad)) }).KeepsBut c T m :=
      keepsBut_onCore ⟨rfl, rfl, fun h => ⟨rfl, h⟩, id, fun _ _ => rfl⟩
    exact (keepsBut_satFld _ _ _ _ _ _ _).trans dropped
  · exact .refl m

theorem Mod.keepsBut_cribCount (m : Mod) (hit : Bool) : (m.cribCount c hit).KeepsBut c T m := by
  unfold Mod.cribCount
  split <;> exact (keepsBut_coreEv _ _ _ _).trans (keepsBut_of_sameState ⟨rfl, rfl, rfl⟩)

theorem Mod.keepsBut_startFill (m : Mod) (line : Nat) : (m.startFill c line).KeepsBut c T m :=
  (keepsBut_post _ _ _ _ _ _ _).trans ((keepsBut_post _ _ _ _ _ _ _).trans
    (keepsBut_onCore (f := fun k => { k with fills := _ }) ⟨rfl, rfl, fun h => ⟨rfl, h⟩, id, fun _ _ => rfl⟩))

/-- A far read that begins stays a far read of the same instruction. -/
theorem Mod.beginPiece_keeps (m : Mod) (p : Piece) : (m.beginPiece c p).1.KeepsBut c T m ∧ (m.beginPiece c p).2.own = p.own := by
  have checked := m.keepsBut_cribCheck (c := c) (T := T) (p.mpa / 128)
  unfold Mod.beginPiece
  split
  · exact ⟨.refl m, rfl⟩
  · split
    · dsimp only
      split
      · exact ⟨(keepsBut_cribCount _ true).trans checked, rfl⟩
      · split
        · split
          · exact ⟨(keepsBut_cribCount _ false).trans checked, rfl⟩
          · exact ⟨checked, rfl⟩
        · split
          · exact ⟨checked, rfl⟩
          · exact ⟨(keepsBut_startFill _ _).trans ((keepsBut_cribCount _ _).trans checked), rfl⟩
    · split
      · exact ⟨.refl m, rfl⟩
      · exact ⟨keepsBut_post _ _ _ _ _ _ _, rfl⟩

theorem pumpList_keeps : ∀ (l : List Piece) (m : Mod), (pumpList c l m).2.KeepsBut c T m ∧ (pumpList c l m).1.map Piece.own = l.map Piece.own
  | [], m => ⟨.refl m, rfl⟩
  | p :: t, m => by
    obtain ⟨one, own⟩ := m.beginPiece_keeps (c := c) (T := T) p
    obtain ⟨rest, owns⟩ := pumpList_keeps t (m.beginPiece c p).1
    exact ⟨rest.trans one, congrArg₂ List.cons own owns⟩

theorem Mod.keepsBut_regPump (m : Mod) : (m.regPump c).KeepsBut c T m := by
  unfold Mod.regPump
  split
  · exact .refl m
  · split
    · exact .refl m
    · exact (keepsBut_post _ _ _ _ _ _ _).trans
        (keepsBut_onCore (f := fun k => { k with regQ := _ }) ⟨rfl, rfl, fun h => ⟨rfl, h⟩, id, fun _ _ => rfl⟩)

/-- Vector loads that take their answers end their own far reads, and write vector registers. -/
theorem Core.keepsBut_settleV (k : Core) : k.settleV.KeepsBut T k := by
  unfold Core.settleV
  dsimp only
  obtain ⟨v, l, r, e⟩ := matureVLoads_frame (k.vloads.map (fun l => l.settle k.pieces)) []
    { k with vloads := [], pieces := k.pieces.filter (fun p =>
      p.own == 0 || (k.vloads.map (fun l => l.settle k.pieces)).any (fun l => l.id == p.own && !l.done)) }
  rw [e]
  exact ⟨rfl, rfl, fun h => ⟨rfl, h⟩, fun h => ⟨h.1, fun p hp => h.2 p (List.mem_filter.mp hp).1⟩, fun _ _ => rfl⟩

/-- Far reads that begin where they can leave what a TLD of own Loft depends on. -/
theorem Mod.keepsBut_pump (m : Mod) : (m.pump c).KeepsBut c T m := by
  unfold Mod.pump
  dsimp only
  obtain ⟨listed, owns⟩ := pumpList_keeps (c := c) (T := T) (m.core c).pieces m
  generalize pumpList c (m.core c).pieces m = r at listed owns ⊢
  refine (keepsBut_regPump _).trans ⟨listed.mem, listed.bad, ?_⟩
  rw [Mod.onCore, Mod.core_setCore]
  refine (Core.keepsBut_settleV _).trans ⟨listed.core.acc, listed.core.tag, listed.core.regs, fun h => ?_, listed.core.tiles⟩
  refine ⟨(listed.core.unhindered h).1, fun p hp => ?_⟩
  have owner : p.own ∈ (m.core c).pieces.map Piece.own := owns ▸ List.mem_map_of_mem hp
  obtain ⟨q, hq, e⟩ := List.mem_map.mp owner
  exact e ▸ h.2 q hq

end

/-! ### Spans of own Loft -/

section
variable {c : Nat}

theorem Core.pieceAt_none {k : Core} (h : k.Unhindered) (ea n : Nat) : k.pieceAt ea n = none := by
  rw [Core.pieceAt, List.find?_eq_none]
  intro p hp
  simp [h.2 p hp]

theorem Core.place_own (k : Core) {ea : Nat} (h : ea < 0x400000) (store : Bool) (sub : Nat) : k.place ea store sub = .own ea := if_pos h

theorem Core.rtBlocks_free {k : Core} (h : k.rt = []) (c : Nat) (far : Bool) (a n : Nat) (write : Bool) : k.rtBlocks c far a n write = false := by
  simp [Core.rtBlocks, h]

theorem Mod.badWords_clean {m : Mod} (clean : m.bad = []) (key n : Nat) : m.badWords key n = [] := by
  unfold Mod.badWords
  split
  · rfl
  · rw [clean, List.filter_eq_nil_iff]
    exact fun a _ => Bool.false_ne_true

theorem Mod.rdClean_clean {m : Mod} (clean : m.bad = []) (key n : Nat) : m.rdClean key n = m.rd key n := by simp [Mod.rdClean, Mod.wordsOk, clean]

/-- A span of own Loft asks for no far read. -/
theorem wantPieces_own : ∀ {l : List (Nat × Nat × Nat)} {m : Mod}, (m.core c).Unhindered → (∀ p ∈ l, p.1 < 0x400000) → wantPieces c l m = (none, m)
  | [], _, _, _ => rfl
  | p :: t, m, free, own => by
    rw [wantPieces]
    dsimp only
    rw [Core.pieceAt_none free, Core.place_own _ (own p List.mem_cons_self)]
    exact wantPieces_own free fun q hq => own q (List.mem_cons_of_mem p hq)

/-- What is left to read of a span of own Loft, behind the bytes that `r` holds. -/
theorem readPieces_own {ea n : Nat} : ∀ {l : List (Nat × Nat × Nat)} {off : Nat} {m : Mod} (r : SpanRead), Covers ea n off l →
    (m.core c).Unhindered → m.bad = [] → (∀ p ∈ l, p.1 < 0x400000) →
    ∃ t, readPieces c l m r = ({ r with data := r.data + m.rd (loftKey c + ea + off) (n - off) * 2 ^ (8 * off) }, t) ∧ t.KeepsBut c (fun _ => False) m
  | [], off, m, r, covers, _, _, _ => by
    cases covers
    refine ⟨m, ?_, .refl m⟩
    rw [Nat.sub_self, Mod.rd, rdBytes, Nat.zero_mul]
    rfl
  | (a, len, o) :: l, off, m, r, ⟨at_, start, _, rest⟩, free, clean, own => by
    dsimp only at at_ start rest
    subst at_ start
    have scrubbed := m.keepsBut_scrub (c := c) (T := fun _ => False) (loftKey c + (ea + o)) len
    obtain ⟨t, read, kept⟩ := readPieces_own
      { r with data := r.data + m.rdClean (loftKey c + (ea + o)) len * 2 ^ (8 * o), bad := r.bad ++ m.badWords (loftKey c + (ea + o)) len }
      rest (scrubbed.core.unhindered free) (scrubbed.bad.trans clean) fun q hq => own q (List.mem_cons_of_mem _ hq)
    refine ⟨t, ?_, kept.trans scrubbed⟩
    rw [readPieces]
    dsimp only
    rw [Core.pieceAt_none free, Core.place_own _ (own _ List.mem_cons_self)]
    dsimp only
    rw [Core.rtBlocks_free free.1, if_neg Bool.false_ne_true, read, Mod.badWords_clean clean, List.append_nil, Mod.rdClean_clean clean, Mod.scrub_rd]
    have whole := rdBytes_append m.mem len (n - (o + len)) (loftKey c + (ea + o))
    have := rest.le
    rw [show len + (n - (o + len)) = n - o by omega] at whole
    congr 2
    rw [Nat.add_assoc (loftKey c) ea o, Mod.rd, Mod.rd, Mod.rd, whole, Nat.add_mul, Nat.add_assoc,
      show loftKey c + (ea + o) + len = loftKey c + ea + (o + len) by omega]
    congr 2
    rw [Nat.mul_assoc, ← Nat.pow_add]
    congr 2
    omega

/-- A span of own Loft, or of no bytes, is read at once. -/
theorem readSpan_own {m : Mod} (free : (m.core c).Unhindered) (clean : m.bad = []) {ea n : Nat} (below : ea < 2 ^ 64)
    (own : n = 0 ∨ ea + n ≤ 0x400000) :
    ∃ t, readSpan c ea n m = ({ data := m.rd (loftKey c + ea) n }, t) ∧ t.KeepsBut c (fun _ => False) m := by
  have covers := pieces_covers (show ea + n ≤ 2 ^ 64 by omega)
  have inLoft : ∀ p ∈ pieces ea n, p.1 < 0x400000 := by
    intro p hp
    have := covers.mem_le p hp
    omega
  have pumped : (if (m.core c).pieces.any (fun p => !p.begun) then m.pump c else m).KeepsBut c (fun _ => False) m := by
    split
    · exact m.keepsBut_pump
    · exact .refl m
  unfold readSpan
  rw [Nat.mod_eq_of_lt below]
  dsimp only
  rw [wantPieces_own free inLoft]
  dsimp only
  generalize (if (m.core c).pieces.any (fun p => !p.begun) then m.pump c else m) = m1 at pumped ⊢
  obtain ⟨t, read, kept⟩ := readPieces_own {} covers (pumped.core.unhindered free) (pumped.bad.trans clean) inLoft
  refine ⟨t, read.trans ?_, kept.trans pumped⟩
  rw [Nat.add_zero, Nat.sub_zero, Nat.mul_zero, Nat.pow_zero, Nat.mul_one, Mod.rd, pumped.mem]
  simp only [Nat.zero_add, Mod.rd]
end

end Sys2Proof.Machine
end

section
/-! Tiles by their elements: what writing one changes and leaves (R144, R152, R154). -/

namespace Sys2Proof.Machine

/-! ### Elements of tiles -/

theorem tileFmt_iff {fmt : Nat} : tileFmt fmt = true ↔ fmt ≠ 0 ∧ fmt < 14 := by simp [tileFmt]

/-- A tile of this geometry and format exists, and keeps no scales (R144, R145). -/
def unscaledTile (geo fmt : Nat) : Prop := geo < 3 ∧ tileFmt fmt = true ∧ codeMx fmt = false

/-- The elements of a row fill at most a storage row, or half of one in geometry 1. -/
theorem unscaledTile.row_le {geo fmt : Nat} (h : unscaledTile geo fmt) : geoK geo fmt * codeBits fmt ≤ if geo = 1 then 512 else 1024 := by
  have all : ∀ geo < 3, ∀ fmt < 14, codeMx fmt = false → tileFmt fmt = true → geoK geo fmt * codeBits fmt ≤ if geo = 1 then 512 else 1024 := by decide
  obtain ⟨hg, hf, hm⟩ := h
  exact all geo hg fmt (tileFmt_iff.mp hf).2 hm hf

/-- An element ends within its row. -/
theorem elem_le {K w x : Nat} (h : x < K) : x * w + w ≤ K * w := by
  rw [← Nat.succ_mul]
  exact Nat.mul_le_mul_right w h

theorem Core.tileRow_setTileRow (k : Core) (t r v r' : Nat) :
    (k.setTileRow t r v).tileRow t r' = if r' = r then (BitVec.ofNat 1024 v).toNat else k.tileRow t r' := by
  unfold Core.tileRow Core.setTileRow
  rw [SMap.get_put]
  by_cases h : r' = r
  · rw [if_pos (by rw [h]), if_pos h]
  · rw [if_neg (by omega), if_neg h]

/-- Bits that a word of `n` bits holds. -/
theorem bits_ofNat {lo w n : Nat} (h : lo + w ≤ n) (v : Nat) :
    bits (BitVec.ofNat n v).toNat lo w = bits v lo w := by rw [BitVec.toNat_ofNat, bits_mod h]

/-- Writing one element leaves every other. -/
theorem Core.tileRaw_setTileRaw (k : Core) (t v : Nat) {geo fmt i x i' x' : Nat} (h : unscaledTile geo fmt) (hx : x < geoK geo fmt)
    (hx' : x' < geoK geo fmt) :
    (k.setTileRaw t geo fmt i x v).tileRaw t geo fmt i' x' = if i' = i ∧ x' = x then v % 2 ^ codeBits fmt else k.tileRaw t geo fmt i' x' := by
  have row := h.row_le
  have ends := elem_le (w := codeBits fmt) hx
  have ends' := elem_le (w := codeBits fmt) hx'
  have order : x' = x ∨ x' * codeBits fmt + codeBits fmt ≤ x * codeBits fmt ∨ x * codeBits fmt + codeBits fmt ≤ x' * codeBits fmt := by
    rcases Nat.lt_trichotomy x' x with below | same | above
    · exact .inr (.inl (elem_le below))
    · exact .inl same
    · exact .inr (.inr (elem_le above))
  unfold Core.setTileRaw Core.tileRaw
  dsimp only
  rw [Core.tileRow_setTileRow]
  generalize codeBits fmt = w at *
  generalize geoK geo fmt * w = size at *
  by_cases here : i' = i ∧ x' = x
  · obtain ⟨rfl, rfl⟩ := here
    rw [if_pos rfl, if_pos ⟨rfl, rfl⟩, bits_ofNat, bits_setBits_same]
    unfold rowAt
    split_ifs at * <;> simp only <;> omega
  · rw [if_neg here]
    by_cases stored : (rowAt geo i').1 = (rowAt geo i).1
    · rw [if_pos stored, bits_ofNat, bits_setBits_apart, stored]
      · unfold rowAt at *
        split_ifs at * <;> simp only at * <;> omega
      · unfold rowAt
        split_ifs at * <;> simp only <;> omega
    · rw [if_neg stored]

/-- The first `n` elements of an element row, from `g`. -/
def Core.setElems (k : Core) (t geo fmt i : Nat) (g : Nat → Nat) (n : Nat) : Core :=
  (List.range n).foldl (fun (k : Core) x => k.setTileRaw t geo fmt i x (g x)) k

theorem Core.tileRaw_setElems (k : Core) (t : Nat) (g : Nat → Nat) {geo fmt i i' x' : Nat} (h : unscaledTile geo fmt) (hx' : x' < geoK geo fmt) :
    ∀ {n : Nat}, n ≤ geoK geo fmt →
    (k.setElems t geo fmt i g n).tileRaw t geo fmt i' x' = if i' = i ∧ x' < n then g x' % 2 ^ codeBits fmt else k.tileRaw t geo fmt i' x' := by
  intro n
  induction n with
  | zero => exact fun _ => (if_neg (by omega)).symm
  | succ n ih =>
    intro hn
    have step : k.setElems t geo fmt i g (n + 1) = (k.setElems t geo fmt i g n).setTileRaw t geo fmt i n (g n) := by
      rw [Core.setElems, List.range_succ, List.foldl_append]
      rfl
    rw [step, Core.tileRaw_setTileRaw _ _ _ h hn hx', ih (by omega)]
    by_cases here : i' = i ∧ x' = n
    · rw [if_pos here, if_pos (by omega), here.2]
    · rw [if_neg here]
      exact if_congr (by omega) rfl rfl

/-! ### What writing a tile leaves -/

/-- The storage rows of tile `t`. -/
def rowOf (t j : Nat) : Prop := 64 * t ≤ j ∧ j < 64 * t + 64

/-- An element row lies in one of the 64 storage rows. -/
theorem rowAt_lt {geo i : Nat} (hg : geo < 3) (hi : i < geoRows geo) : (rowAt geo i).1 < 64 := by
  unfold rowAt
  interval_cases geo <;> simp only [geoRows] at hi <;> simp <;> omega

theorem Core.keepsBut_setTileRow (k : Core) (t v : Nat) {r : Nat} (hr : r < 64) : (k.setTileRow t r v).KeepsBut (rowOf t) k := by
  refine ⟨rfl, rfl, fun h => ⟨rfl, h⟩, id, fun j hj => SMap.get_put_ne 0 k.tiles _ ?_⟩
  unfold rowOf at hj
  omega

theorem Core.keepsBut_setTileRaw (k : Core) (t fmt x v : Nat) {geo i : Nat} (hg : geo < 3) (hi : i < geoRows geo) :
    (k.setTileRaw t geo fmt i x v).KeepsBut (rowOf t) k := k.keepsBut_setTileRow t _ (rowAt_lt hg hi)

theorem Core.keepsBut_foldl {T : Nat → Prop} (f : Core → Nat → Core) (l : List Nat) (k : Core) (h : ∀ u, ∀ i ∈ l, (f u i).KeepsBut T u) :
    (l.foldl f k).KeepsBut T k :=
  List.foldlRecOn (motive := fun u : Core => u.KeepsBut T k) l f (.refl k) fun u hu i hi => (h u i hi).trans hu

/-- A source row that runs along K writes its tile only. -/
theorem Core.keepsBut_putRow (k : Core) (f : TileF) (tc : Tconv) (s : Shape) (t : Nat) (r : SrcRow) {i : Nat}
    (h : unscaledTile f.geo.toNat f.tfmt.toNat)
    (hi : i < geoRows f.geo.toNat) : (k.putRow f tc s t i r).KeepsBut (rowOf t) k := by
  obtain ⟨hg, -, hm⟩ := h
  unfold Core.putRow
  dsimp only
  rw [hm, Bool.false_and, if_neg Bool.false_ne_true, if_neg Bool.false_ne_true]
  exact keepsBut_foldl _ _ k fun u x _ => u.keepsBut_setTileRaw t _ x _ hg hi

/-- So does one that runs along M or N. -/
theorem Core.keepsBut_putCol (k : Core) (f : TileF) (tc : Tconv) (s : Shape) (t x : Nat) (r : SrcRow) (h : unscaledTile f.geo.toNat f.tfmt.toNat)
    (hs : s.rows = geoRows f.geo.toNat) : (k.putCol f tc s t x r).KeepsBut (rowOf t) k := by
  obtain ⟨hg, -, hm⟩ := h
  unfold Core.putCol
  dsimp only
  rw [hm, Bool.false_and, if_neg Bool.false_ne_true, hs]
  exact keepsBut_foldl _ _ k fun u i hi => u.keepsBut_setTileRaw t _ x _ hg (List.mem_range.mp hi)

theorem Core.KeepsBut.withSide {T : Nat → Prop} {u k : Core} (h : u.KeepsBut T k) (side : SMap Byte) :
    ({ u with side := side } : Core).KeepsBut T k :=
  ⟨h.acc, h.tag, h.regs, h.unhindered, h.tiles⟩

/-- Storage rows of tile `t` with the bits outside `used` cleared. -/
def Core.maskRows (k : Core) (t : Nat) (used : Nat → Nat) : Core :=
  (List.range 64).foldl (fun (k : Core) r => k.setTileRow t r (k.tileRow t r &&& used r)) k

theorem Core.clearUnused_eq (k : Core) (t geo fmt : Nat) :
    ∃ used side, k.clearUnused t geo fmt = { k.maskRows t used with side := side } := ⟨_, _, rfl⟩

theorem Core.keepsBut_clearUnused (k : Core) (t geo fmt : Nat) : (k.clearUnused t geo fmt).KeepsBut (rowOf t) k := by
  obtain ⟨used, side, e⟩ := k.clearUnused_eq t geo fmt
  have masked : (k.maskRows t used).KeepsBut (rowOf t) k := keepsBut_foldl _ _ k fun u r hr => u.keepsBut_setTileRow t _ (List.mem_range.mp hr)
  rw [e]
  exact masked.withSide side

/-- A row that needs no conversion is copied (R152, R154): its elements are those of the source row. -/
theorem Core.putRow_copies (k : Core) {f : TileF} (tc : Tconv) {s : Shape} (t : Nat) {r : SrcRow} {i : Nat}
    (h : unscaledTile f.geo.toNat f.tfmt.toNat)
    (same : f.mfmt.toNat = f.tfmt.toNat)
    (whole : s.r = geoRows f.geo.toNat ∧ s.k = geoK f.geo.toNat f.tfmt.toNat ∧ s.cols = geoK f.geo.toNat f.tfmt.toNat)
    (hi : i < geoRows f.geo.toNat) (live : r.dead = false) (scaled : ∀ b, (r.scale b).isSome) :
    k.putRow f tc s t i r = k.setElems t f.geo.toNat f.tfmt.toNat i
      (fun x => bits r.data (x * memBits f.tfmt.toNat) (memBits f.tfmt.toNat)) (geoK f.geo.toNat f.tfmt.toNat) := by
  obtain ⟨-, -, hm⟩ := h
  obtain ⟨hr, hk, hc⟩ := whole
  unfold Core.putRow Core.setElems
  dsimp only
  rw [hm, Bool.false_and, if_neg Bool.false_ne_true, if_neg Bool.false_ne_true, hc]
  refine List.foldl_ext _ _ k fun u x hx => ?_
  have inRange : (decide (i < s.r) && decide (x < s.k) && !r.dead) = true := by simp [hr, hk, hi, live, List.mem_range.mp hx]
  have present : (r.scale (x / 32)).isNone = false := by rw [Option.isNone_eq_false_iff]; exact scaled _
  unfold Core.putElem
  dsimp only
  rw [inRange, present, if_neg (by decide), if_pos same, same]

end Sys2Proof.Machine
end

section
/-! TLD of own Loft (R146, R152, R154 to R156, R160, R163). -/

namespace Sys2Proof.Machine

/-! ### The rows of a TLD or TST of own Loft -/

/-- Memory rows of a TLD or TST in range of its whole shape, and the bytes of each (R154, R155). -/
def memRows (f : TileF) : Nat := if f.tr = 1 then geoK f.geo.toNat f.tfmt.toNat else geoRows f.geo.toNat
def memBytes (f : TileF) : Nat := spanBytes f.mfmt.toNat (if f.tr = 1 then geoRows f.geo.toNat else geoK f.geo.toNat f.tfmt.toNat)

theorem memRows_le (f : TileF) (geo : f.geo.toNat < 3) : memRows f ≤ 256 := by
  have bound : ∀ (g : Fin 3) (m : Fin 16), geoRows g ≤ 256 ∧ geoK g m ≤ 256 := by decide
  obtain ⟨rows, cols⟩ := bound ⟨_, geo⟩ ⟨f.tfmt.toNat, f.tfmt.isLt⟩
  unfold memRows
  split
  · exact cols
  · exact rows

theorem memRows_straight {f : TileF} (h : f.tr = 0) : memRows f = geoRows f.geo.toNat := if_neg (by rw [h]; decide)

theorem memBytes_straight {f : TileF} (h : f.tr = 0) : memBytes f = spanBytes f.mfmt.toNat (geoK f.geo.toNat f.tfmt.toNat) :=
  congrArg (spanBytes _) (if_neg (by rw [h]; decide))

theorem geoRows_le {g : Nat} (h : g < 3) : geoRows g ≤ 128 := by
  have bound : ∀ g : Fin 3, geoRows g ≤ 128 := by decide
  exact bound ⟨g, h⟩

/-- The whole shape of a tile, all of it in range. -/
def tileShape (f : TileF) : Shape :=
  ⟨geoRows f.geo.toNat, geoK f.geo.toNat f.tfmt.toNat, geoRows f.geo.toNat, geoK f.geo.toNat f.tfmt.toNat⟩

/-- Address of memory row `i`. -/
def Core.rowEa (k : Core) (f : TileF) (i : Nat) : Nat := (k.gr f.a.toNat).toNat + i * (k.gr f.b.toNat).toNat

/-- A TLD or TST of whole, unscaled memory rows of own Loft, which no stop of R156 keeps from moving. -/
structure Core.MovesOwn (k : Core) (c : Nat) (f : TileF) : Prop where
  whole : f.ext = 0
  unscaled : codeMx f.mfmt.toNat = false
  own : k.tldOwn c f

theorem shapeOf_whole {f : TileF} (h : f.ext = 0) (g : Nat) :
    shapeOf (geoRows f.geo.toNat) (geoK f.geo.toNat f.tfmt.toNat) (f.ext == 1) g = tileShape f := by
  rw [h]
  rfl

theorem Core.MovesOwn.unhindered {k : Core} {c : Nat} {f : TileF} (h : k.MovesOwn c f) : k.Unhindered := by
  obtain ⟨-, -, -, -, tracker, -, asked, -⟩ := h.own
  exact ⟨tracker, asked⟩

/-- A row in range ends in own Loft, below kernel-only Loft at task level. -/
theorem Core.MovesOwn.rowEa_le {k : Core} {c : Nat} {f : TileF} (h : k.MovesOwn c f) {i : Nat} (hi : i < memRows f) :
    k.rowEa f i + memBytes f ≤ 0x400000 ∧ (k.cs.level = true ∨ k.rowEa f i + memBytes f ≤ k.kloft) := by
  obtain ⟨-, -, inLoft, allowed, -⟩ := h.own
  have below : i * (k.gr f.b.toNat).toNat ≤ memRows f * (k.gr f.b.toNat).toNat := Nat.mul_le_mul_right _ hi.le
  unfold Core.rowEa
  unfold memRows at below
  unfold memBytes
  exact ⟨by omega, allowed.imp id fun h => by omega⟩

theorem Core.MovesOwn.row_eq {k : Core} {c : Nat} {f : TileF} (h : k.MovesOwn c f) {i : Nat} (hi : i < memRows f) :
    (layoutOf k f).row i = k.rowEa f i := by
  have := (h.rowEa_le hi).1
  exact Nat.mod_eq_of_lt (show k.rowEa f i < 2 ^ 64 by omega)

theorem layoutOf_tr (k : Core) (f : TileF) : (layoutOf k f).tr = decide (f.tr = 1) := beq_eq_decide _ _

/-- The spans of its rows are all that R156 checks. -/
theorem Core.MovesOwn.spans_eq {k : Core} {c : Nat} {f : TileF} (h : k.MovesOwn c f) :
    (layoutOf k f).rowSpans (tileShape f) ++ (layoutOf k f).scaleSpans (tileShape f) =
      (List.range (memRows f)).map (fun i => ((layoutOf k f).row i, memBytes f)) := by
  have noScales : (layoutOf k f).scaleSpans (tileShape f) = [] := if_pos (by rw [show (layoutOf k f).mf = f.mfmt.toNat from rfl, h.unscaled]; rfl)
  rw [noScales, List.append_nil, Layout.rowSpans, layoutOf_tr, memRows, memBytes]
  by_cases tr : f.tr = 1
  · simp only [tr, decide_true, ↓reduceIte]
    rfl
  · simp only [tr, decide_false, Bool.false_eq_true, ↓reduceIte]
    rfl

theorem kernelSpans_none {k : Core} {l : List (Nat × Nat)} (h : ∀ p ∈ l, k.kernelOnly p.1 p.2 = none) : kernelSpans k l = none := by
  unfold kernelSpans
  refine List.foldlRecOn (motive := fun o => o = none) l _ rfl fun o ho p hp => ?_
  rw [ho, h p hp, ite_self]

/-- Kernel level, or a span below kernel-only Loft (R79). -/
theorem Core.kernelOnly_none {k : Core} {ea n : Nat} (h : k.cs.level = true ∨ ea + n ≤ k.kloft) : k.kernelOnly ea n = none := by
  unfold Core.kernelOnly
  rcases h with level | below
  · rw [level]
    rfl
  · rw [decide_eq_false (by omega : ¬ k.kloft < ea + n), Bool.and_false]
    rfl

theorem Core.MovesOwn.kernelSpans_none {k : Core} {c : Nat} {f : TileF} (h : k.MovesOwn c f) :
    kernelSpans k ((layoutOf k f).rowSpans (tileShape f) ++ (layoutOf k f).scaleSpans (tileShape f)) = none := by
  rw [h.spans_eq]
  refine Machine.kernelSpans_none fun p hp => ?_
  obtain ⟨i, hi, rfl⟩ := List.mem_map.mp hp
  have hi := List.mem_range.mp hi
  rw [h.row_eq hi]
  exact Core.kernelOnly_none (h.rowEa_le hi).2

theorem Core.MovesOwn.misaligned_none {k : Core} {c : Nat} {f : TileF} (h : k.MovesOwn c f) : (layoutOf k f).misaligned = none := by
  obtain ⟨base, stride, -⟩ := h.own
  exact (if_neg (not_not.mpr base)).trans (if_neg (not_not.mpr stride))

/-! ### TLD: one row -/

/-- A row of own Loft is read at once: its bytes, all of them good. -/
theorem readRow_own {k : Core} {c : Nat} {f : TileF} (h : k.MovesOwn c f) {i : Nat} (hi : i < memRows f) {m : Mod} (free : (m.core c).Unhindered)
    (clean : m.bad = []) :
    ∃ r t, readRow c (layoutOf k f) (tileShape f) i m = (.inl (r, []), t) ∧ t.KeepsBut c (fun _ => False) m ∧
      r.data = m.rd (loftKey c + k.rowEa f i) (memBytes f) ∧ r.dead = false ∧ ∀ b, (r.scale b).isSome := by
  have inRange : (if (layoutOf k f).tr then decide (i < (tileShape f).k) else decide (i < (tileShape f).r)) = true := by
    rw [layoutOf_tr]
    unfold memRows at hi
    by_cases tr : f.tr = 1
    · rw [if_pos tr] at hi
      simp only [tr, decide_true, ↓reduceIte]
      exact decide_eq_true hi
    · rw [if_neg tr] at hi
      simp only [tr, decide_false, Bool.false_eq_true, ↓reduceIte]
      exact decide_eq_true hi
  have bytes : spanBytes (layoutOf k f).mf (if (layoutOf k f).tr then (tileShape f).r else (tileShape f).k) = memBytes f := by
    rw [layoutOf_tr, memBytes]
    by_cases tr : f.tr = 1
    · simp only [tr, decide_true, ↓reduceIte]
      rfl
    · simp only [tr, decide_false, Bool.false_eq_true, ↓reduceIte]
      rfl
  have fits := (h.rowEa_le hi).1
  unfold readRow
  dsimp only
  rw [inRange, bytes, h.row_eq hi]
  simp only [Bool.not_true, Bool.false_eq_true, ↓reduceIte, Bool.false_or, show (layoutOf k f).mf = f.mfmt.toNat from rfl, h.unscaled, Bool.not_false]
  obtain ⟨t, read, kept⟩ := readSpan_own free clean (show k.rowEa f i < 2 ^ 64 by omega) (.inr fits)
  rw [read]
  dsimp only
  generalize hsa : ((layoutOf k f).sbase + _ * (layoutOf k f).ss) % 2 ^ 64 = sa
  obtain ⟨t', read', kept'⟩ := readSpan_own (kept.core.unhindered free) (kept.bad.trans clean)
    (hsa ▸ Nat.mod_lt _ (by decide) : sa < 2 ^ 64) (.inl (rfl : (0 : Nat) = 0))
  rw [read']
  exact ⟨_, t', rfl, kept'.trans kept, rfl, rfl, fun b => rfl⟩

/-! ### TLD: all rows -/

/-- A TLD of one row at a time whose rows can all be read moves them all, and whatever holds before row `i` and is passed on by it holds
behind the last. -/
theorem tldRows_all {c : Nat} {f : TileF} {tc : Tconv} {l : Layout} {s : Shape} {t : Nat} (P : Nat → Mod → Prop) (unit : tldUnit f = 1)
    (step : ∀ i m, i < (if l.tr then s.cols else s.rows) → P i m → ∃ r m1, readRow c l s i m = (.inl (r, []), m1) ∧
      P (i + 1) ((m1.onCore c (fun k => if l.tr then k.putCol f tc s t i r else k.putRow f tc s t i r)).onCore c (fun k => k.dropPieces 0))) :
    ∀ n i m, (if l.tr then s.cols else s.rows) ≤ i + n → i ≤ (if l.tr then s.cols else s.rows) → P i m →
      ∃ t', tldRows c f tc l s t n i m = (none, (if l.tr then s.cols else s.rows), t') ∧ P (if l.tr then s.cols else s.rows) t' := by
  intro n
  generalize htotal : (if l.tr then s.cols else s.rows) = total at step ⊢
  induction n with
  | zero =>
    intro i m enough le hp
    obtain rfl : i = total := by omega
    exact ⟨m, rfl, hp⟩
  | succ n ih =>
    intro i m enough le hp
    rw [tldRows]
    dsimp only
    rw [htotal, unit]
    by_cases done : total ≤ i
    · obtain rfl : i = total := by omega
      exact ⟨m, if_pos done, hp⟩
    · rw [if_neg done]
      obtain ⟨r, m1, read, next⟩ := step i m (by omega) hp
      rw [readRows, read]
      dsimp only [readRows]
      simp only [Nat.reduceEqDiff, ↓reduceIte]
      exact ih (i + 1) _ (by omega) (by omega) next

/-! ### TLD: what its moves amount to -/

theorem total_eq (k : Core) (f : TileF) : (if (layoutOf k f).tr then (tileShape f).cols else (tileShape f).rows) = memRows f := by
  rw [layoutOf_tr, memRows]
  by_cases tr : f.tr = 1
  · simp only [tr, decide_true, ↓reduceIte]
    rfl
  · simp only [tr, decide_false, Bool.false_eq_true, ↓reduceIte]
    rfl

theorem tldUnit_one {f : TileF} (h : codeMx f.tfmt.toNat = false) : tldUnit f = 1 := if_neg (by simp [h])

theorem memBits_tile {fmt : Nat} (h : tileFmt fmt = true) : memBits fmt = codeBits fmt := by
  have := tileFmt_iff.mp h
  unfold memBits
  rw [if_neg (by omega), if_neg (by omega)]

theorem Core.tileRaw_congr {u k : Core} (h : u.KeepsBut (fun _ => False) k) (t geo fmt i x : Nat) :
    u.tileRaw t geo fmt i x = k.tileRaw t geo fmt i x := by
  unfold Core.tileRaw Core.tileRow
  dsimp only
  rw [h.tiles _ id]

/-- What a TLD that began at `m0` has done to `m` before memory row `i`: it has written its tile only, and the rows that need no conversion are
copies of those of core `k`'s own Loft (R152, R154, R155). -/
structure Mod.TldMoved (m0 : Mod) (c : Nat) (k : Core) (f : TileF) (i : Nat) (m : Mod) : Prop where
  kept : m.KeepsBut c (rowOf f.idx.toNat) m0
  copied : f.tr = 0 → f.mfmt.toNat = f.tfmt.toNat → ∀ j x, j < i → x < geoK f.geo.toNat f.tfmt.toNat →
    (m.core c).tileRaw f.idx.toNat f.geo.toNat f.tfmt.toNat j x =
      bits (m0.rd (loftKey c + k.rowEa f j) (memBytes f)) (x * codeBits f.tfmt.toNat) (codeBits f.tfmt.toNat)

theorem Mod.TldMoved.step {m0 m : Mod} {c : Nat} {k : Core} {f : TileF} {i : Nat} (h : m0.TldMoved c k f i m) (own : k.MovesOwn c f)
    (tile : unscaledTile f.geo.toNat f.tfmt.toNat) (free : (m0.core c).Unhindered) (clean : m0.bad = []) (hi : i < memRows f) (tc : Tconv) :
    ∃ r m1, readRow c (layoutOf k f) (tileShape f) i m = (.inl (r, []), m1) ∧
      m0.TldMoved c k f (i + 1) ((m1.onCore c (fun k' => if (layoutOf k f).tr then k'.putCol f tc (tileShape f) f.idx.toNat i r
        else k'.putRow f tc (tileShape f) f.idx.toNat i r)).onCore c (fun k => k.dropPieces 0)) := by
  obtain ⟨r, m1, read, kept, data, live, scaled⟩ := readRow_own own hi (h.kept.core.unhindered free) (h.kept.bad.trans clean)
  have put : (if (layoutOf k f).tr then (m1.core c).putCol f tc (tileShape f) f.idx.toNat i r
      else (m1.core c).putRow f tc (tileShape f) f.idx.toNat i r).KeepsBut (rowOf f.idx.toNat) (m1.core c) := by
    rw [layoutOf_tr]
    by_cases tr : f.tr = 1
    · rw [decide_eq_true tr, if_pos rfl]
      exact Core.keepsBut_putCol _ f tc _ _ i r tile rfl
    · rw [memRows, if_neg tr] at hi
      rw [decide_eq_false tr, if_neg Bool.false_ne_true]
      exact Core.keepsBut_putRow _ f tc _ _ r tile hi
  have dropped (u : Core) : (u.dropPieces 0).KeepsBut (rowOf f.idx.toNat) u :=
    ⟨rfl, rfl, fun h => ⟨rfl, h⟩, fun h => ⟨h.1, fun p hp => h.2 p (List.mem_filter.mp hp).1⟩, fun _ _ => rfl⟩
  refine ⟨r, m1, read, ?_, fun copy same j x hj hx => ?_⟩
  · exact (Mod.keepsBut_onCore (dropped _)).trans ((Mod.keepsBut_onCore put).trans ((kept.mono fun _ => False.elim).trans h.kept))
  · have tr : ¬ f.tr = 1 := by
      rw [copy]
      decide
    rw [memRows, if_neg tr] at hi
    rw [Mod.onCore, Mod.core_setCore, Mod.onCore, Mod.core_setCore, layoutOf_tr, decide_eq_false tr, if_neg Bool.false_ne_true,
      Core.putRow_copies _ tc _ tile same ⟨rfl, rfl, rfl⟩ hi live scaled]
    refine (Core.tileRaw_setElems (m1.core c) f.idx.toNat _ tile hx le_rfl).trans ?_
    by_cases here : j = i
    · rw [if_pos ⟨here, hx⟩, here, memBits_tile tile.2.1, Nat.mod_eq_of_lt (bits_lt _ _ _), data, Mod.rd, h.kept.mem, Mod.rd]
    · rw [if_neg fun h => here h.1, Core.tileRaw_congr kept.core]
      exact h.copied copy same j x (by omega) hx

/-! ### TLD: its begin and its end -/

/-- A tag is written, and the instruction at issue is held. -/
def Core.holdTile (k : Core) (t w : Nat) (h : Hold) : Core := { k.setTag t w with hold := some h }

/-- The core at the first row of a TLD: its tile's unused storage is zero and its tag partial, and it is held (R145, R160, R163). -/
def Core.beginTld (k : Core) (f : TileF) : Core :=
  (k.clearUnused f.idx.toNat f.geo.toNat f.tfmt.toNat).holdTile f.idx.toNat (tagWord f.geo.toNat f.tfmt.toNat true)
    (Hold.mk .tld (k.cs.ie && k.quietBoundary) 0 (f.idx.toNat * 256 + 0) 0 none [] 0)

def Mod.beginTld (m : Mod) (c : Nat) (k : Core) (f : TileF) : Mod := (m.setCore c (k.beginTld f)).coreEv c 0x06 1

/-- The core behind the last row. -/
def Core.endTld (k : Core) (f : TileF) : Core :=
  { k.setTag f.idx.toNat (tagWord f.geo.toNat f.tfmt.toNat false) with tldpos := 0, hold := none }

/-- The hold keeps its tile and next row. -/
def Core.holdRow (k : Core) (t i : Nat) : Core := { k with hold := k.hold.map (fun (h : Hold) => { h with target := t * 256 + i % 256 }) }

def Mod.endTld (m : Mod) (c : Nat) (f : TileF) : Mod :=
  (m.onCore c (fun k => k.holdRow f.idx.toNat (memRows f))).onCore c (fun k => k.endTld f)

theorem Mod.core_beginTld (m : Mod) (c : Nat) (k : Core) (f : TileF) : (m.beginTld c k f).core c = k.beginTld f := by
  rw [Mod.beginTld, Mod.core_sameState (Mod.sameState_coreEv _ _ _ _), Mod.core_setCore]

theorem Mod.beginTld_mem (m : Mod) (c : Nat) (k : Core) (f : TileF) : (m.beginTld c k f).mem = m.mem ∧ (m.beginTld c k f).bad = m.bad := by
  obtain ⟨mem, bad, -⟩ := (m.setCore c (k.beginTld f)).sameState_coreEv c 0x06 1
  exact ⟨mem, bad⟩

/-- The begin of a TLD changes its tile and its tag, and holds issue. -/
theorem Core.beginTld_eq (k : Core) (f : TileF) : ∃ (u : Core) (h : Hold), u.KeepsBut (rowOf f.idx.toNat) k ∧
    k.beginTld f = u.holdTile f.idx.toNat (tagWord f.geo.toNat f.tfmt.toNat true) h := ⟨_, _, k.keepsBut_clearUnused _ _ _, rfl⟩

theorem Core.beginTld_spec (k : Core) (f : TileF) :
    let u := k.beginTld f
    u.acc = k.acc ∧ u.tag = SMap.put 0x0B k.tag f.idx.toNat (BitVec.ofNat 8 (tagWord f.geo.toNat f.tfmt.toNat true)) ∧
      (k.loads = [] → u.g = k.g ∧ u.loads = []) ∧ (k.Unhindered → u.Unhindered) ∧
      ∀ j, ¬ rowOf f.idx.toNat j → SMap.get 0 u.tiles j = SMap.get 0 k.tiles j := by
  obtain ⟨u, h, kept, begun⟩ := k.beginTld_eq f
  rw [begun]
  refine ⟨kept.acc, ?_, kept.regs, kept.unhindered, kept.tiles⟩
  rw [← kept.tag]
  rfl

/-- A tile that is not partial is loaded from its first row (R163). -/
theorem Core.tldStart_whole {k : Core} {t : Nat} (h : k.tagPartial t = false) {fmt : Nat} (hf : tileFmt fmt = true) (geo total u : Nat) :
    k.tldStart t geo fmt total u = 0 := by
  have := tileFmt_iff.mp hf
  refine if_neg fun started => ?_
  rw [Core.tagPartial, started.1, bits, tagWord, beq_eq_false_iff_ne] at h
  exact h (by simp only [b2n, ↓reduceIte]; omega)

/-- A TLD that no stop of R156 keeps from moving, and that moves every row, completes. -/
theorem tldBody_completes {c n : Nat} {f : TileF} {m m1 : Mod} {k : Core} (own : k.MovesOwn c f) (tile : unscaledTile f.geo.toNat f.tfmt.toNat)
    (busy : k.tileBusy f.idx.toNat = false) (whole : k.tagPartial f.idx.toNat = false) (free : k.hold = none)
    (moved : tldRows c f (m.tconv c f.csel.toNat (layoutOf k f).mf) (layoutOf k f) (tileShape f) f.idx.toNat n 0 (m.beginTld c k f) =
      (none, memRows f, m1)) :
    tldBody c f n m k = .ok (m1.endTld c f) := by
  unfold tldBody
  dsimp only
  rw [shapeOf_whole own.whole, own.kernelSpans_none]
  dsimp only
  rw [own.misaligned_none]
  dsimp only
  rw [busy, if_neg Bool.false_ne_true, free]
  dsimp only
  rw [Core.tldStart_whole whole tile.2.1, tldUnit_one tile.2.2, Nat.div_one]
  unfold Mod.beginTld Core.beginTld Core.holdTile at moved
  rw [moved]
  dsimp only
  rw [total_eq, if_pos le_rfl]
  rfl

/-! ### The end of an instruction, for tiles -/

/-- Tiles, accumulators and general registers agree, and with nothing held so does TLDPOS. -/
def Core.SameTiles (u k : Core) : Prop :=
  u.tiles = k.tiles ∧ u.tag = k.tag ∧ u.acc = k.acc ∧ u.g = k.g ∧ (k.hold = none → u.hold = none ∧ u.tldpos = k.tldpos)

theorem Core.sameTiles_ite {p : Prop} [Decidable p] {u v k : Core} (hu : u.SameTiles k) (hv : v.SameTiles k) : (if p then u else v).SameTiles k := by
  split
  · exact hu
  · exact hv

/-- A fault writes TLDPOS only where a TLD is held (R101). -/
theorem Core.sameTiles_raise (k : Core) (cause sub addr : Nat) (rs : Bool) : (k.raise cause sub addr rs).SameTiles k := by
  have stop : k.tldStop.SameTiles k := by
    unfold Core.tldStop
    split
    · next held =>
      exact sameTiles_ite ⟨rfl, rfl, rfl, rfl, fun free => by rw [free] at held; cases held⟩ ⟨rfl, rfl, rfl, rfl, fun free => ⟨free, rfl⟩⟩
    · exact ⟨rfl, rfl, rfl, rfl, fun free => ⟨free, rfl⟩⟩
  obtain ⟨tiles, tag, acc, g, free⟩ := stop
  exact ⟨tiles, tag, acc, g, fun h => ⟨rfl, (free h).2⟩⟩

theorem Core.sameTiles_routineStep (k : Core) : k.routineStep.SameTiles k := by
  have counted : k.SameTiles k := ⟨rfl, rfl, rfl, rfl, fun free => ⟨free, rfl⟩⟩
  unfold Core.routineStep
  split
  · exact counted
  · exact sameTiles_ite (sameTiles_raise _ _ _ _ _) (sameTiles_ite (sameTiles_raise _ _ _ _ _) counted)

theorem Core.mature_g {k : Core} (h : k.loads = []) : k.mature.g = k.g := by
  unfold Core.mature
  rw [h]
  rfl

theorem matureVLoads_g (ls : List VLoad) (held : List Nat) (k : Core) : (matureVLoads ls held k).g = k.g := by
  obtain ⟨v, vl, r, e⟩ := matureVLoads_frame ls held k
  rw [e]

/-- With no load in flight, ageing writes no general register. -/
theorem Core.ageLoads_g {k : Core} (h : k.loads = []) : k.ageLoads.g = k.g :=
  (matureVLoads_g _ _ _).trans (Core.mature_g (by simp [h]))

theorem Core.retire_g {k : Core} (h : k.loads = []) (seq dflt : PAddr) : (k.retire seq dflt).g = k.g := by
  have checked (p : Bool) : ∃ lpc, (if p then loopCheck [3, 2, 1, 0] seq dflt k else (k, dflt)).1 = { k with lpc := lpc } := by
    cases p
    · exact ⟨k.lpc, rfl⟩
    · exact loopCheck_frame _ seq dflt k
  have shape : ∃ p : Bool, (k.retire seq dflt).g = (if p then loopCheck [3, 2, 1, 0] seq dflt k else (k, dflt)).1.ageLoads.g := ⟨_, rfl⟩
  obtain ⟨p, shape⟩ := shape
  obtain ⟨lpc, e⟩ := checked p
  rw [shape, e]
  exact Core.ageLoads_g (k := { k with lpc := lpc }) h

/-- What the end of an instruction leaves of its core's tiles, accumulators and general registers. -/
theorem Mod.core_ends_tiles (m : Mod) (c : Nat) (seq dflt : PAddr) :
    let u := (m.ends c seq dflt).core c
    let k := m.core c
    u.tiles = k.tiles ∧ u.tag = k.tag ∧ u.acc = k.acc ∧ (k.hold = none → u.hold = none ∧ u.tldpos = k.tldpos) ∧ (k.loads = [] → u.g = k.g) := by
  have kept (h : (m.core c).loads = []) := Core.retire_g h seq dflt
  obtain ⟨tiles, tag, acc, regs, free⟩ := ((m.core c).retire seq dflt).sameTiles_routineStep
  have same : let u := (m.core c).retire seq dflt
      u.tiles = (m.core c).tiles ∧ u.tag = (m.core c).tag ∧ u.acc = (m.core c).acc ∧ u.hold = (m.core c).hold ∧ u.tldpos = (m.core c).tldpos := by
    obtain ⟨g, l, v, vl, r, lpc, csq, pc, retired, -⟩ := (m.core c).retire_frame seq dflt
    rw [retired]
    exact ⟨rfl, rfl, rfl, rfl, rfl⟩
  obtain ⟨tiles', tag', acc', hold', tldpos'⟩ := same
  rw [Mod.core_ends]
  refine ⟨tiles.trans tiles', tag.trans tag', acc.trans acc', fun h => ?_, fun h => regs.trans (kept h)⟩
  obtain ⟨held, pos⟩ := free (hold'.trans h)
  exact ⟨held, pos.trans tldpos'⟩

/-! ### TLD -/

/-- At issue of a ready instruction nothing is held. -/
theorem Mod.ready_hold {m : Mod} {c len : Nat} {ctl last : Bool} {rs : List Nat} (h : m.ready c len ctl last rs = true) : (m.at c).hold = none := by
  simp only [Mod.ready, Bool.and_eq_true, Option.isNone_iff_eq_none] at h
  exact h.1.1.1.1.1.1.2

/-- Issue asks of the core as CS leaves it only. -/
theorem issueIf_congr {may may' : Core → Bool} {m : Mod} {c : Nat} (h : may (m.at c) = may' (m.at c)) (len : Nat) (ills : List Nat)
    (ctl last : Bool) (rs : List Nat)
    (body : Mod → Core → Res) : issueIf may c len ills ctl last rs body m = issueIf may' c len ills ctl last rs body m := by
  unfold issueIf
  dsimp only
  rw [show may ((m.onCore c Core.commitDue).core c) = may' ((m.onCore c Core.commitDue).core c) from h]

/-- An instruction that may be held issues like any other when nothing is held. -/
theorem issueSix_ready {m : Mod} {c : Nat} {rs : List Nat} (h : m.ready c 6 false false rs = true) (kind : HoldKind) (body : Mod → Core → Res) :
    issueSix kind c [] rs body m = m.answers c 6 (body (m.due c) (m.at c)) := by
  rw [← issue_ready h]
  refine issueIf_congr ?_ 6 [] false false rs body
  rw [Mod.ready_hold h]
  rfl

theorem tldIlls_none {f : TileF} (src : f.src = 0) (geo : f.geo.toNat < 3) (fmt : tileFmt f.tfmt.toNat = true) (mem : f.mfmt.toNat < 15)
    (idx : f.idx.toNat < 8)
    (rm : f.rm = 0) (low : f.low = 0) : tldIlls f = [] := by
  have shape : ¬ f.geo = 3#2 := fun h => by rw [h] at geo; exact absurd geo (by decide)
  simp [tldIlls, shape, fmt, mem, src, rm, low, marked, Nat.not_le.mpr idx]

/-- A TLD whose encoding is legal, ready at issue, answers what its body answers. -/
theorem exec_tld_ready {c n : Nat} {f : TileF} {s : State} (hc : isCore c = true) (legal : tldIlls f = [])
    (ready : s.mod.ready c 6 false false (tileRegs f) = true) :
    exec (.tld c f n) s = .next { s with mod := s.mod.answers c 6 (tldBody c f n (s.mod.due c) (s.mod.at c)) } := by
  change execTld c f n s = _
  rw [execTld, legal]
  simp only [onCoreOnly, hc, ↓reduceIte, issueSix_ready ready]

/-- A TLD of own Loft with time for all its rows completes: what it has moved, and the core behind its end. -/
theorem exec_tld_own {c n : Nat} {f : TileF} {s : State} (hc : isCore c = true) (legal : tldIlls f = [])
    (ready : s.mod.ready c 6 false false (tileRegs f) = true) (own : (s.mod.at c).MovesOwn c f) (tile : unscaledTile f.geo.toNat f.tfmt.toNat)
    (clean : s.mod.bad = []) (busy : (s.mod.at c).tileBusy f.idx.toNat = false) (whole : (s.mod.at c).tagPartial f.idx.toNat = false)
    (enough : memRows f ≤ n) :
    ∃ m1, ((s.mod.due c).beginTld c (s.mod.at c) f).TldMoved c (s.mod.at c) f (memRows f) m1 ∧
      exec (.tld c f n) s = .next (s.runs c 6 fun _ _ => m1.endTld c f) := by
  obtain ⟨mem, bad⟩ := (s.mod.due c).beginTld_mem c (s.mod.at c) f
  have free : (((s.mod.due c).beginTld c (s.mod.at c) f).core c).Unhindered := by
    obtain ⟨-, -, -, free, -⟩ := (s.mod.at c).beginTld_spec f
    rw [Mod.core_beginTld]
    exact free own.unhindered
  have first : ((s.mod.due c).beginTld c (s.mod.at c) f).TldMoved c (s.mod.at c) f 0 ((s.mod.due c).beginTld c (s.mod.at c) f) :=
    ⟨.refl _, fun _ _ j x hj => absurd hj (Nat.not_lt_zero j)⟩
  have total := total_eq (s.mod.at c) f
  obtain ⟨m1, moved, all⟩ := tldRows_all (tc := (s.mod.due c).tconv c f.csel.toNat (layoutOf (s.mod.at c) f).mf)
    (t := f.idx.toNat) _ (tldUnit_one tile.2.2)
    (fun i m hi h => h.step own tile free (bad.trans clean) (total ▸ hi) _) n 0 _ (by rw [total]; omega) (Nat.zero_le _) first
  rw [total] at moved all
  refine ⟨m1, all, ?_⟩
  rw [exec_tld_ready hc legal ready, tldBody_completes own tile busy whole (Mod.ready_hold ready) moved]
  rfl

theorem Core.endTld_spec (k : Core) (f : TileF) (i : Nat) :
    let u := (k.holdRow f.idx.toNat i).endTld f
    u.tiles = k.tiles ∧ u.tag = SMap.put 0x0B k.tag f.idx.toNat (BitVec.ofNat 8 (tagWord f.geo.toNat f.tfmt.toNat false)) ∧
      u.acc = k.acc ∧ u.hold = none ∧ u.tldpos = 0 ∧ u.loads = k.loads ∧ u.g = k.g := ⟨rfl, rfl, rfl, rfl, rfl, rfl, rfl⟩

/-- The module behind a TLD that has ended. -/
theorem Mod.ends_endTld (m : Mod) (c : Nat) (f : TileF) (seq : PAddr) :
    let t := (m.endTld c f).ends c seq seq
    let u := t.core c
    let k := m.core c
    t.mem = m.mem ∧ u.tiles = k.tiles ∧ u.tag = SMap.put 0x0B k.tag f.idx.toNat (BitVec.ofNat 8 (tagWord f.geo.toNat f.tfmt.toNat false)) ∧
      u.acc = k.acc ∧ u.hold = none ∧ u.tldpos = 0 ∧ (k.loads = [] → u.g = k.g) := by
  obtain ⟨tiles, tag, acc, free, regs⟩ := (m.endTld c f).core_ends_tiles c seq seq
  obtain ⟨tiles', tag', acc', hold', pos', loads', regs'⟩ := (m.core c).endTld_spec f (memRows f)
  have mem := Mod.ends_mem (m.endTld c f) c seq seq
  have core : (m.endTld c f).core c = ((m.core c).holdRow f.idx.toNat (memRows f)).endTld f := by
    rw [Mod.endTld, Mod.onCore, Mod.core_setCore, Mod.onCore, Mod.core_setCore]
  rw [← core] at tiles' tag' acc' hold' pos' loads' regs'
  obtain ⟨held, pos⟩ := free hold'
  exact ⟨mem, tiles.trans tiles', tag.trans tag', acc.trans acc', held, pos.trans pos', fun idle => (regs (loads'.trans idle)).trans regs'⟩

theorem Core.tagOf_put (k : Core) (tag : SMap Byte) (t w j : Nat) (h : k.tag = SMap.put 0x0B tag t (BitVec.ofNat 8 w)) :
    k.tagOf j = if j = t then w % 256 else (SMap.get 0x0B tag j).toNat := by
  rw [Core.tagOf, h, SMap.get_put]
  split
  · exact BitVec.toNat_ofNat w 8
  · rfl

/-- A TLD that completes: its tile has its tag, TLDPOS is 0, and all else is as before (R146, R160, R163). -/
theorem exec_tld_frame {c n : Nat} {f : TileF} {s : State} (hc : isCore c = true) (legal : tldIlls f = [])
    (ready : s.mod.ready c 6 false false (tileRegs f) = true) (own : (s.mod.at c).MovesOwn c f) (tile : unscaledTile f.geo.toNat f.tfmt.toNat)
    (clean : s.mod.bad = []) (busy : (s.mod.at c).tileBusy f.idx.toNat = false) (whole : (s.mod.at c).tagPartial f.idx.toNat = false)
    (enough : memRows f ≤ n) :
    let k := s.mod.at c
    ∃ t, exec (.tld c f n) s = .next t ∧ (t.mod.core c).tagOf f.idx.toNat = f.geo.toNat * 64 + f.tfmt.toNat ∧
      (t.mod.core c).tldpos = 0 ∧ (t.mod.core c).hold = none ∧ (t.mod.core c).acc = k.acc ∧ t.mod.mem = s.mod.mem ∧
      (∀ j, (j < 64 * f.idx.toNat ∨ 64 * f.idx.toNat + 64 ≤ j) → SMap.get 0 (t.mod.core c).tiles j = SMap.get 0 k.tiles j) ∧
      (∀ j, j ≠ f.idx.toNat → (t.mod.core c).tagOf j = k.tagOf j) ∧ (k.loads = [] → (t.mod.core c).g = k.g) := by
  obtain ⟨m1, moved, e⟩ := exec_tld_own hc legal ready own tile clean busy whole enough
  obtain ⟨mem, tiles, tag, acc, held, pos, regs⟩ := m1.ends_endTld c f ((s.mod.at c).pc + BitVec.ofNat 16 6)
  obtain ⟨acc', tag', regs', -, tiles'⟩ := (s.mod.at c).beginTld_spec f
  obtain ⟨mem', -⟩ := (s.mod.due c).beginTld_mem c (s.mod.at c) f
  have kept := moved.kept.core
  rw [Mod.core_beginTld] at kept
  have tagged (j : Nat) := Core.tagOf_put _ _ _ _ j tag
  obtain ⟨hg, hf, -⟩ := tile
  have := tileFmt_iff.mp hf
  refine ⟨_, e, ?_, pos, held, acc.trans (kept.acc.trans acc'), mem.trans (moved.kept.mem.trans mem'), fun j hj => ?_, fun j hj => ?_, fun idle => ?_⟩
  · refine (tagged _).trans ?_
    rw [if_pos rfl, tagWord, b2n, if_neg Bool.false_ne_true]
    omega
  · refine (congrArg (SMap.get 0 · j) tiles).trans ((kept.tiles j ?_).trans (tiles' j ?_)) <;> unfold rowOf <;> omega
  · refine (tagged j).trans ?_
    rw [if_neg hj, kept.tag, tag', SMap.get_put_ne _ _ _ hj, Core.tagOf]
  · obtain ⟨g', none_left⟩ := regs' idle
    obtain ⟨g, none_left'⟩ := kept.regs none_left
    exact (regs none_left').trans (g.trans g')

/-- The element rows of a TLD that converts nothing (R152, R154, R155). -/
theorem exec_tld_copies {c n : Nat} {f : TileF} {s : State} (hc : isCore c = true) (legal : tldIlls f = [])
    (ready : s.mod.ready c 6 false false (tileRegs f) = true) (own : (s.mod.at c).MovesOwn c f) (tile : unscaledTile f.geo.toNat f.tfmt.toNat)
    (clean : s.mod.bad = []) (busy : (s.mod.at c).tileBusy f.idx.toNat = false) (whole : (s.mod.at c).tagPartial f.idx.toNat = false)
    (enough : memRows f ≤ n)
    (straight : f.tr = 0) (same : f.mfmt.toNat = f.tfmt.toNat) :
    ∃ t, exec (.tld c f n) s = .next t ∧ ∀ i x, i < memRows f → x < geoK f.geo.toNat f.tfmt.toNat →
      (t.mod.core c).tileRaw f.idx.toNat f.geo.toNat f.tfmt.toNat i x =
        bits (s.mod.rd (loftKey c + (s.mod.at c).rowEa f i) (memBytes f)) (x * codeBits f.tfmt.toNat) (codeBits f.tfmt.toNat) := by
  obtain ⟨m1, moved, e⟩ := exec_tld_own hc legal ready own tile clean busy whole enough
  obtain ⟨-, tiles, -⟩ := m1.ends_endTld c f ((s.mod.at c).pc + BitVec.ofNat 16 6)
  obtain ⟨mem, -⟩ := (s.mod.due c).beginTld_mem c (s.mod.at c) f
  refine ⟨_, e, fun i x hi hx => ?_⟩
  have copied := moved.copied straight same i x hi hx
  rw [Mod.rd, mem] at copied
  refine Eq.trans ?_ copied
  simp only [Core.tileRaw, Core.tileRow, State.runs, tiles]

/-- A misaligned base raises ALIGNMENT SUB 2 (R156). -/
theorem exec_tld_misaligned {c n : Nat} {f : TileF} {s : State} (hc : isCore c = true) (legal : tldIlls f = [])
    (ready : s.mod.ready c 6 false false (tileRegs f) = true) (level : (s.mod.at c).cs.level = true)
    (odd : ((s.mod.at c).gr f.a.toNat).toNat % 4 ≠ 0) :
    exec (.tld c f n) s = .next (s.traps c 4 2 ((s.mod.at c).gr f.a.toNat).toNat) := by
  have allowed (l : List (Nat × Nat)) : kernelSpans (s.mod.at c) l = none := kernelSpans_none fun p _ => Core.kernelOnly_none (.inl level)
  have misaligned : (layoutOf (s.mod.at c) f).misaligned = some ((s.mod.at c).gr f.a.toNat).toNat := if_pos odd
  rw [exec_tld_ready hc legal ready, tldBody]
  dsimp only
  rw [allowed]
  dsimp only
  rw [misaligned]
  rfl

end Sys2Proof.Machine
end

section
/-! TST of bytes to own Loft (R154, R155, R157). -/

namespace Sys2Proof.Machine

/-! ### TST: its source -/

/-- `n` elements of `w` bits, the first lowest. -/
def packed (w : Nat) (g : Nat → Nat) (n : Nat) : Nat := (List.range n).foldl (fun v j => v + g j % 2 ^ w * 2 ^ (w * j)) 0

theorem packed_succ (w : Nat) (g : Nat → Nat) (n : Nat) : packed w g (n + 1) = packed w g n + g n % 2 ^ w * 2 ^ (w * n) := by
  rw [packed, List.range_succ, List.foldl_append]
  rfl

theorem packed_congr {w n : Nat} {g h : Nat → Nat} (e : ∀ j, j < n → g j = h j) : packed w g n = packed w h n :=
  List.foldl_ext _ _ 0 fun v j hj => by rw [e j (List.mem_range.mp hj)]

theorem packed_lt (w : Nat) (g : Nat → Nat) : ∀ n, packed w g n < 2 ^ (w * n)
  | 0 => Nat.two_pow_pos _
  | n + 1 => by
    have below := packed_lt w g n
    have elem : g n % 2 ^ w + 1 ≤ 2 ^ w := Nat.mod_lt _ (Nat.two_pow_pos w)
    have grown := Nat.mul_le_mul_right (2 ^ (w * n)) elem
    rw [packed_succ, Nat.mul_add, Nat.mul_one, Nat.pow_add, Nat.mul_comm (2 ^ (w * n))]
    rw [Nat.succ_mul] at grown
    omega

/-- An element of a packed row. -/
theorem bits_packed (w : Nat) (g : Nat → Nat) : ∀ {n x : Nat}, x < n → bits (packed w g n) (w * x) w = g x % 2 ^ w
  | n + 1, x, hx => by
    rw [packed_succ]
    rcases Nat.lt_succ_iff_lt_or_eq.mp hx with below | rfl
    · have ends : w * x + w ≤ w * n := Nat.mul_le_mul_left w below
      rw [← bits_mod ends, Nat.add_mul_mod_self_right, bits_mod ends, bits_packed w g below]
    · rw [bits, Nat.add_mul_div_right _ _ (Nat.two_pow_pos _), Nat.div_eq_of_lt (packed_lt w g x), Nat.zero_add, Nat.mod_mod]

theorem byteOf_packed (g : Nat → Nat) {n x : Nat} (h : x < n) : byteOf (packed 8 g n) x = BitVec.ofNat 8 (g x) := by
  refine BitVec.eq_of_toNat_eq ?_
  rw [byteOf, BitVec.toNat_ofNat, BitVec.toNat_ofNat, ← bits_packed 8 g h, bits, Nat.pow_mul]

/-- The element rows of a TST that converts nothing are the tile's (R154). -/
theorem tstRows_copies {k : Core} {f : TileF} (tc : Tconv) (s : Shape) (same : f.mfmt.toNat = f.tfmt.toNat) : ∀ (n i g j : Nat), j < n →
    ((tstRows k f tc s n i g).1.getD j ([], [])).1 = (List.range s.cols).map (k.srcRaw f (i + j))
  | n + 1, i, g, 0, _ => by
    rw [tstRows]
    dsimp only
    rw [List.getD_cons_zero, tstRow]
    dsimp only
    rw [same, beq_self_eq_true, if_pos rfl, Nat.add_zero]
  | n + 1, i, g, j + 1, h => by
    rw [tstRows]
    dsimp only
    rw [List.getD_cons_succ, tstRows_copies tc s same n (i + 1) _ j (by omega), show i + 1 + j = i + (j + 1) by omega]

/-- The write of memory row `i`, of elements of one byte. -/
def tstWrite (k : Core) (f : TileF) (i : Nat) : TstWrite :=
  { ea := k.rowEa f i, n := geoK f.geo.toNat f.tfmt.toNat, data := packed 8 (k.srcRaw f i) (geoK f.geo.toNat f.tfmt.toNat), keep := 0 }

/-- A TST of a whole tile of 8-bit elements that converts nothing, row by row. -/
structure Core.StoresBytes (k : Core) (c : Nat) (f : TileF) : Prop where
  moves : k.MovesOwn c f
  straight : f.tr = 0
  tile : tileFmt f.tfmt.toNat = true
  same : f.tfmt.toNat = f.mfmt.toNat
  byte : codeBits f.tfmt.toNat = 8

theorem Core.StoresBytes.memRows_eq {k : Core} {c : Nat} {f : TileF} (h : k.StoresBytes c f) : memRows f = geoRows f.geo.toNat :=
  memRows_straight h.straight

theorem Core.StoresBytes.memBits_eq {k : Core} {c : Nat} {f : TileF} (h : k.StoresBytes c f) : memBits f.mfmt.toNat = 8 := by
  rw [← h.same, memBits_tile h.tile, h.byte]

theorem Core.StoresBytes.memBytes_eq {k : Core} {c : Nat} {f : TileF} (h : k.StoresBytes c f) : memBytes f = geoK f.geo.toNat f.tfmt.toNat := by
  rw [memBytes_straight h.straight, spanBytes, h.memBits_eq]
  omega

theorem Core.StoresBytes.rowEa_le {k : Core} {c : Nat} {f : TileF} (h : k.StoresBytes c f) {i : Nat} (hi : i < geoRows f.geo.toNat) :
    k.rowEa f i + geoK f.geo.toNat f.tfmt.toNat ≤ 0x400000 := by
  have := (h.moves.rowEa_le (h.memRows_eq ▸ hi)).1
  rwa [h.memBytes_eq] at this

theorem tstWrites_eq {k : Core} {c : Nat} {f : TileF} (h : k.StoresBytes c f) (tc : Tconv) (g : Nat) :
    tstWrites f (layoutOf k f) (tileShape f) (tstRows k f tc (tileShape f) (geoRows f.geo.toNat) 0 g).1 =
      (List.range (geoRows f.geo.toNat)).map (tstWrite k f) := by
  have bytes : (geoK f.geo.toNat f.tfmt.toNat * 8 + 7) / 8 = geoK f.geo.toNat f.tfmt.toNat := by omega
  have full (n : Nat) : (8 - n * 8 % 8) % 8 = 0 := by omega
  unfold tstWrites
  dsimp only
  rw [show (layoutOf k f).mf = f.mfmt.toNat from rfl, h.moves.unscaled, if_pos (by decide : (!false) = true), List.append_nil,
    if_neg (by rw [h.straight]; decide)]
  refine List.map_congr_left fun i hi => ?_
  have hi : i < geoRows f.geo.toNat := List.mem_range.mp hi
  rw [h.moves.row_eq (h.memRows_eq ▸ hi), spanBytes, h.memBits_eq, full, show (tileShape f).k = geoK f.geo.toNat f.tfmt.toNat from rfl, bytes]
  refine congrArg (TstWrite.mk _ _ · 0) (packed_congr (w := 8) fun x hx => ?_)
  rw [tstRows_copies tc _ h.same.symm _ _ _ _ hi, Nat.zero_add, show (tileShape f).cols = geoK f.geo.toNat f.tfmt.toNat from rfl]
  simp [List.getD, hx]

/-! ### TST: its writes -/

/-- Pieces of own Loft in their places. -/
def ownPlaces (l : List (Nat × Nat × Nat)) : List (Nat × Nat × Nat × Place) := l.map (fun p => (p.1, p.2.1, p.2.2, Place.own p.1))

theorem tstPlaces_own {k : Core} (fresh : k.xlat = []) : ∀ {l : List (Nat × Nat × Nat)}, (∀ p ∈ l, p.1 < 0x400000) →
    tstPlaces l k = (k, .inl (ownPlaces l))
  | [], _ => rfl
  | p :: t, own => by
    rw [tstPlaces, fresh, List.find?_nil]
    dsimp only
    rw [Core.place_own _ (own p List.mem_cons_self)]
    dsimp only
    rw [tstPlaces_own fresh fun q hq => own q (List.mem_cons_of_mem p hq)]
    rfl

/-- Looking a piece up among the places gives its own. -/
theorem find_ownPlaces {p : Nat × Nat × Nat} : ∀ {l : List (Nat × Nat × Nat)}, p ∈ l →
    (ownPlaces l).find? (fun q => q.1 == p.1 && q.2.1 == p.2.1 && q.2.2.1 == p.2.2) = some (p.1, p.2.1, p.2.2, Place.own p.1)
  | q :: t, hp => by
    rw [ownPlaces, List.map_cons, List.find?_cons]
    split
    · next found =>
      simp only [Bool.and_eq_true, beq_iff_eq] at found
      obtain ⟨⟨ea, n⟩, off⟩ := found
      rw [ea, n, off]
    · next other =>
      rcases List.mem_cons.mp hp with rfl | ht
      · simp at other
      · exact find_ownPlaces ht

theorem filterMap_ownPlaces {ps l : List (Nat × Nat × Nat)} (sub : ∀ p ∈ l, p ∈ ps) :
    l.filterMap (fun p => (ownPlaces ps).find? (fun q => q.1 == p.1 && q.2.1 == p.2.1 && q.2.2.1 == p.2.2)) = ownPlaces l :=
  List.filterMap_eq_map_iff_forall_eq_some.mpr fun p hp => find_ownPlaces (sub p hp)

/-- The pieces of a write of whole bytes to own Loft that holds no error write its bytes and nothing else (R157, R195). -/
theorem tstPieces_own {c tid : Nat} {w : TstWrite} (whole : w.keep = 0) : ∀ {l : List (Nat × Nat × Nat)} {off : Nat} {m : Mod},
    Covers w.ea w.n off l → m.bad = [] →
    (tstPieces c tid w (ownPlaces l) m).SameCores m ∧ ∀ a, SMap.get 0 (tstPieces c tid w (ownPlaces l) m).mem a =
      if loftKey c + w.ea + off ≤ a ∧ a < loftKey c + w.ea + w.n then byteOf w.data (a - (loftKey c + w.ea)) else SMap.get 0 m.mem a
  | [], off, m, covers, _ => by
    cases covers
    exact ⟨m.sameCores_refl, fun a => (if_neg (by omega)).symm⟩
  | (ea, n, o) :: l, off, m, ⟨at_, start, pos, rest⟩, clean => by
    dsimp only at at_ start pos rest
    subst at_ start
    obtain ⟨none_bad, same, read⟩ := Mod.loftWrite_clean clean (loftKey c + (w.ea + o)) n (bits w.data (8 * o) (8 * n))
    obtain ⟨same', read'⟩ := tstPieces_own (c := c) (tid := tid) whole rest (same.2 clean)
    have step : tstPieces c tid w (ownPlaces ((w.ea + o, n, o) :: l)) m =
        tstPieces c tid w (ownPlaces l) (m.loftWrite (loftKey c + (w.ea + o)) n (byteMask n) (bits w.data (8 * o) (8 * n))).1 := by
      rw [ownPlaces, List.map_cons, tstPieces]
      dsimp only
      rw [whole, ite_self, tstByte, if_pos rfl]
      dsimp only
      rw [none_bad]
      rfl
    have ends := rest.le
    rw [step]
    refine ⟨Mod.sameCores_trans same' same, fun a => ?_⟩
    rw [read', read]
    by_cases here : loftKey c + (w.ea + o) ≤ a ∧ a < loftKey c + (w.ea + o) + n
    · rw [if_neg (by omega), if_pos here, if_pos (by omega), byteOf_bits w.data (by omega : a - (loftKey c + (w.ea + o)) < n) rfl rfl]
      congr 1
      omega
    · rw [if_neg here]
      exact if_congr (by omega) rfl rfl

/-- The rows of a TST before row `r`, one after the other: each holds its elements, and no byte outside them is written. -/
theorem tstRows_written {k : Core} {c : Nat} {f : TileF} (h : k.StoresBytes c f) (apart : geoK f.geo.toNat f.tfmt.toNat ≤ (k.gr f.b.toNat).toNat)
    (tid : Nat) {m : Mod}
    (clean : m.bad = []) : ∀ {r : Nat}, r ≤ geoRows f.geo.toNat →
    let t := (List.range r).foldl (fun (x : Mod) i =>
      tstPieces c tid (tstWrite k f i) (ownPlaces (pieces (k.rowEa f i) (geoK f.geo.toNat f.tfmt.toNat))) x) m
    t.SameCores m ∧
      (∀ i x, i < r → x < geoK f.geo.toNat f.tfmt.toNat → SMap.get 0 t.mem (loftKey c + k.rowEa f i + x) = BitVec.ofNat 8 (k.srcRaw f i x)) ∧
      ∀ a, (∀ i, i < r → a < loftKey c + k.rowEa f i ∨ loftKey c + k.rowEa f i + geoK f.geo.toNat f.tfmt.toNat ≤ a) →
        SMap.get 0 t.mem a = SMap.get 0 m.mem a := by
  intro r
  induction r with
  | zero => exact fun _ => ⟨m.sameCores_refl, fun i x hi => absurd hi (Nat.not_lt_zero i), fun _ _ => rfl⟩
  | succ r ih =>
    intro hr
    obtain ⟨same, rows, others⟩ := ih (by omega)
    have covers := pieces_covers (show k.rowEa f r + geoK f.geo.toNat f.tfmt.toNat ≤ 2 ^ 64 by have := h.rowEa_le hr; omega)
    dsimp only
    rw [List.range_succ, List.foldl_append, List.foldl_cons, List.foldl_nil]
    generalize (List.range r).foldl _ m = u at same rows others ⊢
    obtain ⟨same', read⟩ := tstPieces_own (c := c) (tid := tid) (w := tstWrite k f r) rfl covers (same.2 clean)
    have read (a : Nat) : SMap.get 0 (tstPieces c tid (tstWrite k f r) (ownPlaces (pieces (k.rowEa f r) (geoK f.geo.toNat f.tfmt.toNat))) u).mem a =
        if loftKey c + k.rowEa f r ≤ a ∧ a < loftKey c + k.rowEa f r + geoK f.geo.toNat f.tfmt.toNat then
          byteOf (packed 8 (k.srcRaw f r) (geoK f.geo.toNat f.tfmt.toNat)) (a - (loftKey c + k.rowEa f r)) else SMap.get 0 u.mem a := read a
    refine ⟨Mod.sameCores_trans same' same, fun i x hi hx => ?_, fun a ha => ?_⟩
    · rw [read]
      rcases Nat.lt_succ_iff_lt_or_eq.mp hi with before | rfl
      · have disjoint : k.rowEa f i + geoK f.geo.toNat f.tfmt.toNat ≤ k.rowEa f r := by
          have := elem_le (w := (k.gr f.b.toNat).toNat) before
          unfold Core.rowEa
          omega
        rw [if_neg (by omega), rows i x before hx]
      · rw [if_pos (by omega), Nat.add_sub_cancel_left, byteOf_packed _ hx]
    · rw [read]
      have here := ha r (Nat.lt_succ_self r)
      rw [if_neg (by omega), others a fun i hi => ha i (by omega)]

/-! ### TST: its end -/

/-- Tiles, accumulators, general registers and the loads in flight agree. -/
def Core.SameFiles (u k : Core) : Prop := u.tiles = k.tiles ∧ u.tag = k.tag ∧ u.acc = k.acc ∧ u.g = k.g ∧ u.loads = k.loads

/-- Register-space writes that go out leave memory and the register files. -/
theorem Mod.regPump_files (m : Mod) (c : Nat) : (m.regPump c).mem = m.mem ∧ ((m.regPump c).core c).SameFiles (m.core c) := by
  unfold Mod.regPump
  split
  · exact ⟨rfl, rfl, rfl, rfl, rfl, rfl⟩
  · split
    · exact ⟨rfl, rfl, rfl, rfl, rfl, rfl⟩
    · refine ⟨(Mod.sameState_post _ _ _ _ _ _ _).1, ?_⟩
      rw [Mod.core_sameState (Mod.sameState_post _ _ _ _ _ _ _), Mod.onCore, Mod.core_setCore]
      exact ⟨rfl, rfl, rfl, rfl, rfl⟩

/-- The end of TST number `id` once its writes have set out (R157, R197). -/
def Mod.endTst (m : Mod) (c id : Nat) : Mod :=
  let m1 := (m.dropFetched c).regPump c
  (if m1.tstOut c id then m1 else m1.onCore c (fun k => (k.storeEnd id).rtRelease (.tst id))).coreEv c 0x06 1

theorem Core.SameFiles.released {u k : Core} (h : u.SameFiles k) (id : Nat) : ((u.storeEnd id).rtRelease (.tst id)).SameFiles k := h

theorem Mod.endTst_files (m : Mod) (c id : Nat) : (m.endTst c id).mem = m.mem ∧ ((m.endTst c id).core c).SameFiles (m.core c) := by
  obtain ⟨mem, files⟩ := (m.dropFetched c).regPump_files c
  unfold Mod.endTst
  dsimp only
  generalize (m.dropFetched c).regPump c = u at mem files ⊢
  rw [Mod.core_sameState (Mod.sameState_coreEv _ _ _ _), (Mod.sameState_coreEv _ _ _ _).1]
  split
  · exact ⟨mem, files⟩
  · rw [Mod.onCore, Mod.core_setCore]
    exact ⟨mem, files.released id⟩

/-- The module behind a TST that has ended. -/
theorem Mod.ends_endTst (m : Mod) (c id : Nat) (seq : PAddr) :
    let t := (m.endTst c id).ends c seq seq
    let u := t.core c
    let k := m.core c
    t.mem = m.mem ∧ u.tiles = k.tiles ∧ u.acc = k.acc ∧ u.tag = k.tag ∧ (k.loads = [] → u.g = k.g) := by
  obtain ⟨mem, tiles, tag, acc, regs, loads⟩ := m.endTst_files c id
  obtain ⟨tiles', tag', acc', -, regs'⟩ := (m.endTst c id).core_ends_tiles c seq seq
  have mem' := Mod.ends_mem (m.endTst c id) c seq seq
  exact ⟨mem'.trans mem, tiles'.trans tiles, acc'.trans acc, tag'.trans tag, fun idle => (regs' (loads.trans idle)).trans regs⟩

/-! ### TST -/

theorem tstReads_whole {l : List (TstWrite × List (Nat × Nat × Nat × Place))} (h : ∀ w ∈ l, w.1.keep = 0) : tstReads l = [] := by
  have kept : l.filter (fun w => w.1.keep != 0) = [] := List.filter_eq_nil_iff.mpr fun w hw => by simp [h w hw]
  rw [tstReads, kept]
  rfl

theorem tstWaits_own {c : Nat} {m : Mod} {k : Core} (free : k.rt = []) (l : List (Nat × Nat × Nat)) : (ownPlaces l).any (tstWaits c m k) = false := by
  rw [ownPlaces, List.any_map, List.any_eq_false]
  intro p _
  change ¬ k.rtBlocks c false p.1 p.2.1 true = true
  rw [Core.rtBlocks_free free]
  decide

/-- The rows of a TST of own Loft, each in its places. -/
def tstRowsAt (k : Core) (f : TileF) : List (TstWrite × List (Nat × Nat × Nat × Place)) :=
  (List.range (geoRows f.geo.toNat)).map (fun i => (tstWrite k f i, ownPlaces (pieces (k.rowEa f i) (geoK f.geo.toNat f.tfmt.toNat))))

/-- A TST takes its number, and its core an entry of the range tracker and the next random state (R157, R196). -/
def Core.enterTst (k : Core) (e : RtEntry) (srng : BitVec 32) : Core := { k with rt := k.rt ++ [e], srng := srng, xlat := [] }
def Mod.enterTst (m : Mod) (c : Nat) (k : Core) (e : RtEntry) (srng : BitVec 32) : Mod :=
  ({ m.setCore c k with nextId := m.nextId + 1 } : Mod).setCore c (k.enterTst e srng)

theorem Mod.core_enterTst (m : Mod) (c : Nat) (k : Core) (e : RtEntry) (srng : BitVec 32) : (m.enterTst c k e srng).core c = k.enterTst e srng :=
  Mod.core_setCore _ _ _

theorem Mod.enterTst_mem (m : Mod) (c : Nat) (k : Core) (e : RtEntry) (srng : BitVec 32) :
    (m.enterTst c k e srng).mem = m.mem ∧ (m.enterTst c k e srng).bad = m.bad := ⟨rfl, rfl⟩

/-- A TST of bytes in own Loft whose tile holds them writes every row and completes. -/
theorem tstBody_own {c : Nat} {f : TileF} {m : Mod} {k : Core} (h : k.StoresBytes c f) (src : f.src = 0)
    (tag : k.tagOf f.idx.toNat = f.geo.toNat * 64 + f.tfmt.toNat) :
    ∃ e srng, tstBody c f m k = .ok (((tstRowsAt k f).foldl (fun (x : Mod) w => tstPieces c m.nextId w.1 w.2 x)
      (m.enterTst c k e srng)).endTst c m.nextId) := by
  have tile : ¬ f.src = 1 := by
    rw [src]
    decide
  have fmt := (tileFmt_iff.mp h.tile).2
  have whole : k.tagPartial f.idx.toNat = false := by
    rw [Core.tagPartial, tag, bits, beq_eq_false_iff_ne]
    omega
  obtain ⟨-, -, -, -, tracker, fresh, -⟩ := h.moves.own
  have inLoft : ∀ p ∈ ((List.range (geoRows f.geo.toNat)).map (tstWrite k f)).flatMap (fun w => pieces w.ea w.n), p.1 < 0x400000 := by
    intro p hp
    obtain ⟨w, hw, hp⟩ := List.mem_flatMap.mp hp
    obtain ⟨i, hi, rfl⟩ := List.mem_map.mp hw
    have ends := h.rowEa_le (List.mem_range.mp hi)
    have := ((pieces_covers (by change k.rowEa f i + geoK f.geo.toNat f.tfmt.toNat ≤ _; omega)).mem_le p hp).2
    exact Nat.lt_of_lt_of_le this ends
  have each : ((List.range (geoRows f.geo.toNat)).map (tstWrite k f)).map (fun w => (w, (pieces w.ea w.n).filterMap (fun p =>
      (ownPlaces (((List.range (geoRows f.geo.toNat)).map (tstWrite k f)).flatMap (fun w => pieces w.ea w.n))).find?
        (fun q => q.1 == p.1 && q.2.1 == p.2.1 && q.2.2.1 == p.2.2)))) = tstRowsAt k f := by
    rw [List.map_map, tstRowsAt]
    refine List.map_congr_left fun i hi => ?_
    refine Prod.ext rfl (filterMap_ownPlaces fun p hp => ?_)
    exact List.mem_flatMap.mpr ⟨_, List.mem_map_of_mem hi, hp⟩
  unfold tstBody
  dsimp only
  rw [if_neg tile, if_neg tile, shapeOf_whole h.moves.whole, h.moves.kernelSpans_none]
  dsimp only
  rw [h.moves.misaligned_none]
  dsimp only
  rw [if_neg (by rw [tag]; omega), if_neg (by simp [whole]), if_neg fun acc => tile acc.1, tstWrites_eq h, tstPlaces_own fresh inLoft]
  dsimp only
  rw [each, tstWaits_own tracker, if_neg (by simp [tracker]), tstReads_whole (by simp [tstRowsAt, tstWrite])]
  exact ⟨_, _, rfl⟩

theorem tstIlls_none {f : TileF} (src : f.src = 0) (geo : f.geo.toNat < 3) (fmt : tileFmt f.tfmt.toNat = true) (mem : f.mfmt.toNat < 15)
    (idx : f.idx.toNat < 8)
    (rm : f.rm.toNat < 3) (low : f.low = 0) : tstIlls f = [] := by
  have shape : ¬ f.geo = 3#2 := fun h => by rw [h] at geo; exact absurd geo (by decide)
  have mode : ¬ f.rm = 3#2 := fun h => by rw [h] at rm; exact absurd rm (by decide)
  simp [tstIlls, shape, mode, fmt, mem, src, low, marked, Nat.not_le.mpr idx]

/-- A TST of a whole tile of 8-bit elements writes its rows to own Loft and nothing else (R154, R155, R157). -/
theorem exec_tst_own {c : Nat} {f : TileF} {s : State} (hc : isCore c = true) (legal : tstIlls f = [])
    (ready : s.mod.ready c 6 false false (tileRegs f) = true) (h : (s.mod.at c).StoresBytes c f) (src : f.src = 0)
    (clean : s.mod.bad = []) (apart : geoK f.geo.toNat f.tfmt.toNat ≤ ((s.mod.at c).gr f.b.toNat).toNat)
    (tag : (s.mod.at c).tagOf f.idx.toNat = f.geo.toNat * 64 + f.tfmt.toNat) :
    let k := s.mod.at c
    ∃ t, exec (.tst c f) s = .next t ∧
      (∀ i x, i < geoRows f.geo.toNat → x < geoK f.geo.toNat f.tfmt.toNat →
        SMap.get 0 t.mod.mem (loftKey c + k.rowEa f i + x) = BitVec.ofNat 8 (k.srcRaw f i x)) ∧
      (∀ a, (∀ i, i < geoRows f.geo.toNat → a < loftKey c + k.rowEa f i ∨ loftKey c + k.rowEa f i + geoK f.geo.toNat f.tfmt.toNat ≤ a) →
        SMap.get 0 t.mod.mem a = SMap.get 0 s.mod.mem a) ∧
      (t.mod.core c).tiles = k.tiles ∧ (t.mod.core c).acc = k.acc ∧ (t.mod.core c).tag = k.tag ∧ (k.loads = [] → (t.mod.core c).g = k.g) := by
  intro k
  obtain ⟨e, srng, body⟩ := tstBody_own (m := s.mod.due c) h src tag
  have issued : exec (.tst c f) s = .next { s with mod := s.mod.answers c 6 (tstBody c f (s.mod.due c) k) } := by
    change execTst c f s = _
    rw [execTst, legal, onCoreOnly_ready hc ready]
  obtain ⟨mem', bad'⟩ := (s.mod.due c).enterTst_mem c k e srng
  obtain ⟨same, rows, others⟩ := tstRows_written h apart (s.mod.due c).nextId (bad'.trans clean) le_rfl
  rw [body, tstRowsAt, List.foldl_map] at issued
  have core := Mod.core_sameCores same c
  rw [Mod.core_enterTst] at core
  rw [mem'] at others
  generalize (List.range (geoRows f.geo.toNat)).foldl _ _ = u at same rows others issued core
  obtain ⟨mem, tiles, acc, tags, regs⟩ := u.ends_endTst c (s.mod.due c).nextId (k.pc + BitVec.ofNat 16 6)
  rw [core] at tiles tags acc regs
  change exec (.tst c f) s =
    .next { s with mod := (u.endTst c (s.mod.due c).nextId).ends c (k.pc + BitVec.ofNat 16 6) (k.pc + BitVec.ofNat 16 6) } at issued
  generalize (u.endTst c (s.mod.due c).nextId).ends c _ _ = t at issued mem tiles acc tags regs
  rw [← mem] at rows others
  exact ⟨_, issued, rows, others, tiles, acc, tags, regs⟩

end Sys2Proof.Machine
end

section
/-! O26. -/

namespace Sys2Proof.Machine

/-- Settles O26: a TLD moves its rows one after the other and each keeps what the rows before it wrote; a TST writes its rows one after the other,
and rows at least as far apart as they are long do not overlap. -/
theorem tileTransfers : Obligations.TileTransfers := by
  unfold Obligations.TileTransfers
  refine ⟨⟨?_, ?_⟩, ?_, ?_⟩
  · intro c f n s hc src geo fmt mem unscaled plain idx rm low ext ready enough clean k own busy whole
    exact exec_tld_frame hc (tldIlls_none src geo fmt mem idx rm low) ready ⟨ext, unscaled, own⟩ ⟨geo, fmt, plain⟩ clean busy whole
      ((memRows_le f geo).trans enough)
  · intro c f n s hc src geo fmt mem idx rm low ready level odd
    exact exec_tld_misaligned hc (tldIlls_none src geo fmt mem idx rm low) ready level odd
  · intro c f n s hc src geo fmt same unscaled straight idx rm low ext ready enough clean k own busy whole
    have mem : f.mfmt.toNat < 15 := by have := tileFmt_iff.mp fmt; omega
    have all : memRows f ≤ n := (memRows_straight straight).trans_le ((geoRows_le geo).trans enough)
    obtain ⟨t, e, rows⟩ := exec_tld_copies hc (tldIlls_none src geo fmt mem idx rm low) ready ⟨ext, unscaled, own⟩
      ⟨geo, fmt, same ▸ unscaled⟩ clean busy whole all
      straight same
    rw [memRows_straight straight, memBytes_straight straight] at rows
    refine ⟨t, e, fun i x hi hx => (rows i x hi hx).trans ?_⟩
    rw [Core.rowEa, Nat.add_assoc]
  · intro c f s hc src geo same byte fmt unscaled straight idx rm low ext ready clean k base stride cols own apart tag
    have mem : f.mfmt.toNat < 15 := by have := tileFmt_iff.mp fmt; omega
    have elem (i x : Nat) : k.srcRaw f i x = k.tileRaw f.idx.toNat f.geo.toNat f.tfmt.toNat i x := if_neg (by rw [src]; decide)
    have row (i : Nat) : loftKey c + k.rowEa f i = loftKey c + base + i * stride := (Nat.add_assoc _ _ _).symm
    obtain ⟨t, e, rows, others, files⟩ := exec_tst_own hc (tstIlls_none src geo fmt mem idx rm low) ready
      ⟨⟨ext, unscaled, own⟩, straight, fmt, same, byte⟩ src
      clean apart tag
    refine ⟨t, e, fun i x hi hx => ?_, fun a ha => others a fun i hi => ?_, files⟩
    · have inByte : k.tileRaw f.idx.toNat f.geo.toNat f.tfmt.toNat i x < 2 ^ 8 := byte ▸ bits_lt _ _ _
      rw [← row, rows i x hi hx, elem, BitVec.toNat_ofNat, Nat.mod_eq_of_lt inByte]
    · rw [row]
      exact ha i hi

end Sys2Proof.Machine
end
